-- ==== Sys2Proof/Word.lean ====
section
/-! DEFINITION. The word types of the machine (R4, R48, R49) and the shape of its sparse tables. -/

namespace Sys2Proof

/-- A byte of memory or scratch. -/
abbrev Byte := BitVec 8

/-- A scalar register or an SN-A word (R48, R112). -/
abbrev Word := BitVec 64

/-- A vector register or an SN-B word (R49, R112). -/
abbrev VWord := BitVec 1024

/-- A predicate register (R48). -/
abbrev PWord := BitVec 128

/-- An instruction word of a core (R58). -/
abbrev IWord := BitVec 32

/-- An instruction word of a switch (R62). -/
abbrev SwWord := BitVec 64

/-- A table from natural keys to values, its keys rising strictly; what an unlisted key reads as is said where the table
is read. -/
abbrev Tbl (α : Type) := List (Nat × α)

end Sys2Proof
end

