-- ==== Sys2Proof/Config.lean ====
section
/-! DEFINITION. What an implementation fixes and the values the spec leaves open. None of the constants has a body that a
proof could see, so a statement holds whatever they are. -/

namespace Sys2Proof.Config

/-- SHA-384 of a byte string (R75, R306): computed by the Starter and the boot core; its value is no concern of the model. -/
opaque sha384 : List Byte → BitVec 384

/-- Whether an Ed25519 signature over a digest verifies under a key (R75). -/
opaque ed25519Verify : (key sig : List Byte) → (digest : BitVec 384) → Bool

/-- Whether an ML-DSA-65 signature over a digest verifies under a key (R75). -/
opaque mlDsa65Verify : (key sig : List Byte) → (digest : BitVec 384) → Bool

/-- The SHA-384 digest of a firmware bundle, whose layout the spec does not give: over its four images and its version (R301, R302). -/
opaque bundleDigest : (images : List (List Byte)) → (version : Nat) → BitVec 384

/-- The digest of the fuse state (R301, R306), of which the spec gives no layout. -/
opaque fuseDigest : (hashes : List (BitVec 384 × Bool)) → (counter : BitVec 64) → (secret : BitVec 256) → BitVec 384

/-- The two signatures of a quote over its bytes, under the keys derived from the device-unique secret (R306). -/
opaque quoteSignatures : (secret : BitVec 256) → List Byte → List Byte

/-- The n-th free value: a value the spec leaves open, fresh for every use (R12 and the places the log names). -/
opaque freeValue : Nat → BitVec 64

end Sys2Proof.Config
end

