-- ==== Sys2Proof/Syntax.lean ====
section
/-! DEFINITION. The instructions and events of the machine: one constructor per row of spec/opcode_table.json: the core's
198 instructions (04_opcode_map, R77 to R90), the switch's nine words (R91), and the 70 steps that the table names and that
have no encoding: what the memory side, the engines, the Starter, the supervisor and the host do. An event's arguments say
WHICH of the things the state holds ready it concerns; the steps of one packet in flight concern the one that State.pick
names, and the steps of a core's pipeline the core that steps. The constructors without operands stand last. -/

namespace Sys2Proof

/-- A register field (R58). -/
abbrev Reg := BitVec 5

/-- A predicate field: 0..7, so no predicate field can name a port (R53). -/
abbrev PReg := BitVec 3

/-- An agent that has a Yuwald core (R23, R26). A tile is named by its number 64 × lane + 32 × (column mod 2) + row, the
member number of R304, from which R15's gang tile index is a subtraction; a memory core by its number of R16. -/
inductive Agent where
  | tile (n : Nat)
  | mem (k : Nat)
  | svc (t : Nat)
  | starter (i : Nat)
  | boot
  deriving DecidableEq, Repr

/-- The types of VINT and, with the floating ones, of VCMP (R86). -/
inductive VType where
  | s8 | s16 | s32 | n8 | n16 | n32
  deriving DecidableEq, Repr

/-- The types of VFLT (R86). -/
inductive FType where
  | bf16 | f32
  deriving DecidableEq, Repr

/-- The types of VCMP (R86). -/
inductive CType where
  | int (t : VType)
  | flt (t : FType)
  deriving DecidableEq, Repr

/-- The conditions of VCMP (R86). -/
inductive VCond where
  | eq | ne | lt | le | gt | ge
  deriving DecidableEq, Repr

/-- The rounding codes of R86. -/
inductive Rnd where
  | rne | rtz | rdn | rup
  deriving DecidableEq, Repr

/-- The route part of a switch word (R62): per plane the source code of each link output, the delivery mask (bit 0 N .. bit 3
W), the M sink and the cursor, and the edge-port select. -/
structure Routes where
  aN : BitVec 3
  aE : BitVec 3
  aS : BitVec 3
  aW : BitVec 3
  aMask : BitVec 4
  aSink : BitVec 3
  bN : BitVec 3
  bE : BitVec 3
  bS : BitVec 3
  bW : BitVec 3
  bMask : BitVec 4
  bSink : BitVec 3
  aCur : BitVec 2
  bCur : BitVec 2
  edge : BitVec 2
  deriving DecidableEq, Repr

/-- What the supervisor answers to a class-S freeze: it raises the undo quota or the staging quota and resumes the core, or
ends the job (R239, R261, R266). -/
inductive Resume where
  | raise (quota stage : Nat)
  | endJob
  deriving DecidableEq, Repr

/-- A supervisor write to a configuration register or table that has no row of its own (CONFIG_WRITE). -/
inductive ConfigItem where
  /-- Bind queue q to a context, or unbind it: head and tail become 0 (R220). -/
  | queueBind (q ctx : Nat) (bound : Bool)
  /-- Put a context into the running set or suspend it (R225). -/
  | contextRunning (ctx : Nat) (running : Bool)
  /-- Base and size of a context's completion queue: producer and consumer become 0 (R228). -/
  | completionQueue (ctx base s : Nat)
  /-- Save area of a context: physical base and size in bytes (R243). -/
  | saveArea (ctx base size : Nat)
  /-- The lap control record's fields (R255). -/
  | lapControl (ctx undoN undoS undoSize quota stageBase stageQuota seal0 seal1 limit flags : Nat)
  /-- Virtual address of a context's endpoint table (R289). -/
  | endpointTable (ctx va : Nat)
  /-- Register the hashes of a signing key pair for a context (R75). -/
  | signingKeys (ctx ed ml : Nat)
  /-- A leaf entry that the Starter and the hardware units use for a context (R33, R39; the supervisor's tables, R206). -/
  | page (ctx : Nat) (leaf : BitVec 128)
  /-- Remove such an entry. -/
  | dropPage (ctx va : Nat)
  /-- A format window (R186). -/
  | formatWindow (i ebase elimit sbase fmt ncol pitch : Nat)
  /-- An entry of the time-triggered table (R232). -/
  | ttEntry (i time out inn : Nat) (valid : Bool)
  /-- A route-table entry of Global Link (R295). -/
  | route (pkg : Nat) (mask : BitVec 24)
  /-- The power cap in watts (R309). -/
  | powerCap (watts : Nat)
  /-- The package restarts after a thermal stop (R309), or a stopped Starter's package after service (R236). -/
  | restart
  /-- The lease_run register of a member, written through the debug path (R160). -/
  | leaseRun (ag : Agent) (v : Word)
  /-- The packages of a context's job (R26). -/
  | jobPackages (ctx : Nat) (pkgs : List Nat)
  /-- Make a context resident or not (R29, R229). -/
  | contextResident (ctx : Nat) (resident : Bool)
  /-- Name a Starter core standby again after its re-test (R235). -/
  | standby
  /-- Place a baton's bytes, a record or other data in HBM through the debug path. -/
  | poke (phys : Nat) (bytes : List Byte)
  deriving DecidableEq, Repr

/-- A firmware bundle of the boot flash (R301): the images of the secure boot core, the Starter cores, the translation service cores
and the management controller, its version, its signature block laid out as in R75. -/
structure BundleFacts where
  bootImage : List Byte
  starterImage : List Byte
  svcImage : List Byte
  mgmtImage : List Byte
  version : Nat
  block : List Byte
  deriving DecidableEq, Repr

/-- What the march test finds in a member (R304). -/
structure MarchFacts where
  /-- The member's number. -/
  member : Nat
  /-- Failing rows of its scratch banks, in the order in which the test meets them: bank and row. -/
  rows : List (Nat × Nat)
  /-- A fault elsewhere, which nothing repairs. -/
  other : Bool
  deriving DecidableEq, Repr

/-- What the boot meets outside the state: the bundles in the boot flash, the links, the march test (R302 to R304). -/
structure BootFacts where
  bundleA : BundleFacts
  bundleB : BundleFacts
  dieEdgesOk : Bool
  hbmOk : Bool
  /-- Lanes that PCIe trains to (R287). -/
  pcieWidth : Nat
  glUp : BitVec 24
  march : List MarchFacts
  deriving DecidableEq, Repr

/-- One constructor per row of spec/opcode_table.json. -/
inductive Instr where
  /-- ADD: Writes xa + xb modulo 2^64 to xd. (R332) -/
  | add (d a b : Reg)
  /-- SUB: Writes xa − xb modulo 2^64 to xd. (R332) -/
  | sub (d a b : Reg)
  /-- AND: Writes the bitwise AND of xa and xb to xd. (R332) -/
  | and (d a b : Reg)
  /-- OR: Writes the bitwise OR of xa and xb to xd. (R332) -/
  | or (d a b : Reg)
  /-- XOR: Writes the bitwise XOR of xa and xb to xd. (R332) -/
  | xor (d a b : Reg)
  /-- ANDN: Writes xa AND NOT xb to xd. (R332) -/
  | andn (d a b : Reg)
  /-- SLL: Shifts xa left by xb[0..5] and writes the result to xd. (R332) -/
  | sll (d a b : Reg)
  /-- SRL: Shifts xa right logically by xb[0..5] and writes the result to xd. (R332) -/
  | srl (d a b : Reg)
  /-- SRA: Shifts xa right arithmetically by xb[0..5] and writes the result to xd. (R332) -/
  | sra (d a b : Reg)
  /-- SLT: Sets xd to 1 if xa < xb as signed numbers, otherwise 0. (R332) -/
  | slt (d a b : Reg)
  /-- SLTN: Sets xd to 1 if xa < xb as natural numbers, otherwise 0. (R332) -/
  | sltn (d a b : Reg)
  /-- MIN: Writes the signed minimum of xa and xb to xd. (R332) -/
  | min (d a b : Reg)
  /-- MAX: Writes the signed maximum of xa and xb to xd. (R332) -/
  | max (d a b : Reg)
  /-- MINN: Writes the natural minimum of xa and xb to xd. (R332) -/
  | minn (d a b : Reg)
  /-- MAXN: Writes the natural maximum of xa and xb to xd. (R332) -/
  | maxn (d a b : Reg)
  /-- MUL: Writes the low 64 bits of xa × xb to xd, readable 3 tc after issue. (R394) -/
  | mul (d a b : Reg)
  /-- MULH: Writes the high 64 bits of the signed 128-bit product to xd. (R394) -/
  | mulh (d a b : Reg)
  /-- MULHN: Writes the high 64 bits of the natural 128-bit product to xd. (R394) -/
  | mulhn (d a b : Reg)
  /-- DIV: Writes the signed quotient of xa by xb to xd, readable 20 tc after issue. (R349) -/
  | div (d a b : Reg)
  /-- DIVN: Writes the natural quotient of xa by xb to xd. (R349) -/
  | divn (d a b : Reg)
  /-- REM: Writes the signed remainder of xa by xb to xd. (R349) -/
  | rem (d a b : Reg)
  /-- REMN: Writes the natural remainder of xa by xb to xd. (R349) -/
  | remn (d a b : Reg)
  /-- CLZ: Writes the count of leading zero bits of xa to xd. (R345) -/
  | clz (d a : Reg)
  /-- CTZ: Writes the count of trailing zero bits of xa to xd. (R345) -/
  | ctz (d a : Reg)
  /-- POPC: Writes the number of set bits of xa to xd. (R345) -/
  | popc (d a : Reg)
  /-- CMOV: Writes xa to xd only when xb is not zero. (R346) -/
  | cmov (d a b : Reg)
  /-- ADDI: Writes xa plus the sign-extended immediate to xd. (R333) -/
  | addi (d a : Reg) (imm : BitVec 16)
  /-- ANDI: Writes xa AND the zero-extended immediate to xd. (R333) -/
  | andi (d a : Reg) (imm : BitVec 16)
  /-- ORI: Writes xa OR the zero-extended immediate to xd. (R333) -/
  | ori (d a : Reg) (imm : BitVec 16)
  /-- XORI: Writes xa XOR the zero-extended immediate to xd. (R333) -/
  | xori (d a : Reg) (imm : BitVec 16)
  /-- SLLI: Shifts xa left by an immediate amount into xd. (R400) -/
  | slli (d a : Reg) (sh : BitVec 6)
  /-- SRLI: Shifts xa right logically by an immediate amount into xd. (R400) -/
  | srli (d a : Reg) (sh : BitVec 6)
  /-- SRAI: Shifts xa right arithmetically by an immediate amount into xd. (R400) -/
  | srai (d a : Reg) (sh : BitVec 6)
  /-- RORI: Rotates xa right by an immediate amount into xd. (R400) -/
  | rori (d a : Reg) (sh : BitVec 6)
  /-- SLTI: Sets xd to 1 if xa is below the sign-extended immediate as signed numbers. (R333) -/
  | slti (d a : Reg) (imm : BitVec 16)
  /-- SLTNI: Sets xd to 1 if xa is below the sign-extended immediate as natural numbers. (R333) -/
  | sltni (d a : Reg) (imm : BitVec 16)
  /-- LI: Writes the sign-extended 21-bit immediate to xd. (R381) -/
  | li (d : Reg) (imm : BitVec 21)
  /-- LIS: Shifts xd left by 21 and ORs in the 21-bit immediate. (R381) -/
  | lis (d : Reg) (imm : BitVec 21)
  /-- ADDPC: Writes the byte offset of a pc-relative target in the slot to xd. (R334) -/
  | addpc (d : Reg) (imm : BitVec 21)
  /-- EXTS: Extracts a bit field of xa, sign-extended, into xd. (R356) -/
  | exts (d a : Reg) (pos len1 : BitVec 6)
  /-- EXTZ: Extracts a bit field of xa, zero-extended, into xd. (R356) -/
  | extz (d a : Reg) (pos len1 : BitVec 6)
  /-- INS: Inserts the low bits of xa into a bit field of xd. (R356) -/
  | ins (d a : Reg) (pos len1 : BitVec 6)
  /-- LD: Loads 1, 2, 4 or 8 bytes from a global virtual address into xd through the cache or the home. (R378) -/
  | ld (d a : Reg) (w : BitVec 2) (nat : Bool) (imm : BitVec 13)
  /-- ST: Stores the low bytes of the data register to a global virtual address. (R409) -/
  | st (src a : Reg) (w : BitVec 2) (imm : BitVec 14)
  /-- LDL: Loads from a local or remote tile-space address into xd. (R379) -/
  | ldl (d a : Reg) (w : BitVec 2) (nat : Bool) (imm : BitVec 13)
  /-- STL: Stores to a local or remote tile-space address. (R410) -/
  | stl (src a : Reg) (w : BitVec 2) (imm : BitVec 14)
  /-- LDNF: Loads as LD but suppresses translation faults, writing 0 and setting an nf_stat bit. (R380) -/
  | ldnf (d a : Reg) (w : BitVec 2) (nat : Bool) (imm : BitVec 13)
  /-- AMO_ADD_W: Atomically adds xb to the word at xa at its home and returns the old value. (R336) -/
  | amoAddW (d a b : Reg)
  /-- AMO_ADD_D: Atomically adds xb to the doubleword at xa at its home. (R336) -/
  | amoAddD (d a b : Reg)
  /-- AMO_MIN_W: Atomically stores the signed minimum of the word and xb. (R336) -/
  | amoMinW (d a b : Reg)
  /-- AMO_MIN_D: Atomically stores the signed minimum of the doubleword and xb. (R336) -/
  | amoMinD (d a b : Reg)
  /-- AMO_MAX_W: Atomically stores the signed maximum of the word and xb. (R336) -/
  | amoMaxW (d a b : Reg)
  /-- AMO_MAX_D: Atomically stores the signed maximum of the doubleword and xb. (R336) -/
  | amoMaxD (d a b : Reg)
  /-- AMO_MINN_W: Atomically stores the natural minimum of the word and xb. (R336) -/
  | amoMinnW (d a b : Reg)
  /-- AMO_MINN_D: Atomically stores the natural minimum of the doubleword and xb. (R336) -/
  | amoMinnD (d a b : Reg)
  /-- AMO_MAXN_W: Atomically stores the natural maximum of the word and xb. (R336) -/
  | amoMaxnW (d a b : Reg)
  /-- AMO_MAXN_D: Atomically stores the natural maximum of the doubleword and xb. (R336) -/
  | amoMaxnD (d a b : Reg)
  /-- AMO_AND_D: Atomically ANDs xb into the doubleword at xa. (R336) -/
  | amoAndD (d a b : Reg)
  /-- AMO_OR_D: Atomically ORs xb into the doubleword at xa. (R336) -/
  | amoOrD (d a b : Reg)
  /-- AMO_XOR_D: Atomically XORs xb into the doubleword at xa. (R336) -/
  | amoXorD (d a b : Reg)
  /-- AMO_SWAP_W: Atomically swaps xb into the word at xa. (R336) -/
  | amoSwapW (d a b : Reg)
  /-- AMO_SWAP_D: Atomically swaps xb into the doubleword at xa. (R336) -/
  | amoSwapD (d a b : Reg)
  /-- AMO_FADD_F32: Atomically adds an FP32 value to the word at xa, rounding RNE. (R336) -/
  | amoFaddF32 (d a b : Reg)
  /-- AMO_FADD_BF16X4: Atomically adds four BF16 lanes to the doubleword at xa. (R336) -/
  | amoFaddBf16x4 (d a b : Reg)
  /-- AMO_INCB_W: Atomically increments the word at xa, wrapping to 0 at the bound xb. (R336) -/
  | amoIncbW (d a b : Reg)
  /-- CAS_W: Compares the word at xa with xd and swaps in xb on a match, returning the old value. (R343) -/
  | casW (d a b : Reg)
  /-- CAS_D: Compares the doubleword at xa with xd and swaps in xb on a match. (R343) -/
  | casD (d a b : Reg)
  /-- BEQ: Branches when xa equals xb. (R340) -/
  | beq (a b : Reg) (off : BitVec 13)
  /-- BNE: Branches when xa differs from xb. (R340) -/
  | bne (a b : Reg) (off : BitVec 13)
  /-- BLT: Branches when xa < xb as signed numbers. (R340) -/
  | blt (a b : Reg) (off : BitVec 13)
  /-- BGE: Branches when xa ≥ xb as signed numbers. (R340) -/
  | bge (a b : Reg) (off : BitVec 13)
  /-- BLTN: Branches when xa < xb as natural numbers. (R340) -/
  | bltn (a b : Reg) (off : BitVec 13)
  /-- BGEN: Branches when xa ≥ xb as natural numbers. (R340) -/
  | bgen (a b : Reg) (off : BitVec 13)
  /-- J: Jumps by a signed word offset. (R373) -/
  | j (off : BitVec 26)
  /-- JAL: Jumps by a word offset and writes the return address to x1. (R373) -/
  | jal (off : BitVec 26)
  /-- JALR: Jumps to xa plus an offset and writes the return address to xd. (R374) -/
  | jalr (d a : Reg) (imm : BitVec 16)
  /-- JTAB: Reads a jump-table entry from global memory and jumps, or falls through for an index out of range. (R108) -/
  | jtab (a b : Reg) (n1 : BitVec 8)
  /-- LOOP: Arms a hardware loop slot with the count in xa. (R383) -/
  | loop (k : Bool) (a : Reg) (fin : BitVec 16)
  /-- LOOPI: Arms a hardware loop slot with an immediate count. (R383) -/
  | loopi (k : Bool) (cnt : BitVec 12) (fin : BitVec 13)
  /-- FENCE: Freezes until every earlier access of the scope's class is performed. (R202) -/
  | fence (scope : BitVec 2)
  /-- CFLUSH: Writes back and invalidates the cache line holding xa. (R344) -/
  | cflush (a : Reg)
  /-- CINV: Invalidates the cache line holding xa and discards its dirty bytes. (R344) -/
  | cinv (a : Reg)
  /-- TLBINV: Invalidates TLB entries and the cached lines of the page holding xa across the package. (R214) -/
  | tlbinv (a : Reg)
  /-- TLBW: Sends a leaf entry as the fill for the service core's current miss. (R213) -/
  | tlbw (a b : Reg)
  /-- MFS: Reads a system register into xd. (R389) -/
  | mfs (d : Reg) (sr : BitVec 16)
  /-- MTS: Writes xa to a system register with that register's effect. (R389) -/
  | mts (a : Reg) (sr : BitVec 16)
  /-- SIG: Compares the block signature checker against the expected value and re-arms it. (R274) -/
  | sig (sig : BitVec 16)
  /-- HURDLE: Arrives at the gang, package or job barrier and waits for it to complete. (R368) -/
  | hurdle (scope : BitVec 2)
  /-- HURDLE_S: Arrives at a sealing barrier and waits for it to complete. (R368) -/
  | hurdleS (scope : BitVec 2)
  /-- ACQ: Requests a synchronisation object exclusively or shared and freezes until granted. (R199) -/
  | acq (a : Reg) (shared : Bool)
  /-- REL: Writes back bound dirty sectors, waits for acknowledgements and releases an object. (R200) -/
  | rel (a : Reg)
  /-- BIND: Adds a region to the context's binding table for an object. (R198) -/
  | bind (a b : Reg)
  /-- UNBIND: Removes every binding of an object. (R198) -/
  | unbind (a : Reg)
  /-- WAITQ: Appends the core's node to an object's wait queue and parks. (R253) -/
  | waitq (a : Reg)
  /-- WAKE: Fences, then releases the first xb waiters of an object's queue. (R253) -/
  | wake (a b : Reg)
  /-- DECIDE: Sends a decision token naming a slot for the whole gang and stops the core. (R348) -/
  | decide (slot : BitVec 2)
  /-- BATON: Fences and appends an indirect baton entry to a Starter queue. (R339) -/
  | baton (a b : Reg)
  /-- HFORK: Opens a heat record and appends its runner batons. (R364) -/
  | hfork (d a : Reg)
  /-- HREWARD: Deposits the issuing runner's reward in its heat slot. (R279) -/
  | hreward (a b : Reg)
  /-- HWAIT: Parks until a heat closes, then returns status and flags. (R370) -/
  | hwait (d a : Reg)
  /-- HCANCEL: Cancels one runner of a heat. (R280) -/
  | hcancel (a b : Reg)
  /-- DSEND: Sends 32 bytes of scratch to an agent and freezes until accepted. (R351) -/
  | dsend (a b : Reg)
  /-- DRECV: Waits for and takes the oldest received message into scratch. (R352) -/
  | drecv (d a : Reg)
  /-- DPOLL: Returns the number of queued messages. (R353) -/
  | dpoll (d : Reg)
  /-- XCOLL: Starts a job-wide collective on the Exchange Engines. (R297) -/
  | xcoll (a : Reg)
  /-- XWAIT: Waits for a collective's status to reach done or failed. (R432) -/
  | xwait (a : Reg)
  /-- VADD: Adds integer elements with wrap. (R418) -/
  | vadd (t : VType) (p : PReg) (d a b : Reg)
  /-- VSUB: Subtracts integer elements with wrap. (R418) -/
  | vsub (t : VType) (p : PReg) (d a b : Reg)
  /-- VMUL: Multiplies integer elements keeping the low half. (R418) -/
  | vmul (t : VType) (p : PReg) (d a b : Reg)
  /-- VMIN: Takes the element-wise integer minimum. (R418) -/
  | vmin (t : VType) (p : PReg) (d a b : Reg)
  /-- VMAX: Takes the element-wise integer maximum. (R418) -/
  | vmax (t : VType) (p : PReg) (d a b : Reg)
  /-- VAND: Bitwise AND of vector elements. (R418) -/
  | vand (t : VType) (p : PReg) (d a b : Reg)
  /-- VOR: Bitwise OR of vector elements. (R418) -/
  | vor (t : VType) (p : PReg) (d a b : Reg)
  /-- VXOR: Bitwise XOR of vector elements. (R418) -/
  | vxor (t : VType) (p : PReg) (d a b : Reg)
  /-- VSHL: Shifts elements left by vb's element modulo the width. (R418) -/
  | vshl (t : VType) (p : PReg) (d a b : Reg)
  /-- VSHR: Shifts elements right logically. (R418) -/
  | vshr (t : VType) (p : PReg) (d a b : Reg)
  /-- VSRA: Shifts elements right arithmetically. (R418) -/
  | vsra (t : VType) (p : PReg) (d a b : Reg)
  /-- VABS: Takes the element-wise absolute value with wrap. (R418) -/
  | vabs (t : VType) (p : PReg) (d a : Reg)
  /-- VNEG: Negates elements with wrap. (R418) -/
  | vneg (t : VType) (p : PReg) (d a : Reg)
  /-- VADDS: Adds integer elements with saturation. (R418) -/
  | vadds (t : VType) (p : PReg) (d a b : Reg)
  /-- VSUBS: Subtracts integer elements with saturation. (R418) -/
  | vsubs (t : VType) (p : PReg) (d a b : Reg)
  /-- VFADD: Adds floating elements rounding RNE. (R422) -/
  | vfadd (t : FType) (p : PReg) (d a b : Reg)
  /-- VFSUB: Subtracts floating elements rounding RNE. (R422) -/
  | vfsub (t : FType) (p : PReg) (d a b : Reg)
  /-- VFMUL: Multiplies floating elements rounding RNE. (R422) -/
  | vfmul (t : FType) (p : PReg) (d a b : Reg)
  /-- VFMIN: Takes the floating minimum under the NaN rule of R135. (R422) -/
  | vfmin (t : FType) (p : PReg) (d a b : Reg)
  /-- VFMAX: Takes the floating maximum under the NaN rule of R135. (R422) -/
  | vfmax (t : FType) (p : PReg) (d a b : Reg)
  /-- VFABS: Clears the sign bit of each element. (R422) -/
  | vfabs (t : FType) (p : PReg) (d a : Reg)
  /-- VFNEG: Inverts the sign bit of each element. (R422) -/
  | vfneg (t : FType) (p : PReg) (d a : Reg)
  /-- VFEXP2: Computes 2^x per element rounded RNE. (R422) -/
  | vfexp2 (t : FType) (p : PReg) (d a : Reg)
  /-- VFLOG2: Computes log2 x per element rounded RNE. (R422) -/
  | vflog2 (t : FType) (p : PReg) (d a : Reg)
  /-- VFRCP: Computes 1/x per element rounded RNE. (R422) -/
  | vfrcp (t : FType) (p : PReg) (d a : Reg)
  /-- VFRSQ: Computes 1/sqrt(x) per element rounded RNE. (R422) -/
  | vfrsq (t : FType) (p : PReg) (d a : Reg)
  /-- VFMA_F32: Fused FP32 multiply-add rounded once. (R423) -/
  | vfmaF32 (p : PReg) (d a b c : Reg)
  /-- VFMA_BF16: Fused BF16 multiply-add rounded once. (R423) -/
  | vfmaBf16 (p : PReg) (d a b c : Reg)
  /-- VFMS_F32: Fused FP32 multiply-subtract rounded once. (R423) -/
  | vfmsF32 (p : PReg) (d a b c : Reg)
  /-- VFMS_BF16: Fused BF16 multiply-subtract rounded once. (R423) -/
  | vfmsBf16 (p : PReg) (d a b c : Reg)
  /-- VCMP: Compares elements under a condition and writes a whole predicate. (R419) -/
  | vcmp (cond : VCond) (t : CType) (p : PReg) (d : PReg) (a b : Reg)
  /-- VCVT_F32_BF16: Converts FP32 elements to BF16. (R420) -/
  | vcvtF32Bf16 (rnd : Rnd) (sat z : Bool) (p : PReg) (d a : Reg)
  /-- VCVT_BF16_F32: Widens BF16 elements exactly to FP32. (R420) -/
  | vcvtBf16F32 (z : Bool) (p : PReg) (d a : Reg)
  /-- VCVT_F32_E4M3: Converts FP32 elements to E4M3. (R420) -/
  | vcvtF32E4m3 (rnd : Rnd) (sat z : Bool) (p : PReg) (d a : Reg)
  /-- VCVT_F32_E5M2: Converts FP32 elements to E5M2. (R420) -/
  | vcvtF32E5m2 (rnd : Rnd) (sat z : Bool) (p : PReg) (d a : Reg)
  /-- VCVT_BF16_E4M3: Converts BF16 elements to E4M3. (R420) -/
  | vcvtBf16E4m3 (rnd : Rnd) (sat z : Bool) (p : PReg) (d a : Reg)
  /-- VCVT_BF16_E5M2: Converts BF16 elements to E5M2. (R420) -/
  | vcvtBf16E5m2 (rnd : Rnd) (sat z : Bool) (p : PReg) (d a : Reg)
  /-- VCVT_E4M3_BF16: Widens E4M3 bytes exactly to BF16. (R420) -/
  | vcvtE4m3Bf16 (z : Bool) (p : PReg) (d a : Reg)
  /-- VCVT_E5M2_BF16: Widens E5M2 bytes exactly to BF16. (R420) -/
  | vcvtE5m2Bf16 (z : Bool) (p : PReg) (d a : Reg)
  /-- VCVT_F32_S32: Converts FP32 elements to signed 32-bit integers. (R420) -/
  | vcvtF32S32 (rtz sat z : Bool) (p : PReg) (d a : Reg)
  /-- VCVT_S32_F32: Converts signed 32-bit integers to FP32. (R420) -/
  | vcvtS32F32 (rnd : Rnd) (sat : Bool) (p : PReg) (d a : Reg)
  /-- VCVT_F32_N32: Converts FP32 elements to natural 32-bit integers. (R420) -/
  | vcvtF32N32 (rtz sat z : Bool) (p : PReg) (d a : Reg)
  /-- VCVT_N32_F32: Converts natural 32-bit integers to FP32. (R420) -/
  | vcvtN32F32 (rnd : Rnd) (sat : Bool) (p : PReg) (d a : Reg)
  /-- VCVT_S32_S16: Narrows 32-bit integers to 16 bits, optionally clamped. (R420) -/
  | vcvtS32S16 (sat : Bool) (p : PReg) (d a : Reg)
  /-- VCVT_S16_S8: Narrows 16-bit integers to 8 bits, optionally clamped. (R420) -/
  | vcvtS16S8 (sat : Bool) (p : PReg) (d a : Reg)
  /-- VCVT_E2M1_E4M3: Converts scaled E2M1 nibbles to E4M3 bytes. (R420) -/
  | vcvtE2m1E4m3 (rnd : Rnd) (sat z : Bool) (p : PReg) (d a b : Reg)
  /-- VSEL: Copies va elements into vd where the predicate is set. (R424) -/
  | vsel (sz : BitVec 2) (p : PReg) (d a : Reg)
  /-- VSPLAT: Fills every element of vd with the low bits of xa. (R424) -/
  | vsplat (sz : BitVec 2) (d a : Reg)
  /-- VMOVX: Moves one vector element into a scalar register. (R424) -/
  | vmovx (sz : BitVec 2) (d a b : Reg)
  /-- VINS: Inserts a scalar into one vector element. (R424) -/
  | vins (sz : BitVec 2) (d a b : Reg)
  /-- VSHUF: Permutes the bytes of va by the byte indices in vb. (R424) -/
  | vshuf (p : PReg) (d a b : Reg)
  /-- VROT: Rotates the bytes of va by xb. (R424) -/
  | vrot (p : PReg) (d a b : Reg)
  /-- VIOTA: Sets each element to its index. (R424) -/
  | viota (sz : BitVec 2) (d : Reg)
  /-- VRADD: Sums the FP32 elements by the fixed tree into element 0. (R421) -/
  | vradd (p : PReg) (d a : Reg)
  /-- VRMAX: Takes the FP32 maximum by the fixed tree into element 0. (R421) -/
  | vrmax (p : PReg) (d a : Reg)
  /-- VRMIN: Takes the FP32 minimum by the fixed tree into element 0. (R421) -/
  | vrmin (p : PReg) (d a : Reg)
  /-- VDOT: Forms the BF16 dot product summed by the fixed tree into element 0. (R421) -/
  | vdot (p : PReg) (d a b : Reg)
  /-- PAND: ANDs two predicates. (R397) -/
  | pand (d a b : PReg)
  /-- POR: ORs two predicates. (R397) -/
  | por (d a b : PReg)
  /-- PXOR: XORs two predicates. (R397) -/
  | pxor (d a b : PReg)
  /-- PNOT: Inverts a predicate. (R397) -/
  | pnot (d a : PReg)
  /-- PCNT: Counts the set bits of a predicate into xd. (R397) -/
  | pcnt (d : Reg) (a : PReg)
  /-- PFIRST: Writes the index of the lowest set predicate bit into xd. (R397) -/
  | pfirst (d : Reg) (a : PReg)
  /-- PSET: Sets the low min(xa, 128) bits of a predicate. (R397) -/
  | pset (d : PReg) (a : Reg)
  /-- VLD: Loads 128 bytes of scratch into a vector register. (R426) -/
  | vld (d a : Reg) (imm : BitVec 13)
  /-- VST: Stores a vector register into 128 bytes of scratch. (R428) -/
  | vst (src a : Reg) (imm : BitVec 14)
  /-- VLDX: Gathers 32-bit scratch words by element offsets. (R427) -/
  | vldx (p : PReg) (d a b : Reg)
  /-- VSTX: Scatters 32-bit elements to scratch by element offsets. (R427) -/
  | vstx (p : PReg) (src a b : Reg)
  /-- VLDB: Splats one 32-bit scratch word to every element. (R427) -/
  | vldb (d a : Reg)
  /-- MMA: Checks and issues a matrix multiply-accumulate command to the block. (R392) -/
  | mma (a : Reg)
  /-- MCELL: Issues a command loading the core's cell program. (R385) -/
  | mcell (a : Reg)
  /-- MZERO: Issues a command clearing an accumulator bank. (R396) -/
  | mzero (k : BitVec 1)
  /-- MDRAIN: Issues a command converting and writing an accumulator bank to scratch. (R387) -/
  | mdrain (a : Reg)
  /-- BUFDEF: Defines or removes a double-buffered scratch region. (R342) -/
  | bufdef (k : BitVec 3) (a : Reg)
  /-- PUBLISH: Waits for shadow writers and swaps a buffer's halves. (R398) -/
  | publish (k : BitVec 3)
  /-- EWAIT: Freezes until no scoreboard entry overlaps a scratch range. (R355) -/
  | ewait (a b : Reg)
  /-- SCUR: Loads a switch stream cursor whole from scratch. (R403) -/
  | scur (k : BitVec 2) (a : Reg)
  /-- SRD: Checks a descriptor and starts a read or copy stream. (R408) -/
  | srd (a : Reg)
  /-- SWR: Checks a descriptor and starts a write stream. (R408) -/
  | swr (a : Reg)
  /-- LAPQ: Returns lap id, seal-pending bit and rollback count. (R265) -/
  | lapq (d : Reg)
  /-- ROUTE: Switch word that performs its routes and advances spc. (R402) -/
  | route (r : Routes)
  /-- SJ: Switch word that routes and jumps, optionally indexed by a counter. (R120) -/
  | sj (r : Routes) (t : BitVec 10) (indexed : Bool) (n : BitVec 2)
  /-- SLOOP: Switch word that routes and loads a counter. (R120) -/
  | sloop (r : Routes) (n : BitVec 2) (cnt : BitVec 14)
  /-- SDBNZ: Switch word that routes, decrements a counter and jumps while non-zero. (R120) -/
  | sdbnz (r : Routes) (n : BitVec 2) (t : BitVec 10)
  /-- SMOV: Switch word that pops an SN-A word into a counter. (R120) -/
  | smov (r : Routes) (n : BitVec 2) (src : BitVec 3)
  /-- SCUR_SWITCH: Switch word that reloads a cursor's remaining count. (R118) -/
  | scurSwitch (r : Routes) (n : BitVec 2) (cnt : BitVec 14)
  /-- STOK: Switch word that sends a decision token. (R124) -/
  | stok (r : Routes) (slot : BitVec 2)
  /-- SWAITH: Switch word that stalls until the gang hurdle completes. (R124) -/
  | swaith (r : Routes)
  /-- SHALT: Switch word that routes and stops the switch. (R124) -/
  | shalt (r : Routes)
  /-- SUPERVISOR_RESUME: The supervisor resumes a core frozen on a class-S cause, or ends the job. (R239) -/
  | supervisorResume (ag : Agent) (fix : Resume)
  /-- HEAT_DEADLINE: A heat's run time reaches its deadline, cancelling unsettled runners and closing it. (R282) -/
  | heatDeadline (rec : Nat)
  /-- RUNNER_RETIRE: The Starter stops and retires a cancelled runner without release. (R362) -/
  | runnerRetire (serial : Nat)
  /-- STREAM_COMPLETE: A stream has delivered or written every word and frees its slot. (R185) -/
  | streamComplete (mc slot : Nat)
  /-- STREAM_FAULT: A stream meets a fault before a run and stops with a notice, or ends with BOUNDARY or ILLEGAL. (R216) -/
  | streamFault (mc slot : Nat)
  /-- CURSOR_EXHAUSTED: A switch cursor's remaining count reaches 0 and its scoreboard entry retires. (R116) -/
  | cursorExhausted (tile cur : Nat)
  /-- MATRIX_CMD_BEGIN: An accepted matrix command starts once earlier commands on its bank complete. (R150) -/
  | matrixCmdBegin (quad idx : Nat)
  /-- MATRIX_CMD_COMPLETE: A matrix command completes and its scoreboard entries retire. (R149) -/
  | matrixCmdComplete (quad idx : Nat)
  /-- LEASE_GRANT: The matrix lease passes to the next waiting core in rotation. (R160) -/
  | leaseGrant (quad : Nat)
  /-- HURDLE_COMPLETE: Every member has arrived and landed, and the barrier releases them all. (R41) -/
  | hurdleComplete (serial : Nat)
  /-- JOB_HURDLE_ARRIVAL: An Exchange Engine receives another package's hurdle arrival. (R299) -/
  | jobHurdleArrival (serial pkg : Nat)
  /-- GANG_AT_SEAL: A sealing hurdle's conditions hold and the Starter writes the seal record and votes. (R267) -/
  | gangAtSeal (serial : Nat)
  /-- SEAL_COMMIT: All votes are in and every package commits the seal, advancing lap_id and releasing staging. (R268) -/
  | sealCommit (ctx : Nat)
  /-- IDLE_SEAL: The job becomes idle and the Starter requests a seal itself. (R268) -/
  | idleSeal (ctx : Nat)
  /-- RECLAMATION_DONE: A memory core finishes clearing the previous lap's tags and frees its chunks. (R260) -/
  | reclamationDone (ctx mc : Nat)
  /-- ROLLBACK: A trigger halts the job, replays undo, restores seal state and resumes. (R272) -/
  | rollback (ctx : Nat)
  /-- COLLECTIVE_COMPLETE: The Exchange Engines finish combining a collective and set its status. (R297) -/
  | collectiveComplete (idx : Nat) (others : List (Nat × List Byte)) (order : List Nat)
  /-- QUIET_MARKER: A peer's quiet marker arrives on a GL port, ending capture for the context. (R249) -/
  | quietMarker (ctx port : Nat)
  /-- INCARNATION_ADVANCE: A peer package resets or is lost and its incarnation advances. (R217) -/
  | incarnationAdvance (pkg : Nat)
  /-- TTIME_REACHED: Track time reaches a time-triggered baton's ttime. (R33) -/
  | ttimeReached (q : Nat)
  /-- LOAD_COMMIT: Every member has reported its image write, and the slot flips or the load fails and is retried. (R227) -/
  | loadCommit (serial : Nat) (clean : Bool)
  /-- RELEASE_COMPLETE: Release acknowledgements arrive and the completion word and successor steps follow. (R38) -/
  | releaseComplete (baton : Nat)
  /-- AGING: A ready baton waits 2 ms and its effective priority rises. (R46) -/
  | aging (q : Nat)
  /-- TIME_TRIGGERED_SWITCH: A due table entry suspends one context and runs another. (R233) -/
  | timeTriggeredSwitch (idx : Nat)
  /-- DECISION_TOKEN: A decision token reaches the Starter and stops every member of the gang. (R43) -/
  | decisionToken (serial : Nat)
  /-- DECISION_FLIP: All members have stopped, and the gang flips slot, or raises DEADLOCK or LOADFAIL. (R42) -/
  | decisionFlip (serial : Nat)
  /-- PREEMPT: The Starter stops, drains, writes back and saves a gang. (R242) -/
  | preempt (serial : Nat)
  /-- RESTORE: The Starter reloads a saved gang and releases it in one tc. (R248) -/
  | restore (serial : Nat)
  /-- LOCK_HOLDER_NOTICE: A home finds an object held by a saved gang and the Starter restores the holder. (R254) -/
  | lockHolderNotice (holder waiter : Nat)
  /-- JOURNAL_DONE: An acknowledgement arrives and the response unit marks the journal entry done. (R234) -/
  | journalDone (seq : Nat)
  /-- ISSUE: A write of a journal seq makes the response unit perform that entry's change. (R327) -/
  | issue (seq : Nat)
  /-- KICK: A host write sets a queue's pending bit, with or without append. (R222) -/
  | kick (w : BitVec 32)
  /-- SUBMIT: A host write fills a queue's submission buffer, or is discarded while an append is pending. (R222) -/
  | submit (q : Nat) (buf : VWord)
  /-- CQCTL_CONSUMER_WRITE: The host advances the consumer count or sets the host ring, releasing held records. (R228) -/
  | cqctlConsumerWrite (c off : Nat) (w : Word)
  /-- EPKICK: A host write starts the in-copy of a stream endpoint. (R291) -/
  | epkick (w : BitVec 32)
  /-- IN_COPY_COMPLETE: An in-copy's words are performed, then the counter is decremented and the queue kicked. (R291) -/
  | inCopyComplete (idx : Nat) (words : List Word)
  /-- HOST_WAKE_ARMED_WRITE: The supervisor sets or clears the gang's host-wake armed bit. (R294) -/
  | hostWakeArmedWrite (serial : Nat) (v : Word)
  /-- ERR_INJECT_WRITE: The supervisor arms error injection on a member. (R321) -/
  | errInjectWrite (ag : Agent) (v : Word)
  /-- ERR_INJECT_FIRE: The skip count reaches 0 and the matching event's data is marked uncorrectable. (R321) -/
  | errInjectFire (ag : Agent) (kind : BitVec 2) (addr : Word)
  /-- CONFIG_WRITE: A supervisor write to a configuration register or table with no row of its own. (R186) -/
  | configWrite (item : ConfigItem)
  /-- CONTEXT_CREATE: The secure boot core draws a context's XTS key and writes it into its key slot. (R307) -/
  | contextCreate (ctx : Nat)
  /-- CONTEXT_TEARDOWN: A context is torn down and its key slot overwritten with random bytes. (R307) -/
  | contextTeardown (ctx : Nat)
  /-- QUOTE: The management controller returns a dual-signed attestation quote for a nonce. (R306) -/
  | quote (nonce : BitVec 256)
  /-- SCRUB_SECTOR: The scrubber reads a sector, corrects it or marks it poisoned. (R275) -/
  | scrubSector (addr : Nat) (bad : Bool)
  /-- BOOT: The package verifies firmware, trains links, runs the march test and starts the Starter. (R302) -/
  | boot (f : BootFacts)
  /-- ISLAND_SET: The management controller sets an island's frequency or gates it. (R308) -/
  | islandSet (i freq : Nat) (gated : Bool)
  /-- FREQUENCY_STEP: Under the power or thermal limit a compute island steps down one frequency step. (R309) -/
  | frequencyStep (i : Nat)
  /-- STREAM_WORD: A running stream moves its next plane word: SRD pushes a word read from HBM into the edge FIFO toward the tile, and SWR pops a word from the FIFO toward the memory core and writes its run. (R183) -/
  | streamWord (mc slot : Nat)
  /-- TRAP: Completes and raises BREAK at the next boundary. (R414) -/
  | trap
  /-- TRET: Returns from the trap handler and re-injects the landing records. (R241) -/
  | tret
  /-- GENBUMP: Advances the data-cache generation so clean filled sectors become stale. (R179) -/
  | genbump
  /-- WBALL: Writes back every dirty sector and freezes until every home acknowledges. (R430) -/
  | wball
  /-- IDLE: Freezes until a message, miss, notice or pending cause arrives. (R372) -/
  | idle
  /-- SEALREQ: Sets the seal-pending bit so the next hurdle seals. (R405) -/
  | sealreq
  /-- FINISH: Waits for the core's outstanding work and ends its part of the leg. (R358) -/
  | finish
  /-- MLEASE: Requests the quad's matrix lease and freezes until holding. (R390) -/
  | mlease
  /-- MREL: Gives up or withdraws from the matrix lease. (R390) -/
  | mrel
  /-- MWAIT: Freezes until every matrix command of the core has completed. (R395) -/
  | mwait
  /-- SWAIT: Freezes until every stream of the memory core has completed or ended. (R411) -/
  | swait
  /-- UNDOSPILL: Spills the scratch undo area into the HBM undo area. (R264) -/
  | undospill
  /-- VECTOR_LANDING: An in-flight vector or predicate result, or a landing record, lands or pushes to its port. (R111) -/
  | vectorLanding
  /-- SCALAR_RESULT_WRITE: A multi-cycle scalar result is written and interlocked readers unfreeze. (R94) -/
  | scalarResultWrite
  /-- ACCESS_RESPONSE: The response of a blocking load, remote LDL, atomic or heat request arrives and writes its register. (R94) -/
  | accessResponse
  /-- LOOP_EVAL: An instruction completes at an armed loop end and the slot counts down, returns or disarms. (R106) -/
  | loopEval
  /-- POSTED_REFUSAL: A negative acknowledgement of a posted STL arrives and raises REFUSED. (R169) -/
  | postedRefusal
  /-- DEFERRED_FAILURE_REPORT: A failure report of a posted remote access arrives and is held for the next fence, REL, hurdle or FINISH. (R218) -/
  | deferredFailureReport
  /-- REMOTE_TILE_ACCESS: A remote tile-space access arrives at the owner, is checked against windows and performed or refused. (R170) -/
  | remoteTileAccess
  /-- CACHE_FILL: A sector fill request is served at the home memory core. (R178) -/
  | cacheFill
  /-- WRITE_BACK: A masked sector write-back is performed at the home memory core. (R180) -/
  | writeBack
  /-- MEMSIDE_ACCESS: A memory-side load or posted store is performed at the home memory core. (R193) -/
  | memsideAccess
  /-- HOME_ATOMIC: An AMO or CAS is read, combined and written in one home step. (R194) -/
  | homeAtomic
  /-- OBJECT_GRANT: The home grants the head request of an object's queue. (R199) -/
  | objectGrant
  /-- OBJECT_RELEASE: A release arrives at the object's home and frees the hold. (R200) -/
  | objectRelease
  /-- WAKE_DELIVERY: A wake reaches a parked WAITQ core, which advances gen and resumes. (R429) -/
  | wakeDelivery
  /-- MESSAGE_ACCEPT: A dynamic-network message or miss enters a receive queue. (R351) -/
  | messageAccept
  /-- TLB_FILL: A fill reaches the requester, installs an entry or raises PAGE, and retries the access. (R213) -/
  | tlbFill
  /-- OUT_TRANSFER: The host stream engine writes a completed SWR's out bytes to host memory. (R292) -/
  | outTransfer
  /-- STARTER_PASS: The Starter takes kicks, examines heads, executes due entries and places gangs. (R224) -/
  | starterPass
  /-- PUSH_BUFFER_APPEND: Room frees in a queue and a buffered successor push is appended. (R223) -/
  | pushBufferAppend
  /-- DEADLOCK_SCAN: Every 1,000 ns the Starter scans park lines and raises DEADLOCK on a gang unchanged across two scans. (R252) -/
  | deadlockScan
  /-- STARTER_TAKEOVER: An uncorrectable error halts the active Starter core and the standby replays the journal. (R235) -/
  | starterTakeover
  /-- THERMAL_TRIP: Junction temperature reaches 115 °C and every gang is saved and the package stopped. (R309) -/
  | thermalTrip
  deriving DecidableEq, Repr

end Sys2Proof
end

