-- ==== Sys2Proof/WellFormed.lean ====
section
/-! DEFINITION. Which instructions have an encoding (R59, R62, R63, R78, R80, R85, R88, R91): the checks on operands that the
types of the fields do not make already. An event has no encoding and no check. -/

namespace Sys2Proof

/-- A bit field of BITF: position + length at most 64 (R80). -/
def bitFieldOk (pos len1 : BitVec 6) : Bool := decide (pos.toNat + len1.toNat + 1 ≤ 64)

/-- Width and natural bit of a load: natural = 1 with width 3 is refused (R58). -/
def widthOk (w : BitVec 2) (nat : Bool) : Bool := !(nat && w == 3#2)

/-- A scope of HURDLE: 0 gang, 1 package, 2 job (R85). -/
def hurdleScopeOk (scope : BitVec 2) : Bool := scope != 3#2

/-- The defects of R63 and R91 in one plane's routes: a source code of 7, an M sink of 5..7, M as source and as sink at once,
a cursor on a plane that does not use M. -/
def planeOk (n e s w sink : BitVec 3) (cur : BitVec 2) : Bool :=
  n != 7#3 && e != 7#3 && s != 7#3 && w != 7#3 && decide (sink.toNat ≤ 4) &&
  !(sink != 0#3 && (n == 6#3 || e == 6#3 || s == 6#3 || w == 6#3)) &&
  (cur == 0#2 || sink != 0#3 || n == 6#3 || e == 6#3 || s == 6#3 || w == 6#3)

/-- The routes of a switch word have none of the defects of R63 that the word alone shows. -/
def Routes.ok (r : Routes) : Bool :=
  planeOk r.aN r.aE r.aS r.aW r.aSink r.aCur && planeOk r.bN r.bE r.bS r.bW r.bSink r.bCur && r.edge != 3#2

/-- The source of SMOV: 1..5 (R91). -/
def smovSourceOk (src : BitVec 3) : Bool := decide (1 ≤ src.toNat ∧ src.toNat ≤ 5)

/-- An instruction whose operands an encoding admits. -/
def Instr.WellFormed (i : Instr) : Bool :=
  match i with
  | .exts _ _ pos len1 | .extz _ _ pos len1 | .ins _ _ pos len1 => bitFieldOk pos len1
  | .ld _ _ w nat _ | .ldl _ _ w nat _ | .ldnf _ _ w nat _ => widthOk w nat
  | .hurdle scope | .hurdleS scope => hurdleScopeOk scope
  | .route r | .sj r _ _ _ | .sloop r _ _ | .sdbnz r _ _ | .scurSwitch r _ _ | .stok r _ | .swaith r | .shalt r => r.ok
  | .smov r _ src => r.ok && smovSourceOk src
  | _ => true

end Sys2Proof
 
end

