-- ==== Sys2Proof/Decode.lean ====
section
/-! DEFINITION. The decoder of the core's 32-bit words (R58 to R61, R77 to R90) and of the switch's 64-bit words (R62, R63,
R91), total and rejecting by name, and the encoder written from the same tables. -/

namespace Sys2Proof

/-- Why a word is no instruction (R59, R63). Every one of them raises ILLEGAL on a core (R59), and LOADFAIL for a switch
word (R63, R91). -/
inductive DecodeError where
  /-- The all-zero word. -/
  | allZero
  /-- A major in 0x00 or 0x32..0x3F. -/
  | major
  /-- An fn, cond, kind or type value not defined for its major. -/
  | function
  /-- A reserved field, or a pg field of a form that has none, that is not zero. -/
  | reserved
  /-- A predicate, buffer, cursor, bank, slot or scope number that the form cannot use. -/
  | number
  /-- Natural = 1 with width 3. -/
  | natural
  /-- A BITF with pos + len above 64. -/
  | bitField
  /-- A route part of R63, or a switch control opcode 9..15. -/
  | routes
  deriving DecidableEq, Repr

/-! ### The fields of a core word (R58, R61) -/

/-- The major opcode. -/
def fMajor (w : IWord) : BitVec 6 := w.extractLsb' 0 6
/-- Field d, or the data register of a store. -/
def fD (w : IWord) : Reg := w.extractLsb' 6 5
/-- Field a. -/
def fA (w : IWord) : Reg := w.extractLsb' 11 5
/-- Field b. -/
def fB (w : IWord) : Reg := w.extractLsb' 16 5
/-- Field pg of format R. -/
def fPg (w : IWord) : PReg := w.extractLsb' 21 3
/-- Field fn of format R. -/
def fFn (w : IWord) : BitVec 8 := w.extractLsb' 24 8
/-- The immediate of format I. -/
def fImm16 (w : IWord) : BitVec 16 := w.extractLsb' 16 16
/-- The immediate of format U. -/
def fImm21 (w : IWord) : BitVec 21 := w.extractLsb' 11 21
/-- The width of formats M and S. -/
def fWidth (w : IWord) : BitVec 2 := w.extractLsb' 16 2
/-- The natural bit of format M. -/
def fNat (w : IWord) : Bool := w.getLsbD 18
/-- The immediate of format M. -/
def fImm13 (w : IWord) : BitVec 13 := w.extractLsb' 19 13
/-- The immediate of format S. -/
def fImm14 (w : IWord) : BitVec 14 := w.extractLsb' 18 14
/-- The condition of format B. -/
def fCond (w : IWord) : BitVec 3 := w.extractLsb' 6 3
/-- Field a of format B. -/
def fBa (w : IWord) : Reg := w.extractLsb' 9 5
/-- Field b of format B. -/
def fBb (w : IWord) : Reg := w.extractLsb' 14 5
/-- The offset of format B. -/
def fBoff (w : IWord) : BitVec 13 := w.extractLsb' 19 13
/-- The offset of format J. -/
def fJoff (w : IWord) : BitVec 26 := w.extractLsb' 6 26
/-- Field c of format Q. -/
def fQc (w : IWord) : Reg := w.extractLsb' 21 5
/-- Field pg of format Q. -/
def fQpg (w : IWord) : PReg := w.extractLsb' 26 3
/-- Field fn of format Q. -/
def fQfn (w : IWord) : BitVec 3 := w.extractLsb' 29 3
/-- The slot of formats LOOP and LOOPI. -/
def fSlot (w : IWord) : Bool := w.getLsbD 6
/-- The count of format LOOPI. -/
def fCount (w : IWord) : BitVec 12 := w.extractLsb' 7 12
/-- The end of format LOOPI. -/
def fLoopEnd (w : IWord) : BitVec 13 := w.extractLsb' 19 13
/-- The reserved bits 7..10 of format LOOP. -/
def fLoopRes (w : IWord) : BitVec 4 := w.extractLsb' 7 4

/-- A one-bit field. -/
def bit (b : Bool) : BitVec 1 := if b then 1#1 else 0#1

/-- Format R. -/
def encR (major : BitVec 6) (d a b : Reg) (pg : PReg) (fn : BitVec 8) : IWord := fn ++ pg ++ b ++ a ++ d ++ major
/-- Format I. -/
def encI (major : BitVec 6) (d a : Reg) (imm : BitVec 16) : IWord := imm ++ a ++ d ++ major
/-- Format U. -/
def encU (major : BitVec 6) (d : Reg) (imm : BitVec 21) : IWord := imm ++ d ++ major
/-- Format M. -/
def encM (major : BitVec 6) (d a : Reg) (width : BitVec 2) (nat : Bool) (imm : BitVec 13) : IWord :=
  imm ++ bit nat ++ width ++ a ++ d ++ major
/-- Format S. -/
def encS (major : BitVec 6) (data a : Reg) (width : BitVec 2) (imm : BitVec 14) : IWord := imm ++ width ++ a ++ data ++ major
/-- Format B. -/
def encB (major : BitVec 6) (cond : BitVec 3) (a b : Reg) (off : BitVec 13) : IWord := off ++ b ++ a ++ cond ++ major
/-- Format J. -/
def encJ (major : BitVec 6) (off : BitVec 26) : IWord := off ++ major
/-- Format Q. -/
def encQ (major : BitVec 6) (d a b c : Reg) (pg : PReg) (fn : BitVec 3) : IWord := fn ++ pg ++ c ++ b ++ a ++ d ++ major
/-- Format LOOP. -/
def encLoop (major : BitVec 6) (slot : Bool) (a : Reg) (fin : BitVec 16) : IWord := fin ++ a ++ 0#4 ++ bit slot ++ major
/-- Format LOOPI. -/
def encLoopi (major : BitVec 6) (slot : Bool) (cnt : BitVec 12) (fin : BitVec 13) : IWord := fin ++ cnt ++ bit slot ++ major

/-! ### Codes (R61, R86) -/

/-- The type code of VINT (R86). -/
def VType.code (t : VType) : BitVec 3 :=
  match t with
  | .s8 => 0#3 | .s16 => 1#3 | .s32 => 2#3 | .n8 => 3#3 | .n16 => 4#3 | .n32 => 5#3

/-- The type that a type code of VINT names (R86). -/
def VType.ofCode (c : BitVec 3) : Option VType :=
  match c.toNat with
  | 0 => some .s8 | 1 => some .s16 | 2 => some .s32 | 3 => some .n8 | 4 => some .n16 | 5 => some .n32 | _ => none

/-- The type code of VFLT (R86). -/
def FType.code (t : FType) : BitVec 3 :=
  match t with
  | .bf16 => 0#3 | .f32 => 1#3

/-- The type that a type code of VFLT names (R86). -/
def FType.ofCode (c : BitVec 3) : Option FType :=
  match c.toNat with
  | 0 => some .bf16 | 1 => some .f32 | _ => none

/-- The type code of VCMP (R86). -/
def CType.code (t : CType) : BitVec 3 :=
  match t with
  | .int t => t.code | .flt .bf16 => 6#3 | .flt .f32 => 7#3

/-- The type that a type code of VCMP names (R86). -/
def CType.ofCode (c : BitVec 3) : CType :=
  match c.toNat with
  | 0 => .int .s8 | 1 => .int .s16 | 2 => .int .s32 | 3 => .int .n8 | 4 => .int .n16 | 5 => .int .n32
  | 6 => .flt .bf16 | _ => .flt .f32

/-- The condition code of VCMP (R86). -/
def VCond.code (c : VCond) : BitVec 3 :=
  match c with
  | .eq => 0#3 | .ne => 1#3 | .lt => 2#3 | .le => 3#3 | .gt => 4#3 | .ge => 5#3

/-- The condition that a code names; 6 and 7 name none (R86). -/
def VCond.ofCode (c : BitVec 3) : Option VCond :=
  match c.toNat with
  | 0 => some .eq | 1 => some .ne | 2 => some .lt | 3 => some .le | 4 => some .gt | 5 => some .ge | _ => none

/-- The rounding code (R86). -/
def Rnd.code (r : Rnd) : BitVec 2 :=
  match r with
  | .rne => 0#2 | .rtz => 1#2 | .rdn => 2#2 | .rup => 3#2

/-- The rounding that a code names (R86). -/
def Rnd.ofCode (c : BitVec 2) : Rnd :=
  match c.toNat with
  | 0 => .rne | 1 => .rtz | 2 => .rdn | _ => .rup

/-! ### Decoding one major -/

/-- Answer i when the reserved fields are zero. -/
def needZero (zero : Bool) (i : Instr) : Except DecodeError Instr := if zero then .ok i else .error .reserved

/-- Answer i when a number field is one the form can use. -/
def needNumber (ok : Bool) (zero : Bool) (i : Instr) : Except DecodeError Instr :=
  if ok then needZero zero i else .error .number

/-- INT, major 0x01 (R79). -/
def decodeInt (w : IWord) : Except DecodeError Instr :=
  let d := fD w; let a := fA w; let b := fB w
  let z := fPg w == 0#3
  let zb := z && b == 0#5
  match (fFn w).toNat with
  | 0x00 => needZero z (.add d a b) | 0x01 => needZero z (.sub d a b) | 0x02 => needZero z (.and d a b)
  | 0x03 => needZero z (.or d a b) | 0x04 => needZero z (.xor d a b) | 0x05 => needZero z (.andn d a b)
  | 0x06 => needZero z (.sll d a b) | 0x07 => needZero z (.srl d a b) | 0x08 => needZero z (.sra d a b)
  | 0x09 => needZero z (.slt d a b) | 0x0A => needZero z (.sltn d a b) | 0x0B => needZero z (.min d a b)
  | 0x0C => needZero z (.max d a b) | 0x0D => needZero z (.minn d a b) | 0x0E => needZero z (.maxn d a b)
  | 0x0F => needZero z (.mul d a b) | 0x10 => needZero z (.mulh d a b) | 0x11 => needZero z (.mulhn d a b)
  | 0x12 => needZero z (.div d a b) | 0x13 => needZero z (.divn d a b) | 0x14 => needZero z (.rem d a b)
  | 0x15 => needZero z (.remn d a b) | 0x16 => needZero zb (.clz d a) | 0x17 => needZero zb (.ctz d a)
  | 0x18 => needZero zb (.popc d a) | 0x19 => needZero z (.cmov d a b)
  | _ => .error .function

/-- SHI, major 0x06: amount in imm 0..5, kind in imm 6..7, imm 8..15 zero (R61, R80). -/
def decodeShi (w : IWord) : Except DecodeError Instr :=
  let imm := fImm16 w; let d := fD w; let a := fA w
  let sh := imm.extractLsb' 0 6
  let z := imm.extractLsb' 8 8 == 0#8
  match (imm.extractLsb' 6 2).toNat with
  | 0 => needZero z (.slli d a sh) | 1 => needZero z (.srli d a sh)
  | 2 => needZero z (.srai d a sh) | _ => needZero z (.rori d a sh)

/-- BITF, major 0x0C: position in imm 0..5, length − 1 in imm 6..11, kind in imm 12..13, imm 14..15 zero (R61, R80). -/
def decodeBitf (w : IWord) : Except DecodeError Instr :=
  let imm := fImm16 w; let d := fD w; let a := fA w
  let pos := imm.extractLsb' 0 6; let len1 := imm.extractLsb' 6 6
  let z := imm.extractLsb' 14 2 == 0#2
  if bitFieldOk pos len1 then
    match (imm.extractLsb' 12 2).toNat with
    | 0 => needZero z (.exts d a pos len1) | 1 => needZero z (.extz d a pos len1)
    | 2 => needZero z (.ins d a pos len1) | _ => .error .function
  else .error .bitField

/-- A load of format M (R81): natural = 1 with width 3 is refused (R58). -/
def decodeLoad (mk : Reg → Reg → BitVec 2 → Bool → BitVec 13 → Instr) (w : IWord) : Except DecodeError Instr :=
  if widthOk (fWidth w) (fNat w) then .ok (mk (fD w) (fA w) (fWidth w) (fNat w) (fImm13 w)) else .error .natural

/-- AMO, major 0x12 (R82). -/
def decodeAmo (w : IWord) : Except DecodeError Instr :=
  let d := fD w; let a := fA w; let b := fB w
  let z := fPg w == 0#3
  match (fFn w).toNat with
  | 0x00 => needZero z (.amoAddW d a b) | 0x01 => needZero z (.amoAddD d a b) | 0x02 => needZero z (.amoMinW d a b)
  | 0x03 => needZero z (.amoMinD d a b) | 0x04 => needZero z (.amoMaxW d a b) | 0x05 => needZero z (.amoMaxD d a b)
  | 0x06 => needZero z (.amoMinnW d a b) | 0x07 => needZero z (.amoMinnD d a b) | 0x08 => needZero z (.amoMaxnW d a b)
  | 0x09 => needZero z (.amoMaxnD d a b) | 0x0A => needZero z (.amoAndD d a b) | 0x0B => needZero z (.amoOrD d a b)
  | 0x0C => needZero z (.amoXorD d a b) | 0x0D => needZero z (.amoSwapW d a b) | 0x0E => needZero z (.amoSwapD d a b)
  | 0x0F => needZero z (.amoFaddF32 d a b) | 0x10 => needZero z (.amoFaddBf16x4 d a b)
  | 0x11 => needZero z (.amoIncbW d a b)
  | _ => .error .function

/-- CAS, major 0x13 (R83). -/
def decodeCas (w : IWord) : Except DecodeError Instr :=
  let z := fPg w == 0#3
  match (fFn w).toNat with
  | 0x00 => needZero z (.casW (fD w) (fA w) (fB w)) | 0x01 => needZero z (.casD (fD w) (fA w) (fB w))
  | _ => .error .function

/-- BR, major 0x14 (R84). -/
def decodeBr (w : IWord) : Except DecodeError Instr :=
  let a := fBa w; let b := fBb w; let off := fBoff w
  match (fCond w).toNat with
  | 0 => .ok (.beq a b off) | 1 => .ok (.bne a b off) | 2 => .ok (.blt a b off) | 3 => .ok (.bge a b off)
  | 4 => .ok (.bltn a b off) | 5 => .ok (.bgen a b off) | _ => .error .function

/-- SYS, major 0x1B (R85). -/
def decodeSys (w : IWord) : Except DecodeError Instr :=
  let d := fD w; let a := fA w; let b := fB w
  let z := fPg w == 0#3 && d == 0#5
  let zb := z && b == 0#5
  let zab := zb && a == 0#5
  match (fFn w).toNat with
  | 0x00 => needZero zab .trap | 0x01 => needZero zab .tret
  | 0x02 => needNumber (decide (b.toNat < 4)) (z && a == 0#5) (.fence (b.extractLsb' 0 2))
  | 0x03 => needZero zab .genbump | 0x04 => needZero zab .wball
  | 0x05 => needZero zb (.cflush a) | 0x06 => needZero zb (.cinv a) | 0x07 => needZero zb (.tlbinv a)
  | 0x08 => needZero z (.tlbw a b) | 0x09 => needZero zab .idle
  | _ => .error .function

/-- SYNC, major 0x1F (R85). -/
def decodeSync (w : IWord) : Except DecodeError Instr :=
  let d := fD w; let a := fA w; let b := fB w
  let z := fPg w == 0#3 && d == 0#5
  let za := z && a == 0#5
  let zb := z && b == 0#5
  match (fFn w).toNat with
  | 0x00 => needNumber (decide (b.toNat < 3)) za (.hurdle (b.extractLsb' 0 2))
  | 0x01 => needNumber (decide (b.toNat < 3)) za (.hurdleS (b.extractLsb' 0 2))
  | 0x02 => needZero (za && b == 0#5) .sealreq
  | 0x03 => needNumber (decide (b.toNat < 2)) z (.acq a (b.getLsbD 0))
  | 0x04 => needZero zb (.rel a) | 0x05 => needZero z (.bind a b) | 0x06 => needZero zb (.unbind a)
  | 0x07 => needZero zb (.waitq a) | 0x08 => needZero z (.wake a b)
  | 0x09 => needNumber (decide (b.toNat < 4)) za (.decide (b.extractLsb' 0 2))
  | _ => .error .function

/-- LAUNCH, major 0x20 (R85). -/
def decodeLaunch (w : IWord) : Except DecodeError Instr :=
  let z := fPg w == 0#3 && fD w == 0#5
  match (fFn w).toNat with
  | 0x00 => needZero z (.baton (fA w) (fB w)) | 0x01 => needZero (z && fA w == 0#5 && fB w == 0#5) .finish
  | _ => .error .function

/-- HEAT, major 0x21 (R85). -/
def decodeHeat (w : IWord) : Except DecodeError Instr :=
  let d := fD w; let a := fA w; let b := fB w
  let z := fPg w == 0#3
  match (fFn w).toNat with
  | 0x00 => needZero (z && b == 0#5) (.hfork d a) | 0x01 => needZero (z && d == 0#5) (.hreward a b)
  | 0x02 => needZero (z && b == 0#5) (.hwait d a) | 0x03 => needZero (z && d == 0#5) (.hcancel a b)
  | _ => .error .function

/-- NET, major 0x22 (R85). -/
def decodeNet (w : IWord) : Except DecodeError Instr :=
  let d := fD w; let a := fA w; let b := fB w
  let z := fPg w == 0#3
  match (fFn w).toNat with
  | 0x00 => needZero (z && d == 0#5) (.dsend a b) | 0x01 => needZero (z && b == 0#5) (.drecv d a)
  | 0x02 => needZero (z && a == 0#5 && b == 0#5) (.dpoll d) | 0x03 => needZero (z && d == 0#5 && b == 0#5) (.xcoll a)
  | 0x04 => needZero (z && d == 0#5 && b == 0#5) (.xwait a)
  | _ => .error .function

/-- VINT, major 0x23: fn 0..4 operation, fn 5..7 type (R61, R87). -/
def decodeVint (w : IWord) : Except DecodeError Instr :=
  let d := fD w; let a := fA w; let b := fB w; let p := fPg w
  let zb := b == 0#5
  match VType.ofCode ((fFn w).extractLsb' 5 3) with
  | none => .error .function
  | some t =>
    match ((fFn w).extractLsb' 0 5).toNat with
    | 0 => .ok (.vadd t p d a b) | 1 => .ok (.vsub t p d a b) | 2 => .ok (.vmul t p d a b) | 3 => .ok (.vmin t p d a b)
    | 4 => .ok (.vmax t p d a b) | 5 => .ok (.vand t p d a b) | 6 => .ok (.vor t p d a b) | 7 => .ok (.vxor t p d a b)
    | 8 => .ok (.vshl t p d a b) | 9 => .ok (.vshr t p d a b) | 10 => .ok (.vsra t p d a b)
    | 11 => needZero zb (.vabs t p d a) | 12 => needZero zb (.vneg t p d a)
    | 13 => .ok (.vadds t p d a b) | 14 => .ok (.vsubs t p d a b)
    | _ => .error .function

/-- VFLT, major 0x24: fn 0..4 operation, fn 5..7 type (R61, R87). -/
def decodeVflt (w : IWord) : Except DecodeError Instr :=
  let d := fD w; let a := fA w; let b := fB w; let p := fPg w
  let zb := b == 0#5
  match FType.ofCode ((fFn w).extractLsb' 5 3) with
  | none => .error .function
  | some t =>
    match ((fFn w).extractLsb' 0 5).toNat with
    | 0 => .ok (.vfadd t p d a b) | 1 => .ok (.vfsub t p d a b) | 2 => .ok (.vfmul t p d a b)
    | 3 => .ok (.vfmin t p d a b) | 4 => .ok (.vfmax t p d a b) | 5 => needZero zb (.vfabs t p d a)
    | 6 => needZero zb (.vfneg t p d a) | 7 => needZero zb (.vfexp2 t p d a) | 8 => needZero zb (.vflog2 t p d a)
    | 9 => needZero zb (.vfrcp t p d a) | 10 => needZero zb (.vfrsq t p d a)
    | _ => .error .function

/-- VFMA, major 0x25, format Q (R87). -/
def decodeVfma (w : IWord) : Except DecodeError Instr :=
  let d := fD w; let a := fA w; let b := fB w; let c := fQc w; let p := fQpg w
  match (fQfn w).toNat with
  | 0 => .ok (.vfmaF32 p d a b c) | 1 => .ok (.vfmaBf16 p d a b c) | 2 => .ok (.vfmsF32 p d a b c)
  | 3 => .ok (.vfmsBf16 p d a b c) | _ => .error .function

/-- VCMP, major 0x26: fn 0..2 condition, fn 3..4 zero, fn 5..7 type, d the predicate written (R61, R86). -/
def decodeVcmp (w : IWord) : Except DecodeError Instr :=
  match VCond.ofCode ((fFn w).extractLsb' 0 3) with
  | none => .error .function
  | some c =>
    needNumber (decide ((fD w).toNat < 8)) ((fFn w).extractLsb' 3 2 == 0#2)
      (.vcmp c (CType.ofCode ((fFn w).extractLsb' 5 3)) (fPg w) ((fD w).extractLsb' 0 3) (fA w) (fB w))

/-- VCVT, major 0x27: fn 0..3 route, fn 4..5 rounding, fn 6 saturate, fn 7 zero on NaN; the refused combinations are those of
R88 and R420. -/
def decodeVcvt (w : IWord) : Except DecodeError Instr :=
  let d := fD w; let a := fA w; let b := fB w; let p := fPg w
  let rc := (fFn w).extractLsb' 4 2
  let r := Rnd.ofCode rc
  let sat := (fFn w).getLsbD 6
  let z := (fFn w).getLsbD 7
  let zb := b == 0#5
  let exact := zb && rc == 0#2 && !sat
  let toInt := zb && decide (rc.toNat < 2)
  let ofInt := zb && !z
  let narrow := zb && rc == 0#2 && !z
  match ((fFn w).extractLsb' 0 4).toNat with
  | 0 => needZero zb (.vcvtF32Bf16 r sat z p d a) | 1 => needZero exact (.vcvtBf16F32 z p d a)
  | 2 => needZero zb (.vcvtF32E4m3 r sat z p d a) | 3 => needZero zb (.vcvtF32E5m2 r sat z p d a)
  | 4 => needZero zb (.vcvtBf16E4m3 r sat z p d a) | 5 => needZero zb (.vcvtBf16E5m2 r sat z p d a)
  | 6 => needZero exact (.vcvtE4m3Bf16 z p d a) | 7 => needZero exact (.vcvtE5m2Bf16 z p d a)
  | 8 => needZero toInt (.vcvtF32S32 (rc == 1#2) sat z p d a) | 9 => needZero ofInt (.vcvtS32F32 r sat p d a)
  | 10 => needZero toInt (.vcvtF32N32 (rc == 1#2) sat z p d a) | 11 => needZero ofInt (.vcvtN32F32 r sat p d a)
  | 12 => needZero narrow (.vcvtS32S16 sat p d a) | 13 => needZero narrow (.vcvtS16S8 sat p d a)
  | 14 => .ok (.vcvtE2m1E4m3 r sat z p d a b)
  | _ => .error .function

/-- VMOVE, major 0x28 (R89): the size code is in field b for VSEL and in pg bits 21..22, bit 23 zero, for VSPLAT, VMOVX, VINS
and VIOTA. -/
def decodeVmove (w : IWord) : Except DecodeError Instr :=
  let d := fD w; let a := fA w; let b := fB w; let p := fPg w
  let sz := p.extractLsb' 0 2
  let z := p.extractLsb' 2 1 == 0#1
  match (fFn w).toNat with
  | 0x00 => needNumber (decide (b.toNat < 4)) true (.vsel (b.extractLsb' 0 2) p d a)
  | 0x01 => needZero (z && b == 0#5) (.vsplat sz d a) | 0x02 => needZero z (.vmovx sz d a b)
  | 0x03 => needZero z (.vins sz d a b) | 0x04 => .ok (.vshuf p d a b) | 0x05 => .ok (.vrot p d a b)
  | 0x06 => needZero (z && a == 0#5 && b == 0#5) (.viota sz d)
  | _ => .error .function

/-- VRED, major 0x29 (R89). -/
def decodeVred (w : IWord) : Except DecodeError Instr :=
  let d := fD w; let a := fA w; let b := fB w; let p := fPg w
  let zb := b == 0#5
  match (fFn w).toNat with
  | 0x00 => needZero zb (.vradd p d a) | 0x01 => needZero zb (.vrmax p d a) | 0x02 => needZero zb (.vrmin p d a)
  | 0x03 => .ok (.vdot p d a b)
  | _ => .error .function

/-- PRED, major 0x2A: a field that names a predicate holds 0..7 (R89). -/
def decodePred (w : IWord) : Except DecodeError Instr :=
  let d := fD w; let a := fA w; let b := fB w
  let dp := d.extractLsb' 0 3; let ap := a.extractLsb' 0 3; let bp := b.extractLsb' 0 3
  let dok := decide (d.toNat < 8); let aok := decide (a.toNat < 8); let bok := decide (b.toNat < 8)
  let z := fPg w == 0#3
  let zb := z && b == 0#5
  match (fFn w).toNat with
  | 0x00 => needNumber (dok && aok && bok) z (.pand dp ap bp) | 0x01 => needNumber (dok && aok && bok) z (.por dp ap bp)
  | 0x02 => needNumber (dok && aok && bok) z (.pxor dp ap bp) | 0x03 => needNumber (dok && aok) zb (.pnot dp ap)
  | 0x04 => needNumber aok zb (.pcnt d ap) | 0x05 => needNumber aok zb (.pfirst d ap)
  | 0x06 => needNumber dok zb (.pset dp a)
  | _ => .error .function

/-- VIDX, major 0x2D (R89). -/
def decodeVidx (w : IWord) : Except DecodeError Instr :=
  let d := fD w; let a := fA w; let b := fB w; let p := fPg w
  match (fFn w).toNat with
  | 0x00 => .ok (.vldx p d a b) | 0x01 => .ok (.vstx p d a b)
  | 0x02 => needZero (p == 0#3 && b == 0#5) (.vldb d a)
  | _ => .error .function

/-- MAT, major 0x2E (R90). -/
def decodeMat (w : IWord) : Except DecodeError Instr :=
  let a := fA w; let b := fB w
  let z := fPg w == 0#3 && fD w == 0#5
  let zb := z && b == 0#5
  let zab := zb && a == 0#5
  match (fFn w).toNat with
  | 0x00 => needZero zab .mlease | 0x01 => needZero zab .mrel | 0x02 => needZero zb (.mma a) | 0x03 => needZero zb (.mcell a)
  | 0x04 => needNumber (decide (b.toNat < 2)) (z && a == 0#5) (.mzero (b.extractLsb' 0 1))
  | 0x05 => needZero zb (.mdrain a) | 0x06 => needZero zab .mwait
  | _ => .error .function

/-- BUF, major 0x2F (R90). -/
def decodeBuf (w : IWord) : Except DecodeError Instr :=
  let d := fD w; let a := fA w; let b := fB w
  let z := fPg w == 0#3
  match (fFn w).toNat with
  | 0x00 => needNumber (decide (d.toNat < 8)) (z && b == 0#5) (.bufdef (d.extractLsb' 0 3) a)
  | 0x01 => needNumber (decide (d.toNat < 8)) (z && a == 0#5 && b == 0#5) (.publish (d.extractLsb' 0 3))
  | 0x02 => needZero (z && d == 0#5) (.ewait a b)
  | 0x03 => needNumber (decide (d.toNat < 4)) (z && b == 0#5) (.scur (d.extractLsb' 0 2) a)
  | _ => .error .function

/-- STREAM, major 0x30 (R90). -/
def decodeStream (w : IWord) : Except DecodeError Instr :=
  let z := fPg w == 0#3 && fD w == 0#5 && fB w == 0#5
  match (fFn w).toNat with
  | 0x00 => needZero z (.srd (fA w)) | 0x01 => needZero z (.swr (fA w)) | 0x02 => needZero (z && fA w == 0#5) .swait
  | _ => .error .function

/-- LAP, major 0x31 (R85). -/
def decodeLap (w : IWord) : Except DecodeError Instr :=
  let z := fPg w == 0#3 && fA w == 0#5 && fB w == 0#5
  match (fFn w).toNat with
  | 0x00 => needZero (z && fD w == 0#5) .undospill | 0x01 => needZero z (.lapq (fD w))
  | _ => .error .function

/-- The core's decoder (R77). What a core of one kind refuses besides is `Instr.usableOn`. -/
def decode (w : IWord) : Except DecodeError Instr :=
  match (fMajor w).toNat with
  | 0x01 => decodeInt w
  | 0x02 => .ok (.addi (fD w) (fA w) (fImm16 w))
  | 0x03 => .ok (.andi (fD w) (fA w) (fImm16 w))
  | 0x04 => .ok (.ori (fD w) (fA w) (fImm16 w))
  | 0x05 => .ok (.xori (fD w) (fA w) (fImm16 w))
  | 0x06 => decodeShi w
  | 0x07 => .ok (.slti (fD w) (fA w) (fImm16 w))
  | 0x08 => .ok (.sltni (fD w) (fA w) (fImm16 w))
  | 0x09 => .ok (.li (fD w) (fImm21 w))
  | 0x0A => .ok (.lis (fD w) (fImm21 w))
  | 0x0B => .ok (.addpc (fD w) (fImm21 w))
  | 0x0C => decodeBitf w
  | 0x0D => decodeLoad .ld w
  | 0x0E => .ok (.st (fD w) (fA w) (fWidth w) (fImm14 w))
  | 0x0F => decodeLoad .ldl w
  | 0x10 => .ok (.stl (fD w) (fA w) (fWidth w) (fImm14 w))
  | 0x11 => decodeLoad .ldnf w
  | 0x12 => decodeAmo w
  | 0x13 => decodeCas w
  | 0x14 => decodeBr w
  | 0x15 => .ok (.j (fJoff w))
  | 0x16 => .ok (.jal (fJoff w))
  | 0x17 => .ok (.jalr (fD w) (fA w) (fImm16 w))
  | 0x18 => needZero (fPg w == 0#3 && fD w == 0#5) (.jtab (fA w) (fB w) (fFn w))
  | 0x19 => needZero (fLoopRes w == 0#4) (.loop (fSlot w) (fA w) (fImm16 w))
  | 0x1A => .ok (.loopi (fSlot w) (fCount w) (fLoopEnd w))
  | 0x1B => decodeSys w
  | 0x1C => needZero (fA w == 0#5) (.mfs (fD w) (fImm16 w))
  | 0x1D => needZero (fD w == 0#5) (.mts (fA w) (fImm16 w))
  | 0x1E => needZero (fD w == 0#5 && (fImm21 w).extractLsb' 16 5 == 0#5) (.sig ((fImm21 w).extractLsb' 0 16))
  | 0x1F => decodeSync w
  | 0x20 => decodeLaunch w
  | 0x21 => decodeHeat w
  | 0x22 => decodeNet w
  | 0x23 => decodeVint w
  | 0x24 => decodeVflt w
  | 0x25 => decodeVfma w
  | 0x26 => decodeVcmp w
  | 0x27 => decodeVcvt w
  | 0x28 => decodeVmove w
  | 0x29 => decodeVred w
  | 0x2A => decodePred w
  | 0x2B => needZero (fWidth w == 0#2 && !fNat w) (.vld (fD w) (fA w) (fImm13 w))
  | 0x2C => needZero (fWidth w == 0#2) (.vst (fD w) (fA w) (fImm14 w))
  | 0x2D => decodeVidx w
  | 0x2E => decodeMat w
  | 0x2F => decodeBuf w
  | 0x30 => decodeStream w
  | 0x31 => decodeLap w
  | _ => if w = 0 then .error .allZero else .error .major

/-- The kinds of core that differ in what they refuse (R53, R56). -/
inductive CoreKind where
  /-- A tile core: port registers, matrix block, switch. -/
  | tile
  /-- A memory core: streams, no ports (R56). -/
  | mem
  /-- A core of the translation service, the Starter or secure boot: no ports, no streams (R23). -/
  | supervisor
  deriving DecidableEq, Repr

/-- A scalar register field that names a port on a tile core (R48). -/
def portField (r : Reg) : Bool := decide (28 ≤ r.toNat)

/-- The refusals that depend on the kind of core: the port fields of R53, the majors of R56 and R59. A supervisor core has
neither a matrix block nor streams nor a switch (R23). -/
def Instr.usableOn (i : Instr) (k : CoreKind) : Bool :=
  match i with
  | .loop _ a _ | .mts a _ => !(k == .tile && portField a)
  | .mfs d _ | .casW d _ _ | .casD d _ _ | .ins d _ _ _ | .lis d _ => !(k == .tile && portField d)
  | .mlease | .mrel | .mma _ | .mcell _ | .mzero _ | .mdrain _ | .mwait => k == .tile
  | .bufdef _ _ | .publish _ | .ewait _ _ | .scur _ _ => k == .tile
  | .srd _ | .swr _ | .swait => k == .mem
  | _ => true

/-! ### The switch's words (R62, R91) -/

/-- The route part of a switch word (R62). -/
def swRoutes (w : SwWord) : Routes :=
  { aN := w.extractLsb' 0 3, aE := w.extractLsb' 3 3, aS := w.extractLsb' 6 3, aW := w.extractLsb' 9 3,
    aMask := w.extractLsb' 12 4, aSink := w.extractLsb' 16 3,
    bN := w.extractLsb' 19 3, bE := w.extractLsb' 22 3, bS := w.extractLsb' 25 3, bW := w.extractLsb' 28 3,
    bMask := w.extractLsb' 31 4, bSink := w.extractLsb' 35 3,
    aCur := w.extractLsb' 38 2, bCur := w.extractLsb' 40 2, edge := w.extractLsb' 62 2 }

/-- The control opcode of a switch word. -/
def swCtl (w : SwWord) : BitVec 4 := w.extractLsb' 42 4

/-- The control operand of a switch word. -/
def swOpd (w : SwWord) : BitVec 16 := w.extractLsb' 46 16

/-- The switch's decoder: total, refusing what R63 and R91 refuse of the word alone. -/
def decodeSwitch (w : SwWord) : Except DecodeError Instr :=
  let r := swRoutes w
  let o := swOpd w
  let n := o.extractLsb' 0 2
  if r.ok then
    match (swCtl w).toNat with
    | 0 => needZero (o == 0#16) (.route r)
    | 1 => needZero (o.extractLsb' 13 3 == 0#3) (.sj r (o.extractLsb' 0 10) (o.getLsbD 10) (o.extractLsb' 11 2))
    | 2 => .ok (.sloop r n (o.extractLsb' 2 14))
    | 3 => needZero (o.extractLsb' 12 4 == 0#4) (.sdbnz r n (o.extractLsb' 2 10))
    | 4 => needNumber (smovSourceOk (o.extractLsb' 2 3)) (o.extractLsb' 5 11 == 0#11) (.smov r n (o.extractLsb' 2 3))
    | 5 => .ok (.scurSwitch r n (o.extractLsb' 2 14))
    | 6 => needZero (o.extractLsb' 2 14 == 0#14) (.stok r n)
    | 7 => needZero (o == 0#16) (.swaith r)
    | 8 => needZero (o == 0#16) (.shalt r)
    | _ => .error .routes
  else .error .routes

/-- A switch word from its route part, control opcode and control operand (R62). -/
def encSw (r : Routes) (ctl : BitVec 4) (opd : BitVec 16) : SwWord :=
  r.edge ++ opd ++ ctl ++ r.bCur ++ r.aCur ++ r.bSink ++ r.bMask ++ r.bW ++ r.bS ++ r.bE ++ r.bN ++
    r.aSink ++ r.aMask ++ r.aW ++ r.aS ++ r.aE ++ r.aN

/-! ### The encoder -/

/-- fn of VINT, VFLT: type in bits 5..7, operation in bits 0..4. -/
def fnTyped (ty : BitVec 3) (op : BitVec 5) : BitVec 8 := ty ++ op

/-- fn of VCVT. -/
def fnCvt (route : BitVec 4) (rnd : BitVec 2) (sat z : Bool) : BitVec 8 := bit z ++ bit sat ++ rnd ++ route

/-- The rounding code of the routes to integers: RNE or RTZ (R88, R138). -/
def rtzCode (rtz : Bool) : BitVec 2 := if rtz then 1#2 else 0#2

/-- A predicate, buffer, cursor, slot, size or scope number in a 5-bit register field. -/
def in5 {n : Nat} (v : BitVec n) : Reg := v.setWidth 5

/-- SHI's immediate. -/
def immShi (kind : BitVec 2) (sh : BitVec 6) : BitVec 16 := 0#8 ++ kind ++ sh

/-- BITF's immediate. -/
def immBitf (kind : BitVec 2) (pos len1 : BitVec 6) : BitVec 16 := 0#2 ++ kind ++ len1 ++ pos

/-- pg of the VMOVE forms that hold a size code there. -/
def pgSize (sz : BitVec 2) : PReg := 0#1 ++ sz

/-- The word of a core instruction; none for switch words and events. -/
def encodeCore (i : Instr) : Option IWord :=
  match i with
  | .add d a b => some (encR 0x01 d a b 0 0x00)
  | .sub d a b => some (encR 0x01 d a b 0 0x01)
  | .and d a b => some (encR 0x01 d a b 0 0x02)
  | .or d a b => some (encR 0x01 d a b 0 0x03)
  | .xor d a b => some (encR 0x01 d a b 0 0x04)
  | .andn d a b => some (encR 0x01 d a b 0 0x05)
  | .sll d a b => some (encR 0x01 d a b 0 0x06)
  | .srl d a b => some (encR 0x01 d a b 0 0x07)
  | .sra d a b => some (encR 0x01 d a b 0 0x08)
  | .slt d a b => some (encR 0x01 d a b 0 0x09)
  | .sltn d a b => some (encR 0x01 d a b 0 0x0A)
  | .min d a b => some (encR 0x01 d a b 0 0x0B)
  | .max d a b => some (encR 0x01 d a b 0 0x0C)
  | .minn d a b => some (encR 0x01 d a b 0 0x0D)
  | .maxn d a b => some (encR 0x01 d a b 0 0x0E)
  | .mul d a b => some (encR 0x01 d a b 0 0x0F)
  | .mulh d a b => some (encR 0x01 d a b 0 0x10)
  | .mulhn d a b => some (encR 0x01 d a b 0 0x11)
  | .div d a b => some (encR 0x01 d a b 0 0x12)
  | .divn d a b => some (encR 0x01 d a b 0 0x13)
  | .rem d a b => some (encR 0x01 d a b 0 0x14)
  | .remn d a b => some (encR 0x01 d a b 0 0x15)
  | .clz d a => some (encR 0x01 d a 0 0 0x16)
  | .ctz d a => some (encR 0x01 d a 0 0 0x17)
  | .popc d a => some (encR 0x01 d a 0 0 0x18)
  | .cmov d a b => some (encR 0x01 d a b 0 0x19)
  | .addi d a imm => some (encI 0x02 d a imm)
  | .andi d a imm => some (encI 0x03 d a imm)
  | .ori d a imm => some (encI 0x04 d a imm)
  | .xori d a imm => some (encI 0x05 d a imm)
  | .slli d a sh => some (encI 0x06 d a (immShi 0 sh))
  | .srli d a sh => some (encI 0x06 d a (immShi 1 sh))
  | .srai d a sh => some (encI 0x06 d a (immShi 2 sh))
  | .rori d a sh => some (encI 0x06 d a (immShi 3 sh))
  | .slti d a imm => some (encI 0x07 d a imm)
  | .sltni d a imm => some (encI 0x08 d a imm)
  | .li d imm => some (encU 0x09 d imm)
  | .lis d imm => some (encU 0x0A d imm)
  | .addpc d imm => some (encU 0x0B d imm)
  | .exts d a pos len1 => some (encI 0x0C d a (immBitf 0 pos len1))
  | .extz d a pos len1 => some (encI 0x0C d a (immBitf 1 pos len1))
  | .ins d a pos len1 => some (encI 0x0C d a (immBitf 2 pos len1))
  | .ld d a w nat imm => some (encM 0x0D d a w nat imm)
  | .st src a w imm => some (encS 0x0E src a w imm)
  | .ldl d a w nat imm => some (encM 0x0F d a w nat imm)
  | .stl src a w imm => some (encS 0x10 src a w imm)
  | .ldnf d a w nat imm => some (encM 0x11 d a w nat imm)
  | .amoAddW d a b => some (encR 0x12 d a b 0 0x00)
  | .amoAddD d a b => some (encR 0x12 d a b 0 0x01)
  | .amoMinW d a b => some (encR 0x12 d a b 0 0x02)
  | .amoMinD d a b => some (encR 0x12 d a b 0 0x03)
  | .amoMaxW d a b => some (encR 0x12 d a b 0 0x04)
  | .amoMaxD d a b => some (encR 0x12 d a b 0 0x05)
  | .amoMinnW d a b => some (encR 0x12 d a b 0 0x06)
  | .amoMinnD d a b => some (encR 0x12 d a b 0 0x07)
  | .amoMaxnW d a b => some (encR 0x12 d a b 0 0x08)
  | .amoMaxnD d a b => some (encR 0x12 d a b 0 0x09)
  | .amoAndD d a b => some (encR 0x12 d a b 0 0x0A)
  | .amoOrD d a b => some (encR 0x12 d a b 0 0x0B)
  | .amoXorD d a b => some (encR 0x12 d a b 0 0x0C)
  | .amoSwapW d a b => some (encR 0x12 d a b 0 0x0D)
  | .amoSwapD d a b => some (encR 0x12 d a b 0 0x0E)
  | .amoFaddF32 d a b => some (encR 0x12 d a b 0 0x0F)
  | .amoFaddBf16x4 d a b => some (encR 0x12 d a b 0 0x10)
  | .amoIncbW d a b => some (encR 0x12 d a b 0 0x11)
  | .casW d a b => some (encR 0x13 d a b 0 0x00)
  | .casD d a b => some (encR 0x13 d a b 0 0x01)
  | .beq a b off => some (encB 0x14 0 a b off)
  | .bne a b off => some (encB 0x14 1 a b off)
  | .blt a b off => some (encB 0x14 2 a b off)
  | .bge a b off => some (encB 0x14 3 a b off)
  | .bltn a b off => some (encB 0x14 4 a b off)
  | .bgen a b off => some (encB 0x14 5 a b off)
  | .j off => some (encJ 0x15 off)
  | .jal off => some (encJ 0x16 off)
  | .jalr d a imm => some (encI 0x17 d a imm)
  | .jtab a b n1 => some (encR 0x18 0 a b 0 n1)
  | .loop k a fin => some (encLoop 0x19 k a fin)
  | .loopi k cnt fin => some (encLoopi 0x1A k cnt fin)
  | .trap => some (encR 0x1B 0 0 0 0 0x00)
  | .tret => some (encR 0x1B 0 0 0 0 0x01)
  | .fence scope => some (encR 0x1B 0 0 (in5 scope) 0 0x02)
  | .genbump => some (encR 0x1B 0 0 0 0 0x03)
  | .wball => some (encR 0x1B 0 0 0 0 0x04)
  | .cflush a => some (encR 0x1B 0 a 0 0 0x05)
  | .cinv a => some (encR 0x1B 0 a 0 0 0x06)
  | .tlbinv a => some (encR 0x1B 0 a 0 0 0x07)
  | .tlbw a b => some (encR 0x1B 0 a b 0 0x08)
  | .idle => some (encR 0x1B 0 0 0 0 0x09)
  | .mfs d sr => some (encI 0x1C d 0 sr)
  | .mts a sr => some (encI 0x1D 0 a sr)
  | .sig sig => some (encU 0x1E 0 (0#5 ++ sig))
  | .hurdle scope => some (encR 0x1F 0 0 (in5 scope) 0 0x00)
  | .hurdleS scope => some (encR 0x1F 0 0 (in5 scope) 0 0x01)
  | .sealreq => some (encR 0x1F 0 0 0 0 0x02)
  | .acq a shared => some (encR 0x1F 0 a (in5 (bit shared)) 0 0x03)
  | .rel a => some (encR 0x1F 0 a 0 0 0x04)
  | .bind a b => some (encR 0x1F 0 a b 0 0x05)
  | .unbind a => some (encR 0x1F 0 a 0 0 0x06)
  | .waitq a => some (encR 0x1F 0 a 0 0 0x07)
  | .wake a b => some (encR 0x1F 0 a b 0 0x08)
  | .decide slot => some (encR 0x1F 0 0 (in5 slot) 0 0x09)
  | .baton a b => some (encR 0x20 0 a b 0 0x00)
  | .finish => some (encR 0x20 0 0 0 0 0x01)
  | .hfork d a => some (encR 0x21 d a 0 0 0x00)
  | .hreward a b => some (encR 0x21 0 a b 0 0x01)
  | .hwait d a => some (encR 0x21 d a 0 0 0x02)
  | .hcancel a b => some (encR 0x21 0 a b 0 0x03)
  | .dsend a b => some (encR 0x22 0 a b 0 0x00)
  | .drecv d a => some (encR 0x22 d a 0 0 0x01)
  | .dpoll d => some (encR 0x22 d 0 0 0 0x02)
  | .xcoll a => some (encR 0x22 0 a 0 0 0x03)
  | .xwait a => some (encR 0x22 0 a 0 0 0x04)
  | .vadd t p d a b => some (encR 0x23 d a b p (fnTyped t.code 0))
  | .vsub t p d a b => some (encR 0x23 d a b p (fnTyped t.code 1))
  | .vmul t p d a b => some (encR 0x23 d a b p (fnTyped t.code 2))
  | .vmin t p d a b => some (encR 0x23 d a b p (fnTyped t.code 3))
  | .vmax t p d a b => some (encR 0x23 d a b p (fnTyped t.code 4))
  | .vand t p d a b => some (encR 0x23 d a b p (fnTyped t.code 5))
  | .vor t p d a b => some (encR 0x23 d a b p (fnTyped t.code 6))
  | .vxor t p d a b => some (encR 0x23 d a b p (fnTyped t.code 7))
  | .vshl t p d a b => some (encR 0x23 d a b p (fnTyped t.code 8))
  | .vshr t p d a b => some (encR 0x23 d a b p (fnTyped t.code 9))
  | .vsra t p d a b => some (encR 0x23 d a b p (fnTyped t.code 10))
  | .vabs t p d a => some (encR 0x23 d a 0 p (fnTyped t.code 11))
  | .vneg t p d a => some (encR 0x23 d a 0 p (fnTyped t.code 12))
  | .vadds t p d a b => some (encR 0x23 d a b p (fnTyped t.code 13))
  | .vsubs t p d a b => some (encR 0x23 d a b p (fnTyped t.code 14))
  | .vfadd t p d a b => some (encR 0x24 d a b p (fnTyped t.code 0))
  | .vfsub t p d a b => some (encR 0x24 d a b p (fnTyped t.code 1))
  | .vfmul t p d a b => some (encR 0x24 d a b p (fnTyped t.code 2))
  | .vfmin t p d a b => some (encR 0x24 d a b p (fnTyped t.code 3))
  | .vfmax t p d a b => some (encR 0x24 d a b p (fnTyped t.code 4))
  | .vfabs t p d a => some (encR 0x24 d a 0 p (fnTyped t.code 5))
  | .vfneg t p d a => some (encR 0x24 d a 0 p (fnTyped t.code 6))
  | .vfexp2 t p d a => some (encR 0x24 d a 0 p (fnTyped t.code 7))
  | .vflog2 t p d a => some (encR 0x24 d a 0 p (fnTyped t.code 8))
  | .vfrcp t p d a => some (encR 0x24 d a 0 p (fnTyped t.code 9))
  | .vfrsq t p d a => some (encR 0x24 d a 0 p (fnTyped t.code 10))
  | .vfmaF32 p d a b c => some (encQ 0x25 d a b c p 0)
  | .vfmaBf16 p d a b c => some (encQ 0x25 d a b c p 1)
  | .vfmsF32 p d a b c => some (encQ 0x25 d a b c p 2)
  | .vfmsBf16 p d a b c => some (encQ 0x25 d a b c p 3)
  | .vcmp cond t p d a b => some (encR 0x26 (in5 d) a b p (t.code ++ 0#2 ++ cond.code))
  | .vcvtF32Bf16 rnd sat z p d a => some (encR 0x27 d a 0 p (fnCvt 0 rnd.code sat z))
  | .vcvtBf16F32 z p d a => some (encR 0x27 d a 0 p (fnCvt 1 0 false z))
  | .vcvtF32E4m3 rnd sat z p d a => some (encR 0x27 d a 0 p (fnCvt 2 rnd.code sat z))
  | .vcvtF32E5m2 rnd sat z p d a => some (encR 0x27 d a 0 p (fnCvt 3 rnd.code sat z))
  | .vcvtBf16E4m3 rnd sat z p d a => some (encR 0x27 d a 0 p (fnCvt 4 rnd.code sat z))
  | .vcvtBf16E5m2 rnd sat z p d a => some (encR 0x27 d a 0 p (fnCvt 5 rnd.code sat z))
  | .vcvtE4m3Bf16 z p d a => some (encR 0x27 d a 0 p (fnCvt 6 0 false z))
  | .vcvtE5m2Bf16 z p d a => some (encR 0x27 d a 0 p (fnCvt 7 0 false z))
  | .vcvtF32S32 rtz sat z p d a => some (encR 0x27 d a 0 p (fnCvt 8 (rtzCode rtz) sat z))
  | .vcvtS32F32 rnd sat p d a => some (encR 0x27 d a 0 p (fnCvt 9 rnd.code sat false))
  | .vcvtF32N32 rtz sat z p d a => some (encR 0x27 d a 0 p (fnCvt 10 (rtzCode rtz) sat z))
  | .vcvtN32F32 rnd sat p d a => some (encR 0x27 d a 0 p (fnCvt 11 rnd.code sat false))
  | .vcvtS32S16 sat p d a => some (encR 0x27 d a 0 p (fnCvt 12 0 sat false))
  | .vcvtS16S8 sat p d a => some (encR 0x27 d a 0 p (fnCvt 13 0 sat false))
  | .vcvtE2m1E4m3 rnd sat z p d a b => some (encR 0x27 d a b p (fnCvt 14 rnd.code sat z))
  | .vsel sz p d a => some (encR 0x28 d a (in5 sz) p 0x00)
  | .vsplat sz d a => some (encR 0x28 d a 0 (pgSize sz) 0x01)
  | .vmovx sz d a b => some (encR 0x28 d a b (pgSize sz) 0x02)
  | .vins sz d a b => some (encR 0x28 d a b (pgSize sz) 0x03)
  | .vshuf p d a b => some (encR 0x28 d a b p 0x04)
  | .vrot p d a b => some (encR 0x28 d a b p 0x05)
  | .viota sz d => some (encR 0x28 d 0 0 (pgSize sz) 0x06)
  | .vradd p d a => some (encR 0x29 d a 0 p 0x00)
  | .vrmax p d a => some (encR 0x29 d a 0 p 0x01)
  | .vrmin p d a => some (encR 0x29 d a 0 p 0x02)
  | .vdot p d a b => some (encR 0x29 d a b p 0x03)
  | .pand d a b => some (encR 0x2A (in5 d) (in5 a) (in5 b) 0 0x00)
  | .por d a b => some (encR 0x2A (in5 d) (in5 a) (in5 b) 0 0x01)
  | .pxor d a b => some (encR 0x2A (in5 d) (in5 a) (in5 b) 0 0x02)
  | .pnot d a => some (encR 0x2A (in5 d) (in5 a) 0 0 0x03)
  | .pcnt d a => some (encR 0x2A d (in5 a) 0 0 0x04)
  | .pfirst d a => some (encR 0x2A d (in5 a) 0 0 0x05)
  | .pset d a => some (encR 0x2A (in5 d) a 0 0 0x06)
  | .vld d a imm => some (encM 0x2B d a 0 false imm)
  | .vst src a imm => some (encS 0x2C src a 0 imm)
  | .vldx p d a b => some (encR 0x2D d a b p 0x00)
  | .vstx p src a b => some (encR 0x2D src a b p 0x01)
  | .vldb d a => some (encR 0x2D d a 0 0 0x02)
  | .mlease => some (encR 0x2E 0 0 0 0 0x00)
  | .mrel => some (encR 0x2E 0 0 0 0 0x01)
  | .mma a => some (encR 0x2E 0 a 0 0 0x02)
  | .mcell a => some (encR 0x2E 0 a 0 0 0x03)
  | .mzero k => some (encR 0x2E 0 0 (in5 k) 0 0x04)
  | .mdrain a => some (encR 0x2E 0 a 0 0 0x05)
  | .mwait => some (encR 0x2E 0 0 0 0 0x06)
  | .bufdef k a => some (encR 0x2F (in5 k) a 0 0 0x00)
  | .publish k => some (encR 0x2F (in5 k) 0 0 0 0x01)
  | .ewait a b => some (encR 0x2F 0 a b 0 0x02)
  | .scur k a => some (encR 0x2F (in5 k) a 0 0 0x03)
  | .srd a => some (encR 0x30 0 a 0 0 0x00)
  | .swr a => some (encR 0x30 0 a 0 0 0x01)
  | .swait => some (encR 0x30 0 0 0 0 0x02)
  | .undospill => some (encR 0x31 0 0 0 0 0x00)
  | .lapq d => some (encR 0x31 d 0 0 0 0x01)
  | _ => none

/-- The word of a switch instruction; none for core instructions and events. -/
def encodeSwitch (i : Instr) : Option SwWord :=
  match i with
  | .route r => some (encSw r 0 0)
  | .sj r t indexed n => some (encSw r 1 (0#3 ++ n ++ bit indexed ++ t))
  | .sloop r n cnt => some (encSw r 2 (cnt ++ n))
  | .sdbnz r n t => some (encSw r 3 (0#4 ++ t ++ n))
  | .smov r n src => some (encSw r 4 (0#11 ++ src ++ n))
  | .scurSwitch r n cnt => some (encSw r 5 (cnt ++ n))
  | .stok r slot => some (encSw r 6 (0#14 ++ slot))
  | .swaith r => some (encSw r 7 0)
  | .shalt r => some (encSw r 8 0)
  | _ => none

/-- The encoder over both kinds of word: the number of bits and the word; none for an event, which has no encoding. -/
def encode (i : Instr) : Option (Nat × Nat) :=
  match encodeCore i with
  | some w => some (32, w.toNat)
  | none => (encodeSwitch i).map fun w => (64, w.toNat)

/-- The decoder's answer to an instruction whose bits are w, numbered as the opcode table numbers them: 32 bits are a core
word, 64 bits a switch word; both are little-endian (R58, R62), so bit 0 is bit 0 of the word. -/
def decodeTableWord (nbits w : Nat) : Option Instr :=
  if nbits = 32 then (decode (BitVec.ofNat 32 w)).toOption
  else if nbits = 64 then (decodeSwitch (BitVec.ofNat 64 w)).toOption
  else none

end Sys2Proof
end

