-- ==== Sys2Proof/Machine/Types.lean ====
section
/-! DEFINITION. The records the state is made of, part 1: causes, the core with its pipeline, cache, scratch and engines, and
the packets of the dynamic network. Plain data only. -/

namespace Sys2Proof.Machine

/-- The causes of R237. -/
inductive Cause where
  | illegal | priv | align | page | perm | cid | boundary | lease | refused | remoteLost | ue | sigFault | undoFull
  | undoQuota | stageQuota | deadlock | heatState | overlap | loadFail | jtab | brk
  deriving DecidableEq, Repr

/-- The code of a cause (R237). -/
def Cause.code (c : Cause) : BitVec 8 :=
  match c with
  | .illegal => 0x01#8 | .priv => 0x02#8 | .align => 0x03#8 | .page => 0x04#8 | .perm => 0x05#8 | .cid => 0x06#8
  | .boundary => 0x07#8 | .lease => 0x08#8 | .refused => 0x09#8 | .remoteLost => 0x0A#8 | .ue => 0x0B#8
  | .sigFault => 0x0C#8 | .undoFull => 0x0D#8 | .undoQuota => 0x0E#8 | .stageQuota => 0x0F#8 | .deadlock => 0x10#8
  | .heatState => 0x11#8 | .overlap => 0x12#8 | .loadFail => 0x13#8 | .jtab => 0x14#8 | .brk => 0x15#8

/-- Who takes a cause (R237): the program's handler, the supervisor, the lap rollback. -/
inductive Taker where
  | handler | supervisor | lap
  deriving DecidableEq, Repr

/-- A cause with what goes into the trap registers (R237, R238). -/
structure Trap where
  cause : Cause
  addr : Word := 0
  sub : BitVec 8 := 0
  posted : Bool := false
  switch : Bool := false
  /-- A REMOTE_LOST that was held as a deferred report (R218): its taker is L, not H. -/
  deferred : Bool := false
  deriving DecidableEq, Repr

/-- What a core is frozen on (R102, R244, R434). -/
inductive Wait where
  | none
  /-- An empty inbound FIFO of register field reg, of SN-B or of SN-A (R51). -/
  | pop (reg : Nat) (vec : Bool)
  /-- A result due into a full outbound FIFO (R104). -/
  | push (reg : Nat)
  /-- A scoreboard conflict of an access or command (R176). -/
  | scoreboard
  /-- A full command queue of the block (R149). -/
  | commandQueue
  /-- The lease, for a matrix command (R160). -/
  | commandLease
  /-- A full set of streams (R185). -/
  | streams
  /-- A full Starter queue for BATON (R223). -/
  | starterQueue
  /-- 16 collectives of the context run (R297). -/
  | collectives
  /-- A DSEND not yet accepted (R351). -/
  | dsend
  /-- A pending scalar or interlocked result (R94, R98). -/
  | scalar
  /-- A hurdle, with its scope and whether it seals (R368). -/
  | hurdle (scope : BitVec 2) (sealing : Bool)
  | mlease
  | mwait
  | ewait
  | swait
  /-- The collective whose descriptor is at this address (R431). -/
  | xwait (desc : Word)
  | drecv
  /-- FINISH, waiting for what is outstanding (R38, R358). -/
  | finish
  /-- ACQ of the object at this domain physical address (R199). -/
  | acq (obj : Nat)
  /-- WAITQ on the object at this domain physical address (R253). -/
  | waitq (obj : Nat)
  /-- HWAIT on the heat record at this domain physical address (R281). -/
  | hwait (rec : Nat)
  | idle
  /-- A TLB miss (R212). -/
  | tlbMiss
  /-- An access whose response has not arrived (R94). -/
  | access
  /-- A step in progress: an object's release on its way, TLBINV, a heat instruction past its checks (R434). -/
  | step
  /-- CFLUSH past its translation: the write-backs of the line with this number are on their way (R210, R344). -/
  | flush (line : Nat)
  /-- REL past its checks: it waits for what goes before the release of the object at this address, through this entry; a save finds
  the core at the instruction (R200, R210, R399). -/
  | rel (phys : Nat) (leaf : BitVec 128)
  /-- FENCE, WBALL, or another form's wait for what they wait for: it ends before a cause is taken, but a save finds the core at the
  instruction (R357, R430). -/
  | fence
  /-- HREWARD of a runner that has been cancelled: it waits to be retired (R362). -/
  | retired
  /-- HFORK past its step at the home, which waits for room in a Starter queue (R365). -/
  | fork
  deriving DecidableEq, Repr

/-- Whether a core runs (R38, R42, R239, R240). -/
inductive Mode where
  /-- Not started since reset, or its gang has been retired or saved. -/
  | off
  | running
  /-- Stopped at a boundary for a decision token (R42). -/
  | stopped
  /-- Frozen on a class-S cause (R239). -/
  | sFreeze
  /-- FINISH has taken effect (R38). -/
  | finished
  deriving DecidableEq, Repr

/-- A hardware loop slot (R48, R105). -/
structure LoopSlot where
  armed : Bool := false
  start : BitVec 14 := 0
  fin : BitVec 14 := 0
  count : BitVec 32 := 0
  initial : BitVec 32 := 0
  deriving DecidableEq, Repr

/-- The kind of register a vector-unit result goes to (R110). -/
inductive LandKind where
  | x | v | p
  deriving DecidableEq, Repr

/-- A result in flight, or a landing record: the oldest stands first in its list (R97, R110). -/
structure Landing where
  kind : LandKind
  reg : Nat
  /-- Landing phases still to come before it is due. -/
  remaining : Nat
  /-- The predicate bits captured at issue (R110). -/
  enable : PWord
  /-- The bits of the register that it writes (R97). -/
  mask : VWord
  value : VWord
  /-- The model's own: unfrozen tc since its issue, which gives the issue order (R97, R110). -/
  age : Nat := 0
  deriving DecidableEq, Repr

/-- A multi-cycle scalar result (R94). -/
structure ScalarPending where
  reg : Reg
  /-- tc still to come before it is written. -/
  remaining : Nat
  value : Word
  /-- The model's own: unfrozen tc since its issue. -/
  age : Nat := 0
  deriving DecidableEq, Repr

/-- An answer to an access of the instruction in progress. -/
inductive Reply where
  | ok (w : Word)
  | fail (t : Trap)
  deriving DecidableEq, Repr

/-- The block-signature checker (R274). -/
structure Checker where
  crc : BitVec 16 := 0
  armed : Bool := false
  expected : BitVec 16 := 0
  deriving DecidableEq, Repr

/-- A cached TLB entry with the context of the miss that filled it (R209). -/
structure TlbEntry where
  ctx : Nat
  leaf : BitVec 128
  deriving DecidableEq, Repr

/-- A data-cache line (R178, R210): four sectors of 32 bytes. -/
structure Line where
  /-- Virtual address of the line, bits 7..55. -/
  va : Nat := 0
  ctx : Nat := 0
  /-- The entry that translated the line when it was allocated. -/
  leaf : BitVec 128 := 0
  /-- Domain physical address of the line. -/
  phys : Nat := 0
  filled : BitVec 4 := 0
  /-- The generation tags of sectors 0..3, 8 bits each. -/
  gens : BitVec 32 := 0
  dirty : BitVec 128 := 0
  data : VWord := 0
  deriving DecidableEq, Repr

/-- A holdings entry (R196): the object's virtual address as the program names it, and where it lives. -/
structure Holding where
  object : Nat
  phys : Nat
  shared : Bool
  deriving DecidableEq, Repr

/-- A message of the dynamic network (R350, R351). -/
structure Message where
  sender : Word
  payload : BitVec 256
  deriving DecidableEq, Repr

/-- The kinds of access of a miss message (R212). -/
inductive MissKind where
  | load | store | atomic | streamRead | streamWrite | jtab
  deriving DecidableEq, Repr

/-- A TLB miss on its way to a translation service core, or queued there (R212). -/
structure Miss where
  req : Nat
  va : Nat
  ctx : Nat
  cfg : BitVec 8
  kind : MissKind
  tag : Nat
  /-- The model's own: the access or stream that missed asks for nothing any more; the message is answered as any other. -/
  dead : Bool := false
  deriving DecidableEq, Repr

/-- One entry of a core's receive queue: a message, or a miss at a translation service core (R212). -/
inductive Received where
  | message (m : Message)
  | miss (m : Miss)
  deriving DecidableEq, Repr

/-- A scratch buffer (R172): undefined when len is 0. -/
structure Buffer where
  half0 : BitVec 20 := 0
  half1 : BitVec 20 := 0
  len : BitVec 20 := 0
  vis : Bool := false
  deriving DecidableEq, Repr

/-- A range of physical scratch offsets (R175). -/
structure Range where
  start : Nat
  len : Nat
  deriving DecidableEq, Repr

/-- Whose command a scoreboard entry is (R244). -/
inductive ScoreOwner where
  /-- A matrix command of the quad, by its number in acceptance order. -/
  | matrix (serial : Nat)
  /-- A cursor. -/
  | cursor (k : Nat)
  deriving DecidableEq, Repr

/-- A scoreboard entry (R175), one for a command and tile: the oldest stands first in its list. A range that lies partly in a view
is bound part by part, so that each of its ranges is a list of pieces (R174). -/
structure ScoreEntry where
  owner : ScoreOwner
  reads : List Range
  /-- Pieces of its first range: those of an MMA's A; the pieces behind them are B's (R155). -/
  firstReads : Nat := 64
  write : List Range := []
  /-- The form that entered it: SCUR of the core, SCUR of the switch, or a matrix command (R244). -/
  bySwitch : Bool := false
  deriving DecidableEq, Repr

/-- A switch cursor (R116); the halves of buffers are bound when its SCUR issues (R174). -/
structure Cursor where
  addr : BitVec 20 := 0
  step : BitVec 20 := 0
  left : BitVec 16 := 0
  dir : Bool := false
  plane : Bool := false
  /-- The buffers as they stood when the cursor was bound (R174). -/
  bound : Vector Buffer 8 := Vector.replicate 8 {}
  deriving DecidableEq, Repr

/-- Where an array of a core holds an uncorrectable error (R123, R271): a byte of scratch, an instruction word by its key, a switch
word by its key, a word of a FIFO by its plane, its number (R245) and its place from the head. -/
inductive ErrorMark where
  | scratch (off : Nat)
  | code (key : Nat)
  | swcode (key : Nat)
  | fifo (planeB : Bool) (i pos : Nat)
  deriving DecidableEq, Repr

/-- A running stream of a memory core (R183 to R187, R216). -/
structure Stream where
  desc : BitVec 512
  write : Bool
  /-- Start order among the core's streams. -/
  order : Nat
  /-- Issue number among the package's writing streams (R266, R292). -/
  serial : Nat := 0
  i1 : Nat := 0
  i2 : Nat := 0
  i3 : Nat := 0
  /-- Bytes of the current run moved so far. -/
  byte : Nat := 0
  /-- Virtual address of the current run once it has begun (R408). -/
  run : Option Nat := none
  /-- Entries that translate the current run, and those of its destination in a copy. -/
  pages : List (BitVec 128) := []
  dpages : List (BitVec 128) := []
  /-- Bytes taken from memory or from the FIFO and not yet delivered or written. -/
  staged : List Byte := []
  /-- The counters of the window run whose rows stand in staged, and the bytes of those rows (R187, R244). -/
  rows : Option (Nat × Nat × Nat × Nat) := none
  /-- A fault met before the current run, which STREAM_FAULT will act on. -/
  fault : Option Trap := none
  /-- A translation fault with its notice pending (R216). -/
  stalled : Option Trap := none
  /-- A miss of the stream is outstanding (R212). -/
  missing : Bool := false
  /-- Every word has been delivered or written. -/
  done : Bool := false
  /-- Bytes written to H pages, by virtual address, in order (R292). -/
  host : List (Nat × Byte) := []
  deriving DecidableEq, Repr

/-- A core with all it holds; a tile's record holds its switch as well (R48 to R57). -/
structure Core where
  mode : Mode := .off
  /-- Serial of the gang the core belongs to. -/
  gang : Option Nat := none
  x : Vector Word 32 := Vector.replicate 32 0
  v : Vector VWord 32 := Vector.replicate 32 0
  p : Vector PWord 8 := Vector.replicate 8 0
  loop0 : LoopSlot := {}
  loop1 : LoopSlot := {}
  pc : BitVec 14 := 0
  slot : BitVec 2 := 0
  cycle : Word := 0
  trapVec : Word := 0
  trapCause : Word := 0
  trapPc : Word := 0
  trapAddr : Word := 0
  sub : BitVec 8 := 0
  posted : Bool := false
  inHandler : Bool := false
  bySwitch : Bool := false
  gen : BitVec 8 := 0
  nfStat : Word := 0
  /-- LDNFs completed since nf_stat was last written (R101). -/
  nfCount : Nat := 0
  win : Vector Word 8 := Vector.replicate 8 0
  sigCtl : Bool := false
  checker : Checker := {}
  heldChecker : Checker := {}
  leaseRun : Nat := 16
  errInject : Word := 0
  inflight : List Landing := []
  records : List Landing := []
  scalars : List ScalarPending := []
  /-- The model's own: the landings of the current tc are still to be made. -/
  landing : Bool := false
  /-- The model's own: further tc that the instruction completed last takes before the next one issues (R179). -/
  busy : Nat := 0
  /-- Words and bytes of the core's arrays that hold an uncorrectable error (R271). -/
  marks : List ErrorMark := []
  /-- The model's own: the instruction that completed last stood at this armed loop end, not yet evaluated (R106). -/
  evalAt : Option (BitVec 14) := none
  wait : Wait := .none
  /-- A request of the instruction in progress is outstanding: nothing is tried again until it is answered. -/
  blocked : Bool := false
  /-- Words popped by the instruction in progress, in field order, each with its FIFO: direction, + 4 on SN-B (R51). -/
  pulled : List (Nat × VWord) := []
  /-- Words the step being made has popped so far. -/
  taken : List (Nat × VWord) := []
  /-- Answers to the accesses of the instruction in progress, in order. -/
  replies : List Reply := []
  /-- Boundary causes due at this core, oldest first (R237, R434). -/
  pend : List Trap := []
  /-- Deferred REMOTE_LOST reports that have arrived (R218). -/
  lost : List Word := []
  holdings : List Holding := []
  recvq : List Received := []
  /-- A pending SEALREQ (R267). -/
  sealReq : Bool := false
  fillTarget : Option Miss := none
  /-- Most recently used first (R209). -/
  tlb : List TlbEntry := []
  /-- Keyed by set × 16 + way. -/
  lines : Tbl Line := []
  plru : Tbl (BitVec 16) := []
  scratch : Tbl Byte := []
  /-- Logged scratch sectors (R262). -/
  logged : List Nat := []
  /-- The context whose lap the logged bits and the records of the undo area belong to. -/
  logCtx : Option Nat := none
  undoFill : Nat := 0
  /-- An UNDO_FULL has been raised and not yet entered its handler; or it is in the handler it entered (R263). -/
  undoRaised : Bool := false
  undoInHandler : Bool := false
  bufs : Vector Buffer 8 := Vector.replicate 8 {}
  score : List ScoreEntry := []
  /-- Instruction words keyed by slot × 4,096 + index. -/
  code : Tbl IWord := []
  /-- Switch words keyed by slot × 1,024 + index. -/
  swcode : Tbl SwWord := []
  /-- Most recent remote access last, at most 256 (R171). -/
  trace : List (BitVec 128) := []
  /-- Keyed by stream slot 0..3. -/
  streams : Tbl Stream := []
  spc : BitVec 10 := 0
  swHalted : Bool := true
  /-- The switch waits for the hurdle to complete (SWAITH). -/
  swWaitH : Bool := false
  swCnt : Vector (BitVec 16) 4 := Vector.replicate 4 0
  cursors : Vector Cursor 4 := Vector.replicate 4 {}
  /-- SN-A FIFOs in the order of R245: core inbound N, E, S, W, core outbound, link inputs. A memory core's edge FIFOs stand at
  0 (toward the core) and 4 (toward the tile). -/
  fifoA : Tbl (List Word) := []
  fifoB : Tbl (List VWord) := []
  /-- The model's own: a FIFO of the core has gained or lost a word since the latest deadlock scan (R252). -/
  stirred : Bool := false
  /-- The context that the core last worked for: its TLB holds entries of that one (R209). -/
  lastCtx : Option Nat := none
  deriving DecidableEq, Repr

/-- The atomic operations of R82 and R83. -/
inductive AtomicOp where
  | add | min | max | minn | maxn | and | or | xor | swap | fadd | faddBf16x4 | incb | cas
  deriving DecidableEq, Repr

/-- What another package sends to a gang (R249): a message for a member, its arrival at a job hurdle, the notice that the job hurdle
seals, its part of a collective's data. -/
inductive Flit where
  | message (member : Nat) (m : Message)
  | arrival (pkg : Nat)
  | sealing
  | data (seq pkg : Nat) (bytes : List Byte)
  deriving DecidableEq, Repr

/-- What a request of the dynamic network asks of the home or owner it goes to, or what an answer brings back. Addresses
are domain physical (R206). -/
inductive PacketKind where
  /-- A sector fill for a line of the source's cache (R178): set × 16 + way, sector. -/
  | fill (line sector : Nat) (leaf : BitVec 128)
  /-- A sector write-back with its byte mask (R180); va names the line for R261. -/
  | writeBack (mask : BitVec 32) (data : BitVec 256) (leaf : BitVec 128)
  | load (width : Nat) (leaf : BitVec 128)
  | store (width : Nat) (data : Word) (leaf : BitVec 128) (va : Nat)
  | atomic (op : AtomicOp) (width : Nat) (operand compare : Word) (returning : Bool) (leaf : BitVec 128) (va : Nat)
  | release (holding : Holding) (leaf : BitVec 128)
  /-- A wake for the waiter of a node (R253). -/
  | wake (serial member : Nat)
  /-- LDL or STL to the tile `dst` of the source's gang (R166); addr is the tile-space address. -/
  | remote (dst : Nat) (store : Bool) (width : Nat) (data : Word)
  /-- An answer to the access of the instruction in progress. -/
  | reply (dst : Nat) (r : Reply)
  /-- An answer to a fill: the sector's bytes. -/
  | fillReply (dst line sector : Nat) (data : BitVec 256) (bad : Bool)
  /-- A refusal of a posted STL (R169). -/
  | refusal (dst : Nat)
  /-- A failure report of a posted remote access (R218). -/
  | lost (dst : Nat) (va : Nat)
  | message (dst : Nat) (m : Message)
  | miss (dst : Nat) (m : Miss)
  | tlbFill (m : Miss) (leaf : BitVec 128)
  /-- A message of another package for a member of a gang, placed or saved (R351). -/
  | incoming (serial member : Nat) (m : Message)
  /-- What another package has sent to a gang beside messages, behind a captured message (R250). -/
  | notice (serial : Nat) (f : Flit)
  deriving DecidableEq, Repr

/-- A packet in flight: its source's agent number, the domain physical or tile-space address it concerns, what it asks. The
packets stand in the order of their sending. -/
structure Packet where
  src : Nat
  addr : Nat
  kind : PacketKind
  /-- The context that a write is logged for (R258). -/
  ctx : Nat := 0
  /-- The baton whose release covers it: that of the gang that sent it, once its lanes have been freed (R38, R39). -/
  rel : Option Nat := none
  deriving DecidableEq, Repr

end Sys2Proof.Machine
end

