-- ==== Sys2Proof/Machine/Records.lean ====
section
/-! DEFINITION. The records the state is made of, part 2: the quad, the gang, the context, the Starter, the engines and the
rest of the package. Plain data only. -/

namespace Sys2Proof.Machine

/-! ### The quad (R146 to R164) -/

/-- The lease state of a core of a quad (R160). -/
inductive LeaseState where
  | none | waiting | holding
  deriving DecidableEq, Repr

/-- The kinds of matrix command (R246). -/
inductive CommandKind where
  | mma | mzero | mcell | mdrain
  deriving DecidableEq, Repr

/-- An accepted matrix command that has not completed (R149). -/
structure Command where
  /-- Its number in acceptance order. -/
  serial : Nat
  kind : CommandKind
  /-- Tile in quad of the issuing core. -/
  issuer : Nat
  desc : BitVec 256
  /-- The buffers of the quad's tiles 0..3 as they stood at acceptance (R174). -/
  bound : List (Vector Buffer 8)
  /-- The issuer's cell program at acceptance (R156). -/
  cell : Option (BitVec 128)
  begun : Bool := false
  /-- The next unfed step: steps of an MMA fed so far, rows of a drain written so far (R158, R164, R246). -/
  step : Nat := 0
  deriving DecidableEq, Repr

/-- A quad: the matrix block, its lease and its queue. -/
structure Quad where
  /-- The accumulator elements, keyed by bank × 16,384 + i × 128 + j. -/
  acc : Tbl (BitVec 32) := []
  /-- The holder while held, otherwise the last holder; 3 before the first grant (R147, R161). -/
  holder : Nat := 3
  held : Bool := false
  run : Nat := 0
  /-- lease_run as it stood at the grant (R160). -/
  runLimit : Nat := 16
  lease : Vector LeaseState 4 := Vector.replicate 4 .none
  cells : Vector (Option (BitVec 128)) 4 := Vector.replicate 4 none
  queue : List Command := []
  next : Nat := 0
  /-- Keys of accumulator elements that hold an uncorrectable error (R271). -/
  marks : List Nat := []
  deriving DecidableEq, Repr

/-! ### The gang (R26, R37, R247) -/

/-- A port-table entry (R74). -/
structure PortEntry where
  south : Bool
  column : Nat
  select : Nat
  planeA : Bool
  planeB : Bool
  stream : Nat
  deriving DecidableEq, Repr

/-- What the leg header of a loaded image says (R72), with its port table (R74). -/
structure LegFacts where
  laps : Bool := false
  sig : Bool := false
  /-- The widest hurdle scope. -/
  scope : Nat := 0
  configs : BitVec 4 := 1
  ports : List PortEntry := []
  deriving DecidableEq, Repr

/-- What a gang is in. -/
inductive GangState where
  /-- Placed, its image being loaded (R227). -/
  | loading
  /-- On lanes again, its image being loaded for the restore (R227, R248). -/
  | restoring
  | running
  /-- Its finish has taken place; its lanes are freed with the last instance of the baton (R38). -/
  | finished
  /-- Pre-empted and saved (R242). -/
  | saved
  deriving DecidableEq, Repr

/-- The state of a gang's members as it is saved: cores by member number (tile index, or 0x800 + memory-core offset), quads
by gang quad order (R243). -/
structure Image where
  cores : Tbl Core := []
  quads : Tbl Quad := []
  deriving DecidableEq, Repr

/-- A gang. -/
structure Gang where
  state : GangState := .loading
  /-- The baton it is an instance of. -/
  baton : Nat
  /-- The Starter's copy of the baton (R31). -/
  bytes : VWord
  inst : Nat
  first : Nat
  lanes : Nat
  ctx : Nat
  cfg : BitVec 8
  runner : Nat := 0
  /-- The heat record a runner belongs to, by domain physical address. -/
  heat : Option Nat := none
  /-- The runner has been cancelled: the gang is to be retired (R362). -/
  cancelled : Bool := false
  laps : Bool := false
  sig : Bool := false
  /-- The widest hurdle scope the leg header allows (R72). -/
  scope : Nat := 0
  configs : BitVec 4 := 1
  ports : List PortEntry := []
  slot : BitVec 2 := 0
  /-- Its load has failed once and is being retried from the duplicate (R227). -/
  retried : Bool := false
  /-- A hurdle is in progress (R247). -/
  hurdleOn : Bool := false
  hurdleScope : BitVec 2 := 0
  sealing : Bool := false
  /-- Members that have arrived, as R247 numbers them. -/
  arrived : List Nat := []
  /-- A request that the next hurdle seals (R270). -/
  sealNext : Bool := false
  atSeal : Bool := false
  /-- Offset of its seal record in the seal area, while it is at the seal (R267). -/
  sealAt : Nat := 0
  /-- Arrivals of other packages at job hurdles, one for each, oldest first: a hurdle takes one of each package (R299). -/
  jobArrived : List Nat := []
  /-- A member on another package seals the next job hurdle (R267). -/
  farSealing : Bool := false
  tokens : List (BitVec 2) := []
  /-- The token being applied (R43). -/
  applying : Option (BitVec 2) := none
  hostWake : Word := 0
  saveBlock : Nat := 0
  /-- What the deadlock scan saw last, while every condition of R252 held. -/
  scanned : Option (List Nat) := none
  image : Option Image := none
  /-- Effective priorities of a restored lock holder, each with the object that it keeps it for (R254). -/
  boost : List (Nat × Nat) := []
  /-- The lap in which it was placed (R272). -/
  lap : Nat := 0
  /-- Order of pre-emption (R233). -/
  savedAt : Nat := 0
  /-- A pre-emption has stopped it and waits for its accesses to drain (R242). -/
  stopping : Bool := false
  /-- A saved gang waits for lanes (R233, R254, R272, R285). -/
  resume : Bool := false
  /-- Track time since which it waits, and the priority it waits with; none for one that presses at once (R233, R254). -/
  since : Nat := 0
  waitPrio : Option Nat := none
  /-- It was saved before its image had been loaded (R226). -/
  unloaded : Bool := false
  /-- The records of its members stand in its save block, where the restore reads them (R248). -/
  recorded : Bool := false
  deriving DecidableEq, Repr

/-- The gang's members stand in its image: it is saved, or on lanes again with its image still being loaded. -/
def Gang.away (g : Gang) : Bool := g.state == .saved || g.state == .restoring

/-! ### Queues and batons (R30, R220 to R224) -/

/-- Who appended a queue entry (R223, R278). -/
inductive EntrySource where
  | host | program | push
  /-- HFORK, for runner i of the heat record at this domain physical address. -/
  | runner (rec i : Nat)
  deriving DecidableEq, Repr

/-- A queue entry (R221): 128 bytes. -/
structure Entry where
  bytes : VWord
  source : EntrySource
  /-- The lap in which it was appended (R272). -/
  lap : Nat := 0
  deriving DecidableEq, Repr

/-- Where a taken baton stands (R38, R270). -/
inductive BatonStage where
  /-- At the head of its queue; instances are still to be placed. -/
  | head
  /-- Every instance has been placed, or no further one will be (R227). -/
  | placed
  /-- The release of step 1 is in progress. -/
  | release
  /-- The steps of the finish go on once the push buffer has room (R223). -/
  | steps
  /-- Steps 2 and 3 are held until a seal has committed (R270). -/
  | held
  deriving DecidableEq, Repr

/-- A baton the Starter has taken a copy of (R31). -/
structure Baton where
  bytes : VWord
  /-- Its name in completion records (R230). -/
  ident : Word
  queue : Nat
  ctx : Nat
  runner : Option (Nat × Nat) := none
  entry : Entry
  /-- Its dependency counter has read 0 at an examination, or it has none (R33). -/
  depMet : Bool := false
  /-- Track time at which it became ready (R46). -/
  ready : Option Nat := none
  /-- Full periods of 2 ms waited since then (R224). -/
  waited : Nat := 0
  stage : BatonStage := .head
  placed : Nat := 0
  finished : Nat := 0
  /-- A load failed: no release, no completion word, no decrement (R227). -/
  failed : Bool := false
  /-- Hurdle scope of its leg, read from the header at the check (R32, R35). -/
  scope : Nat := 0
  /-- Starter firmware performs the steps of its finish through the journal (R327). -/
  byFirmware : Bool := false
  /-- Agent numbers of the cores its gangs have occupied, for the release (R38). -/
  members : List Nat := []
  /-- A store, stream write or atomic that its release covers has failed (R39). -/
  lost : Bool := false
  /-- The journal entry of its release (R234). -/
  relSeq : Option Nat := none
  /-- Its entry has left the queue (R224, R327). -/
  taken : Bool := false
  lap : Nat := 0
  deriving DecidableEq, Repr

/-- A queue (R220). -/
structure Queue where
  ctx : Nat := 0
  bound : Bool := false
  head : BitVec 32 := 0
  tail : BitVec 32 := 0
  /-- Entries from head to tail − 1. -/
  entries : List Entry := []
  /-- The 64 ring entries as they were last written, by number modulo 64: a taken entry stays there (R329). -/
  ring : Tbl VWord := []
  /-- The copy of its head baton (R31). -/
  current : Option Nat := none
  deriving DecidableEq, Repr

/-! ### The context (R26, R228, R243, R255) -/

/-- What a page the Starter and the hardware units use says: a leaf entry (R208). -/
abbrev Leaf := BitVec 128

/-- The home's own counter of an open heat (R282). -/
structure Heat where
  handle : Nat
  ctx : Nat
  /-- Virtual address of the record and the entry of its page. -/
  va : Nat
  leaf : BitVec 128
  run : Nat
  deadline : Nat
  /-- The lap it was forked in (R286). -/
  lap : Nat := 0
  deriving DecidableEq, Repr

/-- A collective in progress (R296, R297): it goes through the pages the supervisor gave the context. -/
structure Collective where
  ctx : Nat
  cfg : BitVec 8
  desc : BitVec 512
  /-- Domain physical address of the descriptor, its virtual address and the entry of its page. -/
  descAt : Nat
  va : Nat
  leaf : BitVec 128
  /-- The lap it was started in (R431). -/
  lap : Nat
  /-- The gang whose XCOLL started it: it pauses while that gang is saved (R247, R250, R298). -/
  gang : Option Nat := none
  deriving DecidableEq, Repr

/-- A binding (R196). -/
structure Binding where
  object : Nat
  base : Nat
  len : Nat
  deriving DecidableEq, Repr

/-- A staged write: an SWR or copy whose bytes wait for the seal (R266). -/
structure StagedWrite where
  order : Nat
  /-- Virtual address, physical address and byte, in the order written. -/
  bytes : List (Nat × Nat × Byte) := []
  complete : Bool := false
  /-- The room in the staging area that its SWR has reserved: offset and bytes (R266). -/
  base : Nat := 0
  room : Nat := 0
  deriving DecidableEq, Repr

/-- One undo record as the memory side keeps it (R259). -/
structure UndoRecord where
  addr : Nat
  lap : Nat
  /-- none: an HBM sector; a spilled scratch sector names gang serial and tile (R264). -/
  tile : Option (Nat × Nat)
  old : BitVec 256
  /-- The page keeps a duplicate, which the record covers as well (R258). -/
  dup : Bool := false
  deriving DecidableEq, Repr

/-- A chunk of an undo area that a memory core fills (R259). -/
structure Chunk where
  mc : Nat
  south : Bool
  index : Nat
  lap : Nat
  /-- Records in it, oldest first. -/
  records : List UndoRecord := []
  deriving DecidableEq, Repr

/-- Runners of a heat that an HFORK has still to append: they are appended as the queue gets room, when the gang of the HFORK has
been saved meanwhile (R365). -/
structure Fork where
  queue : Nat
  /-- The heat record, its handle, and the runner to append next. -/
  record : Nat
  handle : Nat
  next : Nat
  deriving DecidableEq, Repr

/-- A gang as a seal record holds it (R267). -/
structure SealedGang where
  serial : Nat
  gang : Gang
  image : Image
  deriving DecidableEq, Repr

/-- What the current seal restores (R267 to R272). -/
structure Seal where
  gangs : List SealedGang := []
  /-- The context's queues, taken batons and buffered pushes at the seal. -/
  queues : Tbl Queue := []
  batons : Tbl Baton := []
  pushes : List (Nat × Entry) := []
  /-- Its open heats, by record (R286). -/
  heats : Tbl Heat := []
  /-- Its collectives in progress, and the data that has come for them (R247, R431). -/
  collectives : List Collective := []
  received : List (Nat × Nat × List Byte) := []
  /-- The batons whose steps the seal lets go on, in finish order (R270). -/
  held : List Nat := []
  /-- Runners still to be appended (R365), finishes whose steps wait (R223). -/
  forks : List Fork := []
  waiting : List (Nat × Nat) := []
  deriving DecidableEq, Repr

/-- A completion record (R230). -/
abbrev Record := BitVec 256

/-- A completion record that has not been written to its ring (R231, R266), with its journal entry, which its writing marks (R234). -/
structure HeldRecord where
  record : Record
  seq : Option Nat
  deriving DecidableEq, Repr

/-- A flit in the capture area (R249, R250): its port and its gang. -/
structure Captured where
  port : Nat
  serial : Nat
  flit : Flit
  deriving DecidableEq, Repr

/-- The state of a job on the package (R26). -/
structure Context where
  resident : Bool := false
  running : Bool := false
  pkgs : List Nat := []
  /-- Leaf entries through which the Starter and the engines translate for the context (R39), by virtual page base. -/
  pages : List Leaf := []
  cqBase : Nat := 0
  cqS : Nat := 0
  cqProducer : BitVec 32 := 0
  cqConsumer : BitVec 32 := 0
  cqHost : Word := 0
  /-- Records waiting for room in the ring, in order (R231). -/
  heldRecords : List HeldRecord := []
  /-- Records of the lap, released after its seal (R266). -/
  stagedRecords : List HeldRecord := []
  saveBase : Nat := 0
  saveSize : Nat := 0
  /-- Allocated save blocks: offset and length in the save area (R243). -/
  blocks : List (Nat × Nat) := []
  laps : Bool := false
  undoN : Nat := 0
  undoS : Nat := 0
  undoSize : Nat := 0
  quota : Nat := 0
  stageBase : Nat := 0
  stageQuota : Nat := 0
  seal0 : Nat := 0
  seal1 : Nat := 0
  limit : Nat := 0
  lapId : BitVec 32 := 0
  /-- Bytes of the chunks taken in the lap (R259). -/
  undoUse : Nat := 0
  chunks : List Chunk := []
  /-- Memory cores that have not finished reclaiming the previous lap (R260). -/
  reclaiming : List Nat := []
  rollbacks : Nat := 0
  stageFill : Nat := 0
  stagedWrites : List StagedWrite := []
  current : Option Seal := none
  /-- Host appends of the lap, by queue, oldest first: a rollback keeps them (R269, R272). -/
  appends : List (Nat × Entry) := []
  /-- A rollback trigger has come: its cause (R271). -/
  trigger : Option Cause := none
  /-- A rollback has halted the job and waits for the bytes of lost sectors (R273). -/
  awaiting : Bool := false
  /-- A seal is requested or pending, here or, as another package has told, there (R267, R268, R270). -/
  sealPending : Bool := false
  /-- An idle seal has been made in this idle period, or no baton has come to the job yet (R268). -/
  idleSealed : Bool := true
  /-- Batons whose steps wait for the seal, in finish order (R270). -/
  heldSteps : List Nat := []
  bindings : List Binding := []
  endpoints : Nat := 0
  /-- The draw that its key came from; 0 before its creation (R307). -/
  key : Nat := 0
  /-- Areas that it has had beside those above, and the seal records written for it: first byte and length (R307). -/
  oldAreas : List (Nat × Nat) := []
  /-- Registered hashes of the signing keys (R75). -/
  keys : Option (Nat × Nat) := none
  /-- Containers checked already, by virtual address, with their digests (R75, R306). -/
  checked : List (Nat × BitVec 384) := []
  /-- The job was stopped: cause (R256). -/
  stopped : Option Cause := none
  /-- Ports whose quiet marker has come during a switch (R249). -/
  quiet : List Nat := []
  /-- What has come for gangs that are away, oldest first (R249, R250). -/
  capture : List Captured := []
  /-- Collective data that other packages have sent ahead of the rest: sequence number, package, bytes (R249, R297). -/
  received : List (Nat × Nat × List Byte) := []
  /-- Markers this package has sent: port and the time T of the switch (R249). -/
  sentMarkers : List (Nat × Nat) := []
  /-- The context is being switched out: its save waits for the markers (R249). -/
  switching : Bool := false
  /-- Another package reports a gang of the job that runs there and is not parked (R252). -/
  elsewhere : Bool := false
  /-- Pages that the supervisor gave the context before and has replaced (R307). -/
  oldPages : List Leaf := []
  deriving DecidableEq, Repr

/-! ### Homes (R195 to R200) -/

/-- A member of a gang that waits at a home: it keeps its name while its gang is saved and restored elsewhere. -/
structure Waiter where
  serial : Nat
  /-- Member number of R247. -/
  member : Nat
  deriving DecidableEq, Repr

/-- An ACQ request in an object's queue (R199). -/
structure AcqRequest where
  who : Waiter
  obj : Nat
  /-- The object as the core named it. -/
  va : Nat
  shared : Bool
  /-- The entry of the object's page. -/
  leaf : BitVec 128
  deriving DecidableEq, Repr

/-! ### The Starter (R220 to R236, R325 to R328) -/

/-- What a notice of the hardware notice FIFO is (R235): the finish of a gang, a decision token, a kick of the host. -/
inductive NoticeKind where
  | finish
  | token (slot : BitVec 2)
  | kick (q : Nat) (app : Bool)
  deriving DecidableEq, Repr

/-- A notice in the hardware notice FIFO (R235, R326). -/
structure Notice where
  kind : NoticeKind := .finish
  /-- The gang that has finished, or that the token concerns; 0 for a kick. -/
  serial : Nat
  bytes : BitVec 256
  deriving DecidableEq, Repr

/-- A time-triggered table entry (R232). -/
structure TtEntry where
  time : Nat := 0
  out : Nat := 0xFFFF
  inn : Nat := 0xFFFF
  valid : Bool := false
  done : Bool := false
  failed : Bool := false
  deriving DecidableEq, Repr

/-- A slot tag of the gang's members (R226), kept per lane and slot: image address, context, configuration. -/
structure SlotTag where
  image : Nat
  ctx : Nat
  /-- Configuration of the leg. -/
  cfg : Nat
  /-- What the loaded leg's header and port table said. -/
  leg : LegFacts
  deriving DecidableEq, Repr

/-- The Starter's shared state (R220 to R236, R325). -/
structure Starter where
  queues : Tbl Queue := []
  submit : Tbl VWord := []
  pend : BitVec 256 := 0
  app : BitVec 256 := 0
  /-- Queues marked for examination (R224). -/
  marked : List Nat := []
  /-- The bit taken last (R224). -/
  lastTaken : Nat := 255
  /-- The queue served last, by priority (R224). -/
  lastServed : Vector Nat 4 := Vector.replicate 4 255
  /-- Successor pushes that wait for room: queue and entry (R223). -/
  pushBuf : List (Nat × Entry) := []
  batons : Tbl Baton := []
  nextBaton : Nat := 0
  nextSerial : Nat := 1
  /-- Slot tags, keyed by core number × 4 + slot (R226). -/
  slotTags : Tbl SlotTag := []
  /-- The launch count at the latest launch, keyed by core number × 4 + slot (R226). -/
  launches : Tbl Nat := []
  launchCount : Nat := 0
  ttable : Tbl TtEntry := []
  /-- Entries of a due switch that are in progress. -/
  switching : Option Nat := none
  /-- Step 2 or 3 of the entry in progress has been taken (R233, R327). -/
  stepped : Bool := false
  jtail : BitVec 32 := 0
  ja : Tbl (BitVec 256) := []
  jb : Tbl (BitVec 256) := []
  img : Tbl (BitVec 256) := []
  /-- Entries whose change has been performed and whose acknowledgement is on its way (R234). -/
  performed : List Nat := []
  notices : List Notice := []
  /-- Dwords of JA, and of JB, that hold an uncorrectable error: four for an entry (R234, R236). -/
  jaBad : List Nat := []
  jbBad : List Nat := []
  /-- A take-over has begun and its replay has not been acknowledged (R235). -/
  takingOver : Bool := false
  /-- A change is being performed whose entry stands in the journal already (R327). -/
  replaying : Bool := false
  /-- Finishes whose steps wait for room in the push buffer, in order: the baton, and the next step, 3 or 4 for a successor (R223). -/
  waiting : List (Nat × Nat) := []
  /-- Issued kind 8 entries that wait for that room (R223, R327). -/
  delayed : List Nat := []
  forks : List Fork := []
  /-- The active core, 0 or 1; the other is standby while standbyOk (R235). -/
  active : Nat := 0
  standbyOk : Bool := true
  stopped : Bool := false
  /-- Track time of the latest deadlock scan (R252). -/
  lastScan : Option Nat := none
  /-- Saves made so far: the order of pre-emption (R233). -/
  saves : Nat := 0
  deriving DecidableEq, Repr

/-- A format window (R186). -/
structure Window where
  ebase : Nat := 0
  elimit : Nat := 0
  sbase : Nat := 0
  fmt : Nat := 0
  ncol : Nat := 0
  pitch : Nat := 0
  deriving DecidableEq, Repr

/-! ### Exchange Engines, host, management -/

/-- An in-copy in progress (R291). -/
structure InCopy where
  ctx : Nat
  endpoint : Nat
  entry : BitVec 256
  deriving DecidableEq, Repr

/-- Host-bound bytes, waiting for the host stream engine (R292): those of a writing stream, whose place in the queue is kept
from its issue, or a completion record. -/
structure OutTransfer where
  ctx : Nat
  /-- Host address and byte. -/
  bytes : List (Nat × Byte) := []
  /-- A completion record's MSI-X vector (R228); none for a stream. -/
  vector : Option Nat := none
  /-- Issue number of the stream. -/
  serial : Nat := 0
  /-- The stream has completed. -/
  ready : Bool := true
  /-- For a record: the streams that had completed when it was written. -/
  after : List Nat := []
  deriving DecidableEq, Repr

/-- What the supervisor is told (R239, R240, R216, R252, R254, R256, R236). -/
inductive SupNotice where
  /-- A core has frozen on a class-S cause (R239). -/
  | frozen (core : Nat) (t : Trap)
  /-- A double fault: both causes (R240). -/
  | doubleFault (core : Nat) (first second : Trap)
  /-- A stream has stopped before a faulting run (R216). -/
  | stream (mc slot : Nat) (t : Trap)
  /-- The gang has raised DEADLOCK (R252). -/
  | deadlock (serial : Nat)
  /-- A home found its object held by a saved gang (R254). -/
  | lockHolder (holder waiter : Nat)
  /-- The job has been stopped with a cause (R256). -/
  | jobStopped (ctx : Nat) (c : Cause)
  /-- A persistent fault (R273). -/
  | persistent (ctx : Nat)
  /-- A poisoned sector (R275). -/
  | poisoned (addr : Nat)
  /-- A package fault: the Starter has stopped (R236). -/
  | packageFault
  deriving DecidableEq, Repr

/-- The secure boot core's and the management controller's state (R301 to R309). -/
structure Management where
  /-- The fuses (R301): two key hashes for Ed25519 and two for ML-DSA-65, each with its revoke bit; the anti-rollback counter; the
  device-unique secret, which no instruction and no event reads out. -/
  edFuses : List (BitVec 384 × Bool) := [(0, false), (0, false)]
  mlFuses : List (BitVec 384 × Bool) := [(0, false), (0, false)]
  secret : BitVec 256 := 0
  ready : Bool := false
  /-- The package has halted (R302, R303). -/
  halted : Bool := false
  /-- Lanes that PCIe has trained to: 16 or fewer (R287, R303). -/
  pcieWidth : Nat := 16
  /-- The code of a boot that stopped; 0 for none (R302, R303). -/
  code : Nat := 0
  antiRollback : BitVec 64 := 0
  /-- The bundle that runs, 0 for A and 1 for B, and its digest (R302, R306). -/
  bundle : Nat := 0
  bundleDigest : BitVec 384 := 0
  glUp : BitVec 24 := 0
  /-- Keyed by the member number of R304; an unlisted entry says that nothing was found. -/
  repair : Tbl (BitVec 128) := []
  /-- Scratch rows that a spare row stands for: member, bank, row (R304). -/
  remaps : List (Nat × Nat × Nat) := []
  /-- Island settings: frequency step 0..10 above 0.75 GHz, and gated; unlisted is 1.5 GHz, not gated (R308). -/
  islands : Tbl (Nat × Bool) := []
  /-- Track time of an island's last step down (R309). -/
  stepped : Tbl Nat := []
  powerCap : Nat := 4400
  /-- Power in W and island temperatures in °C, by island, as the sensors last read (R309). -/
  power : Nat := 0
  temps : Tbl Nat := []
  thermalStop : Bool := false
  /-- Events counted (R222, R228, R291, R294, R325). -/
  dropped : Nat := 0
  /-- The last quote given (R306). -/
  quote : List Byte := []
  /-- Key slots 0..15 of every memory core (R307): the number of the draw a key came from. -/
  keySlots : Tbl Nat := []
  draws : Nat := 0
  deriving DecidableEq, Repr

end Sys2Proof.Machine
end

