-- ==== Sys2Proof/Machine/State.lean ====
section
/-! DEFINITION. The state of a package (R13 to R25 and the chapters that name each part), the reasons a step can stop, and the
state right after reset. Plain data only: sparse tables where most entries are at their value after reset. -/

namespace Sys2Proof.Machine

/-- Where an uncorrectable error arises (R271): in an array of a core, in an accumulator element, in a dword of a
journal copy. -/
inductive Upset where
  | core (a : Agent) (m : ErrorMark)
  | accumulator (quad key : Nat)
  | journal (copyB : Bool) (dword : Nat)
  deriving DecidableEq, Repr

/-- What moves next (the model's own: one deterministic step at a time of many agents). -/
inductive Turn where
  /-- An event or an instruction of the table is performed; pick names the packet or request it concerns. -/
  | event (i : Instr) (pick : Nat := 0)
  /-- A core becomes the one that steps, and makes one step. -/
  | core (a : Agent)
  /-- The switch of a tile makes one step. -/
  | switch (tile : Nat)
  /-- Track time advances by ns nanoseconds. -/
  | time (ns : Nat)
  /-- The matrix block of a quad feeds n steps of queue entry idx (R158, R164). -/
  | feed (quad idx n : Nat)
  /-- Something of the package comes to hold an uncorrectable error (R271). -/
  | upset (u : Upset)
  /-- A message of another package arrives: for a member of a gang, or, with serial 0, for the supervisor core that `member` names as an
  agent address does (R351). -/
  | incoming (pkg serial member : Nat) (m : Message)
  /-- Data of a collective arrives from another package of the job, ahead of the rest of its contribution (R249, R297). -/
  | data (pkg ctx seq : Nat) (bytes : List Byte)
  /-- The package that a message goes to has no such agent and refuses it (R351). -/
  | refuse (i : Nat)
  /-- Another package reports whether a gang of the job runs there and is not parked (R252). -/
  | elsewhere (ctx : Nat) (b : Bool)
  /-- A member of a job hurdle on another package seals it (R267). -/
  | farSeal (serial : Nat)
  /-- A seal of the job is pending on another package; request says that a sealing baton has finished there (R268, R270). -/
  | farPending (ctx : Nat) (request : Bool)
  /-- The sensors are read: the package's power and its islands' temperatures (R309). -/
  | reading (power : Nat) (temps : List (Nat × Nat))
  /-- The host reads n bytes of a BAR (R287). -/
  | hostRead (bar off n : Nat)
  deriving DecidableEq, Repr

/-- The machine. -/
structure State where
  /-- The model's own: the core that steps while the agenda is empty. -/
  cur : Agent := .tile 0
  /-- The model's own: the turns to come. -/
  agenda : List Turn := []
  /-- The model's own: which packet or request in flight the event being performed concerns. -/
  pick : Nat := 0
  /-- The model's own: free values used so far. -/
  fresh : Nat := 0
  /-- This package's id (R25). -/
  ownPkg : Nat := 0
  /-- Track time in ns (R54). -/
  trackTime : Word := 0
  /-- Cores by agent number. -/
  cores : Tbl Core := []
  /-- Quads by quad index (R14). -/
  quads : Tbl Quad := []
  /-- Gangs by serial, placed or saved. -/
  gangs : Tbl Gang := []
  /-- Contexts by context id. -/
  contexts : Tbl Context := []
  /-- HBM by domain physical address, in canonical form. -/
  mem : List Host.Cell := []
  /-- Lap tags by sector (R258). -/
  lapTags : Tbl (BitVec 2) := []
  /-- Poisoned sectors (R275). -/
  poisoned : List Nat := []
  /-- Requests and answers in flight on the dynamic network and on Global Link. -/
  net : List Packet := []
  /-- ACQ requests at the homes, in arrival order (R199). -/
  acqQ : List AcqRequest := []
  /-- HWAIT waiters: member and record, in home order (R281). -/
  heatWaiters : List (Waiter × Nat) := []
  /-- Open heats by the domain physical address of their record (R282). -/
  heats : Tbl Heat := []
  starter : Starter := {}
  /-- Format windows 0..63 (R186). -/
  windows : Tbl Window := []
  /-- Incarnations of the packages of the domain (R217). -/
  incarnations : Tbl (BitVec 8) := []
  /-- Route masks by package id (R295). -/
  routes : Tbl (BitVec 24) := []
  collectives : List Collective := []
  inCopies : List InCopy := []
  /-- Host-bound writes of streams and released records, in order (R292). -/
  outQ : List OutTransfer := []
  /-- Writing streams issued so far on the package (R266, R292). -/
  writes : Nat := 0
  /-- Host memory as the device has written it (R293). -/
  hostMem : Tbl Byte := []
  /-- What the latest host read of a BAR has answered (R287). -/
  hostRead : List Byte := []
  /-- MSI-X vectors raised, latest last (R228, R287). -/
  msix : List Nat := []
  mgmt : Management := {}
  /-- What the supervisor has been told, latest last. -/
  notices : List SupNotice := []
  deriving DecidableEq, Repr

/-- Why the machine stops. -/
inductive Fault where
  /-- Raised by `step` when a switch is to issue a word that its decoder refuses. The load of an image refuses such a word
  (R63, R91), so no switch holds one unless the model was set up with it; safe, since nothing is claimed of what follows. -/
  | switchWord
  deriving DecidableEq, Repr

/-- Why a step has no meaning. -/
inductive Refusal where
  /-- Raised by an arm of `exec` for an instruction that has no meaning yet; safe, since it never answers a next state. -/
  | notModelled (mnemonic : String)
  deriving DecidableEq, Repr

/-- The package right after reset, before boot: every queue unbound, no gang, no context, caches and TLBs empty, memory with
nothing listed, every core off (R302); what the spec gives no value for is as the assumption log names it. -/
def State.reset : State := {}

end Sys2Proof.Machine
end

