-- ==== Sys2Proof/Machine/Table.lean ====
section
/-! DEFINITION. Sparse tables: lists of key and value pairs, keys rising strictly. What an unlisted key reads as is the
default handed to the operation. -/

namespace Sys2Proof.Machine

/-- The listed value of a key. -/
def tfind {α : Type} (t : Tbl α) (k : Nat) : Option α :=
  match t with
  | [] => none
  | (j, v) :: r => if j = k then some v else tfind r k

/-- The value of a key, d where it is not listed. -/
def tget {α : Type} (t : Tbl α) (d : α) (k : Nat) : α := (tfind t k).getD d

/-- List v under key k, replacing what stood there. -/
def tput {α : Type} (t : Tbl α) (k : Nat) (v : α) : Tbl α :=
  match t with
  | [] => [(k, v)]
  | (j, w) :: r => if k < j then (k, v) :: (j, w) :: r else if k = j then (k, v) :: r else (j, w) :: tput r k v

/-- List nothing under key k. -/
def tdel {α : Type} (t : Tbl α) (k : Nat) : Tbl α := t.filter fun e => e.1 != k

/-- Write v under key k in canonical form: an entry equal to the default d is not listed. -/
def tset {α : Type} [DecidableEq α] (t : Tbl α) (d : α) (k : Nat) (v : α) : Tbl α :=
  if v = d then tdel t k else tput t k v

/-- The canonical form: keys rise strictly and no entry equals the default. -/
def twf {α : Type} [DecidableEq α] (t : Tbl α) (d : α) : Bool :=
  match t with
  | [] => true
  | (j, v) :: r => decide (v ≠ d) && (r.all fun e => decide (j < e.1)) && twf r d

/-- Write a run of values from key k upward. -/
def tsetList {α : Type} [DecidableEq α] (t : Tbl α) (d : α) (k : Nat) (vs : List α) : Tbl α :=
  match vs with
  | [] => t
  | v :: r => tsetList (tset t d k v) d (k + 1) r

/-- Read a run of n values from key k upward. -/
def tgetList {α : Type} (t : Tbl α) (d : α) (k n : Nat) : List α := (List.range n).map fun i => tget t d (k + i)

/-- The first key from lo below lo + n at which p holds, counting upward. -/
def firstFrom (p : Nat → Bool) (lo n : Nat) : Option Nat :=
  match n with
  | 0 => none
  | n + 1 => if p lo then some lo else firstFrom p (lo + 1) n

/-- Insert a number into a rising list, once. -/
def insertNat (x : Nat) (l : List Nat) : List Nat :=
  match l with
  | [] => [x]
  | y :: r => if x < y then x :: y :: r else if x = y then y :: r else y :: insertNat x r

/-- The numbers of a list, rising, each once. -/
def sortNat (l : List Nat) : List Nat := l.foldr insertNat []

/-- Set entry i of a list to v. -/
def lset {α : Type} (l : List α) (i : Nat) (v : α) : List α := l.set i v

/-! ### Bytes and words (R4: little-endian) -/

/-- The value of a byte string, first byte lowest. -/
def ofBytes (bs : List Byte) : Nat :=
  match bs with
  | [] => 0
  | b :: r => b.toNat + 256 * ofBytes r

/-- The n low bytes of a value, lowest first. -/
def toBytes (n v : Nat) : List Byte :=
  match n with
  | 0 => []
  | n + 1 => BitVec.ofNat 8 v :: toBytes n (v / 256)

/-- Bits lo .. lo + n − 1 of a value. -/
def bits (v lo n : Nat) : Nat := v / 2 ^ lo % 2 ^ n

/-- Bit i of a value. -/
def bitAt (v i : Nat) : Bool := v / 2 ^ i % 2 == 1

/-- The low n bits of a value as a two's complement number. -/
def sgn (n v : Nat) : Int :=
  let m := v % 2 ^ n
  if m < 2 ^ (n - 1) then (m : Int) else (m : Int) - (2 ^ n : Int)

/-- An integer modulo 2^n. -/
def wrap (n : Nat) (v : Int) : Nat := (v % (2 ^ n : Int)).toNat

end Sys2Proof.Machine
end

