-- ==== Sys2Proof/Machine/Agents.lean ====
section
/-! DEFINITION. Where the agents sit and how they are numbered (R13 to R17, R23, R74, R121, R167, R304). -/

namespace Sys2Proof.Machine

/-- The number of an agent in the state's tables: one number per agent. -/
def agentCode (a : Agent) : Nat :=
  match a with
  | .tile n => 8 * n
  | .mem k => 8 * k + 1
  | .svc t => 8 * t + 2
  | .starter i => 8 * i + 3
  | .boot => 4

/-- The agent that a number names. -/
def agentOf (c : Nat) : Agent :=
  match c % 8 with
  | 0 => .tile (c / 8)
  | 1 => .mem (c / 8)
  | 2 => .svc (c / 8)
  | 3 => .starter (c / 8)
  | _ => .boot

/-- The kind of core an agent is (R23, R56). -/
def agentKind (a : Agent) : CoreKind :=
  match a with
  | .tile _ => .tile
  | .mem _ => .mem
  | .svc _ => .supervisor
  | .starter _ => .supervisor
  | .boot => .supervisor

/-- The package has the agent (R21, R23). -/
def agentExists (a : Agent) : Bool :=
  match a with
  | .tile n => decide (n < 2048)
  | .mem k => decide (k < 384)
  | .svc t => decide (t < 8)
  | .starter i => decide (i < 2)
  | .boot => true

/-- Lane of a tile (R14). -/
def tileLane (n : Nat) : Nat := n / 64
/-- Row of a tile (R13). -/
def tileRow (n : Nat) : Nat := n % 32
/-- Column of a tile (R13). -/
def tileCol (n : Nat) : Nat := 2 * (n / 64) + n % 64 / 32
/-- The tile at column c, row r. -/
def tileAt (c r : Nat) : Nat := 64 * (c / 2) + 32 * (c % 2) + r
/-- Quad of a tile (R14). -/
def tileQuad (n : Nat) : Nat := tileRow n / 2 * 32 + tileLane n
/-- Tile in quad (R167). -/
def tileInQuad (n : Nat) : Nat := tileCol n % 2 + 2 * (tileRow n % 2)
/-- The tile of a quad with this tile in quad. -/
def quadTile (q t : Nat) : Nat := tileAt (2 * (q % 32) + t % 2) (2 * (q / 32) + t / 2 % 2)
/-- Compute island of a tile (R14). -/
def tileIsland (n : Nat) : Nat := tileRow n / 4 * 8 + tileCol n / 8

/-- Lane of a memory core (R17). -/
def memLane (k : Nat) : Nat := k % 192 / 6
/-- Column of a memory core's edge port (R16). -/
def memCol (k : Nat) : Nat := k % 192 / 3
/-- South edge (R16). -/
def memSouth (k : Nat) : Bool := decide (192 ≤ k)
/-- Select of a memory core behind its port (R16). -/
def memSelect (k : Nat) : Nat := k % 3
/-- The memory core behind a port (R16). -/
def memAt (south : Bool) (column select : Nat) : Nat := (if south then 192 else 0) + 3 * column + select
/-- Offset of a memory core within a gang whose first lane is f (R74). -/
def memOffset (f k : Nat) : Nat := 12 * (memLane k - f) + (if memSouth k then 6 else 0) + k % 192 % 6
/-- The memory core at an offset of a gang whose first lane is f (R17, R74). -/
def memOfOffset (f o : Nat) : Nat := (if o % 12 / 6 = 1 then 192 else 0) + 6 * (f + o / 12) + o % 6

/-- The lane of a core of the fabric (R14, R212). -/
def agentLane (a : Agent) : Nat :=
  match a with
  | .tile n => tileLane n
  | .mem k => memLane k
  | _ => 0

/-- The tile that tile n's link output in direction o reaches (0 N, 1 E, 2 S, 3 W); none at the fabric's edge. -/
def neighbour (n o : Nat) : Option Nat :=
  let c := tileCol n; let r := tileRow n
  match o with
  | 0 => if r = 0 then none else some (tileAt c (r - 1))
  | 1 => if c = 63 then none else some (tileAt (c + 1) r)
  | 2 => if r = 31 then none else some (tileAt c (r + 1))
  | _ => if c = 0 then none else some (tileAt (c - 1) r)

/-- The direction a word sent in direction o arrives from. -/
def opposite (o : Nat) : Nat := (o + 2) % 4

/-- The agents of W lanes from lane f: tiles in gang tile index order, then memory cores in offset order (R17). -/
def laneAgents (f w : Nat) : List Agent :=
  (List.range (64 * w)).map (fun i => .tile (64 * f + i)) ++ (List.range (12 * w)).map (fun o => .mem (memOfOffset f o))

/-- Member number of R247 and R253: gang tile index, or 0x800 + memory-core offset. -/
def memberOf (f : Nat) (a : Agent) : Nat :=
  match a with
  | .tile n => n - 64 * f
  | .mem k => 0x800 + memOffset f k
  | _ => 0

/-- The agent of a member number. -/
def memberAgent (f m : Nat) : Agent := if m < 0x800 then .tile (64 * f + m) else .mem (memOfOffset f (m - 0x800))

/-- The quads of W lanes from lane f, in gang quad order (R243). -/
def laneQuads (f w : Nat) : List Nat := (List.range (16 * w)).map fun i => i % 16 * 32 + (f + i / 16)

/-- The channel's memory core of a local physical address (R19, R20). -/
def homeOf (addr : Nat) : Nat := (if bitAt addr 47 then 192 else 0) + bits addr 9 38 % 192

end Sys2Proof.Machine
end

