-- ==== Sys2Proof/Machine/Ops.lean ====
section
/-! DEFINITION. The named operations over a core: registers and ports, results in flight, completing an instruction, freezing,
taking a cause and returning from a handler (R48 to R53, R93 to R111, R237 to R241, R274). -/

namespace Sys2Proof.Machine

/-- The outcome of a step. -/
abbrev Out := Host.Outcome State Fault Refusal

/-- The core of an agent. -/
def coreOf (s : State) (a : Agent) : Core := tget s.cores {} (agentCode a)

/-- Write the core of an agent. -/
def setCore (s : State) (a : Agent) (c : Core) : State := { s with cores := tput s.cores (agentCode a) c }

/-- The gang of a core. -/
def gangOf (s : State) (c : Core) : Option Gang := c.gang.bind fun g => tfind s.gangs g

/-- The context a core works for: that of its gang; none on a core without a gang. -/
def ctxOf (s : State) (c : Core) : Option Nat := (gangOf s c).map fun g => g.ctx

/-- A context's record. -/
def contextOf (s : State) (x : Nat) : Context := tget s.contexts {} x

/-- A context's gangs may run: it is in the running set (R225) and its job has not been stopped (R256). -/
def contextRuns (s : State) (x : Nat) : Bool := (contextOf s x).running && (contextOf s x).stopped.isNone

/-- Write a context's record. -/
def setContext (s : State) (x : Nat) (c : Context) : State := { s with contexts := tput s.contexts x c }

/-- Write a gang's record. -/
def setGang (s : State) (serial : Nat) (g : Gang) : State := { s with gangs := tput s.gangs serial g }

/-- Put turns before everything else on the agenda. -/
def urgent (s : State) (ts : List Turn) : State := { s with agenda := ts ++ s.agenda }

/-- Tell the supervisor. -/
def notify (s : State) (n : SupNotice) : State := { s with notices := s.notices ++ [n] }

/-! ### Error injection (R321) -/

/-- err_inject is armed for this kind of event. -/
def injectArmed (c : Core) (kind : Nat) : Bool := c.errInject.getLsbD 0 && (c.errInject.extractLsb' 1 2).toNat == kind

/-- A matching event passes err_inject: whether its data is marked uncorrectable, and the register after it (R321). -/
def injectEvent (c : Core) (kind : Nat) : Bool × Core :=
  if injectArmed c kind then
    if c.errInject.extractLsb' 8 8 = 0#8 then (true, { c with errInject := c.errInject &&& ~~~1#64 })
    else (false, { c with errInject := c.errInject - 256#64 })
  else (false, c)

/-- A boundary cause becomes due at a core (R237). -/
def addPend (c : Core) (t : Trap) : Core := { c with pend := c.pend ++ [t] }

/-- The identification of a core inbound FIFO in trap_addr: direction, plane, bit 62 (R321). -/
def fifoIdent (dir : Nat) (planeB : Bool) : Word := BitVec.ofNat 64 (dir + (if planeB then 4 else 0)) ||| (1#64 <<< 62)

/-- The marks of a FIFO whose head is popped: whether the popped word held an error, and what is left of them. -/
def popMark (c : Core) (planeB : Bool) (i : Nat) : Bool × Core :=
  if c.marks = [] then (false, c)
  else (c.marks.contains (.fifo planeB i 0), { c with marks := c.marks.filterMap fun m => match m with
    | .fifo b j p => if b == planeB && j == i then (if p = 0 then none else some (.fifo b j (p - 1))) else some m
    | _ => some m })

/-- The marks of a FIFO to whose head a word returns. -/
def pushMark (c : Core) (planeB : Bool) (i : Nat) : Core :=
  if c.marks = [] then c
  else { c with marks := c.marks.map fun m => match m with
    | .fifo b j p => if b == planeB && j == i then .fifo b j (p + 1) else m
    | _ => m }

/-- A mark of an instruction memory, which belongs to the place and not to the gang. -/
def ErrorMark.inCode (m : ErrorMark) : Bool :=
  match m with
  | .code _ | .swcode _ => true
  | _ => false

/-- A mark of a byte of scratch. -/
def ErrorMark.inScratch (m : ErrorMark) : Bool :=
  match m with
  | .scratch _ => true
  | _ => false

/-- The FIFOs of a core hold nothing any more. -/
def dropFifos (c : Core) : Core :=
  { c with fifoA := [], fifoB := [], stirred := true, marks := c.marks.filter fun m => m.inCode || m.inScratch }

/-- A word popped from a core inbound FIFO: an error in it is consumed, and it passes err_inject, kind 2 (R123, R321). -/
def popEvent (c : Core) (dir : Nat) (planeB : Bool) : Core :=
  match popMark c planeB dir with
  | (bad, c1) =>
    match injectEvent c1 2 with
    | (inj, c2) => if bad || inj then addPend c2 { cause := .ue, addr := fifoIdent dir planeB } else c2

/-! ### Registers and ports (R48 to R53) -/

/-- An SN-A FIFO of a tile (R245). -/
def fifoA (c : Core) (i : Nat) : List Word := tget c.fifoA [] i
/-- An SN-B FIFO of a tile (R245). -/
def fifoB (c : Core) (i : Nat) : List VWord := tget c.fifoB [] i
/-- Write an SN-A FIFO. -/
def setFifoA (c : Core) (i : Nat) (l : List Word) : Core := { c with fifoA := tset c.fifoA [] i l, stirred := true }
/-- Write an SN-B FIFO. -/
def setFifoB (c : Core) (i : Nat) (l : List VWord) : Core := { c with fifoB := tset c.fifoB [] i l, stirred := true }

/-- The direction of a port register: 0 N, 1 E, 2 S, 3 W (R48). -/
def portDir (r : Reg) : Nat := r.toNat - 28

/-- Port registers exist on tile cores only (R56). -/
def isPort (k : CoreKind) (r : Reg) : Bool := k == .tile && portField r

/-- Take the next word of inbound FIFO dir, SN-A: the word popped already by the instruction in progress, or a pop now (R51). -/
def pullA (c : Core) (dir : Nat) : Except Wait (Word × Core) :=
  match c.pulled with
  | (f, w) :: r => .ok (w.setWidth 64, { c with pulled := r, taken := c.taken ++ [(f, w)] })
  | [] =>
    match fifoA c dir with
    | [] => .error (.pop (28 + dir) false)
    | w :: r =>
      .ok (w, popEvent { setFifoA c dir r with taken := c.taken ++ [(dir, w.setWidth 1024)] } dir false)

/-- Take the next word of inbound FIFO dir, SN-B (R51). -/
def pullB (c : Core) (dir : Nat) : Except Wait (VWord × Core) :=
  match c.pulled with
  | (f, w) :: r => .ok (w, { c with pulled := r, taken := c.taken ++ [(f, w)] })
  | [] =>
    match fifoB c dir with
    | [] => .error (.pop (28 + dir) true)
    | w :: r => .ok (w, popEvent { setFifoB c dir r with taken := c.taken ++ [(4 + dir, w)] } dir true)

/-- Return popped words to the heads of their FIFOs in their original order (R51). -/
def unpull (c : Core) (ws : List (Nat × VWord)) : Core :=
  match ws with
  | [] => c
  | (f, w) :: r =>
    let c' := pushMark (unpull c r) (decide (4 ≤ f)) (f % 4)
    if f < 4 then setFifoA c' f (w.setWidth 64 :: fifoA c' f) else setFifoB c' (f - 4) (w :: fifoB c' (f - 4))

/-- Read a scalar source (R48, R51). -/
def readX (k : CoreKind) (c : Core) (r : Reg) : Except Wait (Word × Core) :=
  if isPort k r then pullA c (portDir r)
  else if r = 0#5 then .ok (0#64, c)
  else .ok (c.x[r.toNat], c)

/-- Read a vector source (R48, R51). -/
def readV (k : CoreKind) (c : Core) (r : Reg) : Except Wait (VWord × Core) :=
  if isPort k r then pullB c (portDir r) else .ok (c.v[r.toNat], c)

/-- Read a predicate: p0 reads as all ones (R48). -/
def readP (c : Core) (p : PReg) : PWord := if p = 0#3 then BitVec.allOnes 128 else c.p[p.toNat]

/-- Put a scalar value into register r: x0 discards it (R48). -/
def putX (c : Core) (r : Nat) (v : Word) : Core := if r = 0 then c else { c with x := c.x.setIfInBounds r v }

/-- Put a predicate value: p0 discards it (R48). -/
def putP (c : Core) (r : Nat) (v : PWord) : Core := if r = 0 then c else { c with p := c.p.setIfInBounds r v }

/-- Push a word into the SN-A outbound FIFO of a direction; none when it is full (R50, R52). -/
def pushA (c : Core) (dir : Nat) (v : Word) : Option Core :=
  if (fifoA c (4 + dir)).length < 4 then some (setFifoA c (4 + dir) (fifoA c (4 + dir) ++ [v])) else none

/-- Push a word into the SN-B outbound FIFO of a direction; none when it is full (R50, R52). -/
def pushB (c : Core) (dir : Nat) (v : VWord) : Option Core :=
  if (fifoB c (4 + dir)).length < 4 then some (setFifoB c (4 + dir) (fifoB c (4 + dir) ++ [v])) else none

/-- Write a scalar result: to a register, or as a push into an outbound FIFO with room (R48, R52). -/
def writeX (k : CoreKind) (c : Core) (r : Reg) (v : Word) : Except Wait Core :=
  if isPort k r then
    match pushA c (portDir r) v with
    | some c' => .ok c'
    | none => .error (.push r.toNat)
  else .ok (putX c r.toNat v)

/-! ### Interlocks (R93, R94, R98) -/

/-- A multi-cycle scalar result for the register is pending (R94). -/
def scalarBusy (c : Core) (r : Reg) : Bool := r != 0#5 && c.scalars.any fun e => e.reg == r

/-- A vector-unit result bound for the scalar register is in flight (R98). -/
def landBusy (c : Core) (r : Reg) : Bool := r != 0#5 && c.inflight.any fun l => l.kind == .x && l.reg == r.toNat

/-! ### What an instruction comes to -/

/-- How the issue of an instruction comes out at its core. -/
inductive Res where
  /-- It completes and falls through. -/
  | done (c : Core)
  /-- It completes and goes on at pc, with no branch bit for the checker (LOOP with count 0, TRET). -/
  | goto (c : Core) (pc : BitVec 14)
  /-- A branch, jump or JTAB completes; taken says whether control transferred (R274). -/
  | jump (c : Core) (pc : BitVec 14) (taken : Bool)
  /-- It has not issued, or has no effect until its wait ends: tried again later (R102). -/
  | freeze (w : Wait)
  /-- Nothing issues in this tc, which passes (R93, R94, R98, R241, R358): the core waits for the wait named, or for nothing that R434
  would let end before a cause is taken. -/
  | hold (w : Wait := .scalar)
  /-- It has begun and is tried again later. -/
  | poll (c : Core) (w : Wait)
  /-- It has begun and waits for an answer. -/
  | block (c : Core) (w : Wait)
  /-- It raises a precise cause. -/
  | trap (t : Trap)

/-- A precise cause with an address. -/
def raise (c : Cause) (addr : Word := 0) : Res := .trap { cause := c, addr := addr }

/-- Issue only when no scalar register it reads or writes is pending (R93, R94, R98): a port named as a source is no pending
result, a port named as a destination keeps the order of its pushes (R52). Until the result is written the tc pass and results
land: a latency counts unfrozen tc only (R6), and the reader issues in the first unfrozen tc in which nothing it names is
pending (R93). -/
def interlock (k : CoreKind) (c : Core) (reads dests : List Reg) (r : Res) : Res :=
  let rs := reads.filter fun x => !isPort k x
  let ds := dests.filter fun x => !isPort k x
  if (rs ++ dests).any (scalarBusy c) || (rs ++ ds).any (landBusy c) then .hold else r

/-- Go on with the value of a scalar source. -/
def withX (k : CoreKind) (c : Core) (a : Reg) (f : Word → Core → Res) : Res :=
  match readX k c a with
  | .ok (x, c') => f x c'
  | .error w => .freeze w

/-- Go on with the value of a vector source. -/
def withV (k : CoreKind) (c : Core) (a : Reg) (f : VWord → Core → Res) : Res :=
  match readV k c a with
  | .ok (x, c') => f x c'
  | .error w => .freeze w

/-- Complete with a scalar result. -/
def doneX (k : CoreKind) (c : Core) (d : Reg) (v : Word) : Res :=
  match writeX k c d v with
  | .ok c' => .done c'
  | .error w => .freeze w

/-! ### The signature checker (R274) -/

/-- Feed one bit. -/
def crcBit (c : BitVec 16) (x : Bool) : BitVec 16 :=
  if (c.getLsbD 15 ^^ x) then (c <<< 1) ^^^ 0x1021#16 else c <<< 1

/-- Feed bits of a word from bit lo, n of them, lowest first. -/
def crcBits (c : BitVec 16) (w : IWord) (lo n : Nat) : BitVec 16 :=
  match n with
  | 0 => c
  | n + 1 => crcBits (crcBit c (w.getLsbD lo)) w (lo + 1) n

/-- The checker feeds: sig_ctl bit 0 set and no handler (R274). -/
def checking (c : Core) : Bool := c.sigCtl && !c.inHandler

/-- The instruction word at a core's pc in the executing slot. -/
def wordAt (c : Core) (pc : BitVec 14) : IWord := tget c.code 0#32 (c.slot.toNat * 4096 + pc.toNat / 4)

/-- The instruction word at the pc holds an uncorrectable error (R235, R271). -/
def codeMarked (c : Core) : Bool := c.marks.contains (.code (c.slot.toNat * 4096 + c.pc.toNat / 4))

/-- The switch word at the spc holds an uncorrectable error (R123). -/
def swcodeMarked (c : Core) : Bool := c.marks.contains (.swcode (c.slot.toNat * 1024 + c.spc.toNat))

/-- The word of TRET (R241). -/
def tretWord : IWord := 0x0100001B#32

/-- An instruction other than SIG has completed: its word's bits 6..20 are fed. TRET feeds nothing: it completes in the handler, and
the checker resumes exactly as it was held (R416). -/
def feedWord (c : Core) (w : IWord) : Core :=
  if checking c && fMajor w != 0x1E#6 && w != tretWord then { c with checker := { c.checker with crc := crcBits c.checker.crc w 6 15 } } else c

/-- Feed the bit that says whether control transferred. -/
def feedBranch (c : Core) (taken : Bool) : Core :=
  if checking c then { c with checker := { c.checker with crc := crcBit c.checker.crc taken } } else c

/-! ### Hardware loops (R105 to R107) -/

/-- The pc stands at the end address of an armed slot, and evaluation is not suspended by a handler (R106, R239). -/
def atLoopEnd (c : Core) (pc : BitVec 14) : Bool :=
  !c.inHandler && ((c.loop0.armed && c.loop0.fin == pc) || (c.loop1.armed && c.loop1.fin == pc))

/-- The pc stands at the end address of an armed slot, handler or not (R107). -/
def armedEnd (c : Core) (pc : BitVec 14) : Bool := (c.loop0.armed && c.loop0.fin == pc) || (c.loop1.armed && c.loop1.fin == pc)

/-- One slot ends at the address: its count falls by 1, and it returns to its start or disarms. -/
def evalOne (l : LoopSlot) (next : BitVec 14) : LoopSlot × BitVec 14 × Bool :=
  let n := l.count - 1#32
  if n != 0#32 then ({ l with count := n }, l.start, true) else ({ l with count := n, armed := false }, next, false)

/-- The evaluation of R106 at end address e. -/
def evalLoops (c : Core) (e : BitVec 14) : Core :=
  let h0 := c.loop0.armed && c.loop0.fin == e
  let h1 := c.loop1.armed && c.loop1.fin == e
  if h0 && h1 then
    let n1 := c.loop1.count - 1#32
    if n1 != 0#32 then feedBranch { c with loop1 := { c.loop1 with count := n1 }, pc := c.loop1.start } true
    else
      let c' := { c with loop1 := { c.loop1 with count := c.loop1.initial } }
      let n0 := c.loop0.count - 1#32
      if n0 != 0#32 then feedBranch { c' with loop0 := { c.loop0 with count := n0 }, pc := c.loop0.start } true
      else
        feedBranch
          { c' with loop0 := { c.loop0 with count := n0, armed := false }, loop1 := { c'.loop1 with armed := false },
                    pc := e + 4#14 } false
  else if h0 then
    match evalOne c.loop0 (e + 4#14) with
    | (l, p, t) => feedBranch { c with loop0 := l, pc := p } t
  else if h1 then
    match evalOne c.loop1 (e + 4#14) with
    | (l, p, t) => feedBranch { c with loop1 := l, pc := p } t
  else c

/-- Make a pending evaluation. -/
def settleLoop (c : Core) : Core :=
  match c.evalAt with
  | some e => evalLoops { c with evalAt := none } e
  | none => c

/-! ### Completing an instruction -/

/-- The core has nothing of an instruction in progress left. -/
def clearIssue (c : Core) : Core := { c with wait := .none, blocked := false, pulled := [], taken := [], replies := [] }

/-- The core as one that has not issued: its pops are returned and nothing is outstanding. -/
def unissued (c : Core) : Core := clearIssue (unpull c c.pulled)

/-- An instruction completes and falls through: the checker is fed, an armed loop end is noted, the tc ends. -/
def retire (c : Core) : Core :=
  let pc := c.pc
  { feedWord (clearIssue c) (wordAt c pc) with
    pc := pc + 4#14, landing := true, evalAt := if atLoopEnd c pc then some pc else none }

/-- An instruction completes and goes on at another pc. -/
def retireTo (c : Core) (pc : BitVec 14) : Core :=
  { feedWord (clearIssue c) (wordAt c c.pc) with pc := pc, landing := true, evalAt := none }

/-! ### Results in flight (R95 to R99, R104, R109 to R111) -/

/-- Land one result; none when it is a push into a full FIFO (R97, R99). -/
def land (k : CoreKind) (c : Core) (l : Landing) : Option Core :=
  match l.kind with
  | .p => some (putP c l.reg (l.value.setWidth 128))
  | .x =>
    if k == .tile && decide (28 ≤ l.reg) then pushA c (l.reg - 28) (l.value.setWidth 64)
    else some (putX c l.reg (l.value.setWidth 64))
  | .v =>
    if k == .tile && decide (28 ≤ l.reg) then pushB c (l.reg - 28) (l.value &&& l.mask)
    else
      let old := (c.v[l.reg]?).getD 0
      some { c with v := c.v.setIfInBounds l.reg ((old &&& ~~~l.mask) ||| (l.value &&& l.mask)) }

/-- Land results in order; none when one of them is held by a full FIFO. -/
def landList (k : CoreKind) (c : Core) (ls : List Landing) : Option Core :=
  match ls with
  | [] => some c
  | l :: r => (land k c l).bind fun c' => landList k c' r

/-- Land what can land; the pushes that a full FIFO holds are answered in order (R434). -/
def landSome (k : CoreKind) (c : Core) (ls : List Landing) : Core × List Landing :=
  match ls with
  | [] => (c, [])
  | l :: r =>
    match land k c l with
    | some c' => landSome k c' r
    | none =>
      match landSome k c r with
      | (c', held) => (c', l :: held)

/-- A multi-cycle scalar result as a landing: it writes its register, or is pushed into its port (R52, R94). -/
def scalarLanding (e : ScalarPending) : Landing :=
  { kind := .x, reg := e.reg.toNat, remaining := e.remaining, enable := BitVec.allOnes 128, mask := BitVec.allOnes 1024,
    value := e.value.setWidth 1024, age := e.age }

/-- A tc of a result in flight. -/
def Landing.tick (l : Landing) : Landing := { l with remaining := l.remaining - 1, age := l.age + 1 }

/-- A tc of a multi-cycle scalar result. -/
def ScalarPending.tick (e : ScalarPending) : ScalarPending := { e with remaining := e.remaining - 1, age := e.age + 1 }

/-- Put a result among results in issue order, oldest first: one instruction issues in a tc, so no two are of one age. -/
def byAge (l : Landing) (ls : List Landing) : List Landing :=
  match ls with
  | [] => [l]
  | m :: r => if m.age < l.age then l :: m :: r else m :: byAge l r

/-- What is due among results and multi-cycle scalar results whose counts have fallen, in issue order. -/
def dueLandings (fl : List Landing) (sc : List ScalarPending) : List Landing :=
  ((sc.filter fun e => e.remaining == 0).map scalarLanding).foldl (fun ls l => byAge l ls) (fl.filter fun l => l.remaining == 0)

/-- The landings of a tc: every count falls by 1, what is due lands in issue order, multi-cycle scalar results with it, cycle
counts. None when a push finds its FIFO full: the tc does not happen (R104). -/
def landTc (k : CoreKind) (c : Core) : Option Core :=
  let fl := c.inflight.map Landing.tick
  let sc := c.scalars.map ScalarPending.tick
  (landList k c (dueLandings fl sc)).map fun c1 =>
    { c1 with inflight := fl.filter (fun l => l.remaining != 0), scalars := sc.filter (fun e => e.remaining != 0),
              cycle := c1.cycle + 1#64, landing := decide (0 < c1.busy), busy := c1.busy - 1, wait := if c1.wait = .scalar then .scalar else .none }

/-- The landings of a tc in which a cause is taken while a full FIFO holds a push: the held pushes stay with remaining 0, in
their place in issue order, and everything else due lands (R434). The tc itself has not happened: cycle does not count. -/
def landTcHeld (k : CoreKind) (c : Core) : Core :=
  let fl := c.inflight.map Landing.tick
  let sc := c.scalars.map ScalarPending.tick
  match landSome k c (dueLandings fl sc) with
  | (c1, held) =>
    { c1 with inflight := held.foldl (fun ls l => byAge l ls) (fl.filter fun l => l.remaining != 0),
              scalars := sc.filter (fun e => e.remaining != 0), landing := false, busy := 0 }

/-- The landings of the n tc before a core's boundary; those of a tc that a full FIFO holds are made as R434 says. -/
def landTcs (k : CoreKind) (c : Core) (n : Nat) : Core :=
  match n with
  | 0 => c
  | n + 1 => landTcs k ((landTc k c).getD (landTcHeld k c)) n

/-- The multi-cycle scalar results of a core that is saved, all at once: they are written, and a push that a full FIFO holds
becomes a landing with remaining 0 in its place in issue order. -/
def settleScalars (k : CoreKind) (c : Core) : Core :=
  match landSome k { c with scalars := [] } (c.scalars.map fun e => { scalarLanding e with remaining := 0 }) with
  | (d, held) => { d with inflight := held.foldl (fun ls l => byAge l ls) d.inflight }

/-- A core that goes on in tc T with results held over: what a full FIFO held at its boundary is due in T itself (R104, R248). -/
def resumedCore (c : Core) : Core :=
  if c.inflight.any fun l => l.remaining == 0 then
    { c with landing := true, inflight := c.inflight.map (fun l => { l with remaining := l.remaining + 1 }),
             scalars := c.scalars.map fun e => { e with remaining := e.remaining + 1 } }
  else c

/-- Put a vector-unit result in flight: it lands L unfrozen tc after its issue (R95). -/
def launchResult (c : Core) (l : Landing) : Core := { c with inflight := c.inflight ++ [l] }

/-! ### Taking a cause and returning (R237 to R241, R434) -/

/-- Who takes a cause (R237). -/
def takerOf (t : Trap) : Taker :=
  match t.cause with
  | .ue | .sigFault => .lap
  | .undoQuota | .stageQuota => .supervisor
  | .remoteLost => if t.deferred then .lap else .handler
  | _ => .handler

/-- The trap registers as a cause leaves them (R239). -/
def trapRegs (c : Core) (t : Trap) : Core :=
  { c with trapCause := t.cause.code.setWidth 64, trapPc := c.pc.setWidth 64, trapAddr := t.addr,
           sub := t.sub, posted := t.posted, bySwitch := t.switch }

/-- The core at a boundary: the landings of a tc whose push a full FIFO holds are made as R434 says, popped words go back to
their FIFOs, nothing of the instruction is in progress. -/
def atBoundary (k : CoreKind) (c : Core) : Core :=
  let c1 := settleLoop c
  let c2 := if c1.landing then landTcs k c1 (c1.busy + 1) else c1
  clearIssue (unpull c2 c2.pulled)

/-- A pc from a register that holds a byte offset: its bits 2..13, times 4 (R239, R241). -/
def pcOf (w : Word) : BitVec 14 := w.extractLsb' 2 12 ++ 0#2

/-- Entry into the program's handler (R239). -/
def enterHandler (k : CoreKind) (c : Core) (t : Trap) : Core :=
  let b := atBoundary k c
  { trapRegs b t with
    inHandler := true, records := b.inflight, inflight := [],
    heldChecker := b.checker, checker := { crc := 0xFFFF#16, armed := false, expected := b.checker.expected },
    undoRaised := if t.cause = .undoFull then false else b.undoRaised,
    undoInHandler := if t.cause = .undoFull then true else b.undoInHandler,
    pc := pcOf b.trapVec, landing := true }

/-- The return from a handler (R241, R111): the records go back in flight, due relative to the tc after TRET. -/
def leaveHandler (c : Core) : Core :=
  { c with inHandler := false, records := [],
           inflight := c.inflight ++ c.records.map (fun l => { l with remaining := l.remaining + 1 }),
           checker := c.heldChecker, undoInHandler := false }

/-- A class-S cause freezes the core at its boundary (R239). -/
def freezeForSupervisor (k : CoreKind) (c : Core) (t : Trap) : Core :=
  { trapRegs (atBoundary k c) t with mode := .sFreeze, wait := .none }

/-- The events that stop a job: every gang of the context is saved as at pre-emption (R256). -/
def stopEvents (s : State) (ctx : Nat) : List Turn :=
  (s.gangs.filter fun g => g.2.ctx == ctx && g.2.state != .saved).map fun g => .event (.preempt g.1)

/-- A job stops: its gangs are saved and the supervisor is told the cause (R256). The context stays in the running set, which only
the supervisor and the time-triggered table change (R225); none of its gangs is placed or restored while the job is stopped. -/
def stopJob (s : State) (ctx : Nat) (c : Cause) : State :=
  if (contextOf s ctx).stopped.isSome then s
  else urgent (notify (setContext s ctx { contextOf s ctx with stopped := some c }) (.jobStopped ctx c))
    (stopEvents s ctx)

/-- A rollback trigger at a context: a rollback when it runs laps, otherwise its job stops (R239, R256, R271). A trigger while a rollback
waits for the supervisor's bytes restarts it, which counts (R273). -/
def lapTrigger (s : State) (ctx : Nat) (c : Cause) : State :=
  let x := contextOf s ctx
  if x.laps then
    urgent (setContext s ctx { x with trigger := some c, rollbacks := if x.awaiting then x.rollbacks + 1 else x.rollbacks })
      [.event (.rollback ctx)]
  else stopJob s ctx c

/-- Every cause. -/
def allCauses : List Cause :=
  [.illegal, .priv, .align, .page, .perm, .cid, .boundary, .lease, .refused, .remoteLost, .ue, .sigFault, .undoFull, .undoQuota,
   .stageQuota, .deadlock, .heatState, .overlap, .loadFail, .jtab, .brk]

/-- The cause that the trap registers of a core in its handler hold (R240). -/
def firstCause (c : Core) : Trap :=
  { cause := (allCauses.find? fun x => x.code == c.trapCause.setWidth 8).getD .illegal, addr := c.trapAddr, sub := c.sub,
    posted := c.posted, switch := c.bySwitch }

/-- What a double fault does: the gang is stopped and saved, and the supervisor gets both causes (R240). -/
def doubleFault (s : State) (a : Agent) (t : Trap) : State :=
  let c := coreOf s a
  let s1 := notify (setCore s a (clearIssue (unpull c c.pulled))) (.doubleFault (agentCode a) (firstCause c) t)
  match c.gang with
  | some g => urgent s1 [.event (.preempt g)]
  | none => setCore s1 a { c with mode := .stopped }

/-- A cause of class L at an agent: a Starter core is held in reset, and the error of the active one starts the take-over (R235); at a core of
a gang it is the context's trigger; the trap registers say what it was (R321). -/
def lapCause (s : State) (a : Agent) (t : Trap) : State :=
  let c := coreOf s a
  let s1 := setCore s a (trapRegs (clearIssue (unpull c c.pulled)) t)
  match a, ctxOf s c with
  | .starter i, _ =>
    let s2 := setCore s1 a { coreOf s1 a with mode := .off }
    if i = s.starter.active then urgent s2 [.event .starterTakeover]
    else { s2 with starter := { s2.starter with standbyOk := false } }
  | _, some x => lapTrigger s1 x t.cause
  | _, none => setCore s1 a { coreOf s1 a with mode := .stopped }

/-- Taking a cause at a core's boundary (R239, R240). -/
def takeCause (s : State) (a : Agent) (t : Trap) : State :=
  let c := coreOf s a
  match takerOf t with
  | .handler =>
    if c.inHandler then doubleFault s a t else setCore s a (enterHandler (agentKind a) c t)
  | .supervisor =>
    notify (setCore s a (freezeForSupervisor (agentKind a) c t)) (.frozen (agentCode a) t)
  | .lap => lapCause s a t

/-! ### Running a meaning -/

/-- A precise DEADLOCK carries a notice with the gang serial (R237). -/
def withNotice (s : State) (a : Agent) (t : Trap) : State :=
  match t.cause, (coreOf s a).gang with
  | .deadlock, some serial => notify s (.deadlock serial)
  | _, _ => s

/-- What the step comes to: s0 is the state before, s1 the state with the instruction's effects outside the core. -/
def settle (s0 s1 : State) (a : Agent) (r : Res) : State :=
  match r with
  | .done c => setCore s1 a (retire c)
  | .goto c pc => setCore s1 a (retireTo c pc)
  | .jump c pc taken => setCore s1 a (feedBranch (retireTo c pc) taken)
  | .freeze w => setCore s0 a { coreOf s0 a with wait := w }
  | .hold w => setCore s0 a { coreOf s0 a with landing := true, wait := w }
  | .poll c w =>
    setCore s1 a { c with wait := w, pulled := c.taken ++ c.pulled, taken := [] }
  | .block c w =>
    setCore s1 a { c with wait := w, blocked := true, pulled := c.taken ++ c.pulled, taken := [],
                          replies := (coreOf s0 a).replies }
  | .trap t => takeCause (withNotice s0 a t) a t

/-- Run a meaning that touches its own core only. -/
def runCore (s : State) (f : CoreKind → Core → Res) : Out :=
  .next (settle s s s.cur (f (agentKind s.cur) (coreOf s s.cur)))

/-- Causes that a meaning's effects outside its core have made due at the core itself (R261) are added behind its own. -/
def withPend (ts : List Trap) (r : Res) : Res :=
  match r with
  | .done c => .done { c with pend := c.pend ++ ts }
  | .goto c pc => .goto { c with pend := c.pend ++ ts } pc
  | .jump c pc taken => .jump { c with pend := c.pend ++ ts } pc taken
  | .poll c w => .poll { c with pend := c.pend ++ ts } w
  | .block c w => .block { c with pend := c.pend ++ ts } w
  | r => r

/-- The causes that have become due at a core between two states. -/
def newPends (s s1 : State) (a : Agent) : List Trap := (coreOf s1 a).pend.drop (coreOf s a).pend.length

/-- Run a meaning that acts on the state outside its core as well: it answers the state without its own core's changes. -/
def runState (s : State) (f : CoreKind → Core → State × Res) : Out :=
  let r := f (agentKind s.cur) (coreOf s s.cur)
  .next (settle s r.1 s.cur (withPend (newPends s r.1 s.cur) r.2))

end Sys2Proof.Machine
end

