-- ==== Sys2Proof/Machine/Operands.lean ====
section
/-! DEFINITION. Operand forms: immediates, targets, shift amounts, bit fields, addresses (R58, R60, R79 to R81, R166). -/

namespace Sys2Proof.Machine

/-- A sign-extended immediate (R58). -/
def sext {n : Nat} (i : BitVec n) : Word := i.signExtend 64

/-- A zero-extended immediate (R58). -/
def zext {n : Nat} (i : BitVec n) : Word := i.setWidth 64

/-- A shift amount from a register: its bits 0..5 (R79). -/
def amount (x : Word) : Nat := (x.extractLsb' 0 6).toNat

/-- Sign-extend the low 8 × 2^w bits of a value (R81). -/
def signExtendWidth (w : BitVec 2) (v : Word) : Word :=
  match w.toNat with
  | 0 => (v.setWidth 8).signExtend 64
  | 1 => (v.setWidth 16).signExtend 64
  | 2 => (v.setWidth 32).signExtend 64
  | _ => v

/-- Zero-extend the low 8 × 2^w bits of a value (R81). -/
def zeroExtendWidth (w : BitVec 2) (v : Word) : Word :=
  match w.toNat with
  | 0 => (v.setWidth 8).setWidth 64
  | 1 => (v.setWidth 16).setWidth 64
  | 2 => (v.setWidth 32).setWidth 64
  | _ => v

/-- What a load writes: the value extended as its natural bit says (R58, R81). -/
def extendLoad (w : BitVec 2) (nat : Bool) (v : Word) : Word :=
  if nat then zeroExtendWidth w v else signExtendWidth w v

/-- Bytes of a width code: 1, 2, 4, 8 (R58). -/
def widthBytes (w : BitVec 2) : Nat := 2 ^ w.toNat

/-- A pc-relative target: the address of the instruction plus 4 × a signed word offset, as an integer (R60). -/
def target {n : Nat} (pc : BitVec 14) (off : BitVec n) : Int := (pc.toNat : Int) + 4 * off.toInt

/-- A target lies in the executing slot's 16 KiB and holds a whole word (R60, R334). -/
def inSlot (t : Int) : Bool := decide (0 ≤ t ∧ t ≤ 0x3FFC)

/-- A target as a pc. -/
def asPc (t : Int) : BitVec 14 := BitVec.ofInt 14 t

/-- A target as a trap address. -/
def asWord (t : Int) : Word := BitVec.ofInt 64 t

/-- The bit field xa[pos .. pos + len − 1] in the low bits (R80). -/
def fieldOf (x : Word) (pos len1 : BitVec 6) : Nat := bits x.toNat pos.toNat (len1.toNat + 1)

/-- EXTS: the field sign-extended (R356). -/
def extsOf (x : Word) (pos len1 : BitVec 6) : Word := BitVec.ofInt 64 (sgn (len1.toNat + 1) (fieldOf x pos len1))

/-- EXTZ: the field zero-extended (R356). -/
def extzOf (x : Word) (pos len1 : BitVec 6) : Word := BitVec.ofNat 64 (fieldOf x pos len1)

/-- INS: the field of d replaced by the low bits of x (R356). -/
def insOf (d x : Word) (pos len1 : BitVec 6) : Word :=
  let m : Word := BitVec.ofNat 64 ((2 ^ (len1.toNat + 1) - 1) * 2 ^ pos.toNat)
  (d &&& ~~~m) ||| ((x <<< pos.toNat) &&& m)

/-- The tile-space address of an operand: its low 32 bits (R81, R166). -/
def tileAddr (x : Word) : BitVec 32 := x.setWidth 32

/-- The scratch offset of a tile-space address: bits 0..19 (R166). -/
def tileOffset (a : BitVec 32) : Nat := (a.extractLsb' 0 20).toNat

/-- The target of a tile-space address: bits 20..31 (R166). -/
def tileTarget (a : BitVec 32) : Nat := (a.extractLsb' 20 12).toNat

end Sys2Proof.Machine
end

