-- ==== Sys2Proof/Machine/Float.lean ====
section
/-! DEFINITION. Number formats and rounding (R10, R126 to R135, R137 to R140, R143): exact values, one rounding function, and
the floating operations as exact values before their one rounding. -/

namespace Sys2Proof.Machine

/-- A floating format (R126): mantissa width, bias, and which codes are special. -/
structure Fmt where
  /-- Bits of the code. -/
  n : Nat
  /-- Mantissa width. -/
  w : Nat
  bias : Nat
  /-- The magnitude of the largest finite code (R128). -/
  largest : Nat
  /-- Default NaN (R128); 0 where the format has none. -/
  nan : Nat
  /-- The format has infinities: the code above the largest finite one. -/
  hasInf : Bool
  deriving DecidableEq, Repr

/-- FP32. -/
def fp32 : Fmt := { n := 32, w := 23, bias := 127, largest := 0x7F7FFFFF, nan := 0x7FC00000, hasInf := true }
/-- BF16. -/
def bf16 : Fmt := { n := 16, w := 7, bias := 127, largest := 0x7F7F, nan := 0x7FC0, hasInf := true }
/-- E4M3. -/
def e4m3 : Fmt := { n := 8, w := 3, bias := 7, largest := 0x7E, nan := 0x7F, hasInf := false }
/-- E5M2. -/
def e5m2 : Fmt := { n := 8, w := 2, bias := 15, largest := 0x7B, nan := 0x7E, hasInf := true }
/-- E2M1: no code is special. -/
def e2m1 : Fmt := { n := 4, w := 1, bias := 1, largest := 7, nan := 0, hasInf := false }

/-- An exact value: NaN, an infinity, or (−1)^neg × m × 2^e. -/
inductive FVal where
  | nan
  | inf (neg : Bool)
  | fin (neg : Bool) (m : Nat) (e : Int)
  deriving DecidableEq, Repr

/-- The value of a code (R126, R127). -/
def decodeF (f : Fmt) (code : Nat) : FVal :=
  let neg := bitAt code (f.n - 1)
  let mag := code % 2 ^ (f.n - 1)
  let x := mag / 2 ^ f.w
  let m := mag % 2 ^ f.w
  if f.largest < mag then (if f.hasInf && mag == f.largest + 1 then .inf neg else .nan)
  else if x = 0 then .fin neg m (1 - (f.bias : Int) - f.w)
  else .fin neg (2 ^ f.w + m) ((x : Int) - f.bias - f.w)

/-- The value of an E8M0 scale code (R127, R140). -/
def decodeE8M0 (code : Nat) : FVal := if code = 0xFF then .nan else .fin false 1 ((code : Int) - 127)

/-- Whether the magnitude k + r / 2^s, 0 < s, of sign neg rounds up to k + 1 under a mode (R130). -/
def roundsUp (mode : Rnd) (neg : Bool) (k r half : Nat) : Bool :=
  match mode with
  | .rne => decide (half < r) || (r == half && k % 2 == 1)
  | .rtz => false
  | .rdn => neg && decide (0 < r)
  | .rup => !neg && decide (0 < r)

/-- m × 2^−s rounded to an integer magnitude under a mode. -/
def roundShift (mode : Rnd) (neg : Bool) (m s : Nat) : Nat :=
  let k := m / 2 ^ s
  let r := m % 2 ^ s
  if s = 0 then m else if roundsUp mode neg k r (2 ^ (s - 1)) then k + 1 else k

/-- The code of a magnitude with a sign. -/
def signCode (f : Fmt) (neg : Bool) (mag : Nat) : Nat := (if neg then 2 ^ (f.n - 1) else 0) + mag

/-- An overflow (R131). -/
def overflowCode (f : Fmt) (mode : Rnd) (sat neg : Bool) : Nat :=
  let toInf := match mode with
    | .rne => true
    | .rtz => false
    | .rdn => neg
    | .rup => !neg
  if sat || !toInf then signCode f neg f.largest
  else if f.hasInf then signCode f neg (f.largest + 1) else f.nan

/-- round_F(x, mode), with saturation (R130 to R132). -/
def roundF (f : Fmt) (mode : Rnd) (sat : Bool) (x : FVal) : Nat :=
  match x with
  | .nan => f.nan
  | .inf neg => if f.hasInf then signCode f neg (f.largest + 1) else if sat then signCode f neg f.largest else f.nan
  | .fin neg m e =>
    if m = 0 then signCode f neg 0
    else
      let qmin : Int := 1 - (f.bias : Int) - f.w
      let q : Int := if (m.log2 : Int) + e - f.w < qmin then qmin else (m.log2 : Int) + e - f.w
      let k := if q ≤ e then m * 2 ^ (e - q).toNat else roundShift mode neg m (q - e).toNat
      let mag := (q - qmin).toNat * 2 ^ f.w + k
      if f.largest < mag then overflowCode f mode sat neg else signCode f neg mag

/-- The value with its sign inverted. -/
def FVal.negate (x : FVal) : FVal :=
  match x with
  | .nan => .nan
  | .inf s => .inf (!s)
  | .fin s m e => .fin (!s) m e

/-- The exact sum, as RNE, RTZ and RUP take a zero (R132, R133). -/
def FVal.add (x y : FVal) : FVal :=
  match x, y with
  | .nan, _ => .nan
  | _, .nan => .nan
  | .inf s, .inf t => if s == t then .inf s else .nan
  | .inf s, .fin _ _ _ => .inf s
  | .fin _ _ _, .inf t => .inf t
  | .fin s m e, .fin t n g =>
    let q : Int := if e ≤ g then e else g
    let a : Int := (m : Int) * 2 ^ (e - q).toNat
    let b : Int := (n : Int) * 2 ^ (g - q).toNat
    let z : Int := (if s then -a else a) + (if t then -b else b)
    if z = 0 then .fin (s && t && m == 0 && n == 0) 0 q else .fin (decide (z < 0)) z.natAbs q

/-- The exact product (R132, R133). -/
def FVal.mul (x y : FVal) : FVal :=
  match x, y with
  | .nan, _ => .nan
  | _, .nan => .nan
  | .inf s, .inf t => .inf (s != t)
  | .inf s, .fin t n _ => if n = 0 then .nan else .inf (s != t)
  | .fin s m _, .inf t => if m = 0 then .nan else .inf (s != t)
  | .fin s m e, .fin t n g => .fin (s != t) (m * n) (e + g)

/-- The exact sum of a list, from +0 that adds nothing to the sign of a zero: the first value itself when there is one. -/
def FVal.sum (l : List FVal) : FVal :=
  match l with
  | [] => .fin false 0 0
  | x :: r => r.foldl FVal.add x

/-- x < y for values that are not NaN, −0 below +0 (R135). -/
def FVal.below (x y : FVal) : Bool :=
  match x, y with
  | .nan, _ => false
  | _, .nan => false
  | .inf s, .inf t => s && !t
  | .inf s, .fin _ _ _ => s
  | .fin _ _ _, .inf t => !t
  | .fin s m e, .fin t n g =>
    let q : Int := if e ≤ g then e else g
    let a := m * 2 ^ (e - q).toNat
    let b := n * 2 ^ (g - q).toNat
    if s != t then s else if s then decide (b < a) else decide (a < b)

/-- The value is an infinity or finite, and equal in the order of numbers: zeros of both signs are one number. -/
def FVal.numEq (x y : FVal) : Bool :=
  match x, y with
  | .fin _ 0 _, .fin _ 0 _ => true
  | .nan, _ => false
  | _, .nan => false
  | _, _ => !x.below y && !y.below x

/-- x < y in the order of numbers. -/
def FVal.numLt (x y : FVal) : Bool := x.below y && !x.numEq y

/-- A NaN. -/
def FVal.isNan (x : FVal) : Bool := x == .nan

/-- VFMIN and VFMAX on codes (R135): the code of the smaller or larger operand. -/
def minMaxF (f : Fmt) (max : Bool) (a b : Nat) : Nat :=
  let x := decodeF f a
  let y := decodeF f b
  if x.isNan && y.isNan then f.nan
  else if x.isNan then b
  else if y.isNan then a
  else if max then (if x.below y then b else a) else (if y.below x then b else a)

/-! ### Transcendental values (R135) -/

/-- Bits of the square root of n, from bit b − 1 down: r holds the bits found. -/
def isqrtFrom (n b r : Nat) : Nat :=
  match b with
  | 0 => r
  | b + 1 => if (r + 2 ^ b) * (r + 2 ^ b) ≤ n then isqrtFrom n b (r + 2 ^ b) else isqrtFrom n b r

/-- The integer square root. -/
def isqrt (n : Nat) : Nat := isqrtFrom n (n.log2 / 2 + 1) 0

/-- Fraction bits the approximations carry. -/
def fracBits : Nat := 192

/-- 2^f × 2^fracBits for f = j / 2^n with 0 < f < 1: one square root for each of the n bits of j, lowest first. -/
def exp2Frac (j n y : Nat) : Nat :=
  match n with
  | 0 => y
  | n + 1 => exp2Frac (j / 2) n (isqrt ((if j % 2 = 1 then 2 * y else y) * 2 ^ fracBits))

/-- 2^x. The exact value where x is an integer; otherwise its first 192 fraction bits with a bit below them that stands for the
rest, which rounds as the exact value unless that lies within 2^−190 of a rounding boundary. Beyond 2^9 in magnitude the value
is represented by one that rounds alike in every format. -/
def exp2Val (x : FVal) : FVal :=
  match x with
  | .nan => .nan
  | .inf neg => if neg then .fin false 0 0 else .inf false
  | .fin neg m e =>
    if m = 0 then .fin false 1 0
    else if 9 < (m.log2 : Int) + e then .fin false 1 (if neg then -1024 else 1024)
    else if 0 ≤ e then .fin false 1 (if neg then -((m * 2 ^ e.toNat : Nat) : Int) else ((m * 2 ^ e.toNat : Nat) : Int))
    else
      let n := (-e).toNat
      let v : Int := if neg then -(m : Int) else m
      let whole : Int := v / (2 ^ n : Nat)
      let j := (v % (2 ^ n : Nat)).toNat
      if j = 0 then .fin false 1 whole
      else .fin false (2 * exp2Frac j n (2 ^ fracBits) + 1) (whole - fracBits - 1)

/-- Fraction bits of log2 y, n of them, for y in [1, 2) with 2 × fracBits fraction bits; r holds the bits found. -/
def log2Frac (y n r : Nat) : Nat :=
  match n with
  | 0 => r
  | n + 1 =>
    let z := y * y / 2 ^ (2 * fracBits)
    if 2 ^ (2 * fracBits + 1) ≤ z then log2Frac (z / 2) n (2 * r + 1) else log2Frac z n (2 * r)

/-- log2 x. Exact for a power of two; otherwise 160 fraction bits with a bit below them that stands for the rest. -/
def log2Val (x : FVal) : FVal :=
  match x with
  | .nan => .nan
  | .inf neg => if neg then .nan else .inf false
  | .fin neg m e =>
    if m = 0 then .inf true
    else if neg then .nan
    else
      let p := m.log2
      let whole : Int := (p : Int) + e
      if m = 2 ^ p then .fin (decide (whole < 0)) whole.natAbs 0
      else
        let r := log2Frac (m * 2 ^ (2 * fracBits) / 2 ^ p) 160 0
        let z : Int := whole * (2 ^ 161 : Nat) + ((2 * r + 1 : Nat) : Int)
        .fin (decide (z < 0)) z.natAbs (-161)

/-- 1 / x, with a bit below the quotient that stands for the remainder (R135). -/
def recipVal (x : FVal) : FVal :=
  match x with
  | .nan => .nan
  | .inf neg => .fin neg 0 0
  | .fin neg m e =>
    if m = 0 then .inf neg
    else
      let q := 2 ^ fracBits / m
      .fin neg (2 * q + (if 2 ^ fracBits % m = 0 then 0 else 1)) (-e - fracBits - 1)

/-- 1 / √x, with a bit below the root that stands for the rest (R135). -/
def rsqrtVal (x : FVal) : FVal :=
  match x with
  | .nan => .nan
  | .inf neg => if neg then .nan else .fin false 0 0
  | .fin neg m e =>
    if m = 0 then .inf neg
    else if neg then .nan
    else
      let m2 := if e % 2 = 0 then m else 2 * m
      let h : Int := if e % 2 = 0 then e / 2 else (e - 1) / 2
      let r := isqrt (2 ^ (2 * fracBits) / m2)
      .fin false (2 * r + (if r * r * m2 = 2 ^ (2 * fracBits) then 0 else 1)) (-h - fracBits - 1)

/-- x / y, with a bit below the quotient that stands for the remainder. -/
def FVal.div (x y : FVal) : FVal :=
  match x, y with
  | .nan, _ => .nan
  | _, .nan => .nan
  | .inf _, .inf _ => .nan
  | .inf s, .fin t _ _ => .inf (s != t)
  | .fin s _ _, .inf t => .fin (s != t) 0 0
  | .fin s m e, .fin t n g =>
    if n = 0 then (if m = 0 then .nan else .inf (s != t))
    else
      let q := m * 2 ^ fracBits / n
      .fin (s != t) (2 * q + (if m * 2 ^ fracBits % n = 0 then 0 else 1)) (e - g - fracBits - 1)

/-- √x, with a bit below the root that stands for the rest. -/
def FVal.sqrt (x : FVal) : FVal :=
  match x with
  | .nan => .nan
  | .inf s => if s then .nan else .inf false
  | .fin s m e =>
    if m = 0 then .fin s 0 0
    else if s then .nan
    else
      let m2 := (if e % 2 = 0 then m else 2 * m) * 2 ^ (2 * fracBits)
      let h : Int := if e % 2 = 0 then e / 2 else (e - 1) / 2
      let r := isqrt m2
      .fin false (2 * r + (if r * r = m2 then 0 else 1)) (h - fracBits - 1)

/-- The exact value of an integer. -/
def intVal (v : Int) : FVal := .fin (decide (v < 0)) v.natAbs 0

/-! ### FP32 operations on codes (R283, R297) -/

/-- Round to FP32. -/
def f32 (x : FVal) : Nat := roundF fp32 .rne false x
/-- The FP32 sum of two codes. -/
def addF32 (a b : Nat) : Nat := f32 ((decodeF fp32 a).add (decodeF fp32 b))
/-- The FP32 difference of two codes. -/
def subF32 (a b : Nat) : Nat := f32 ((decodeF fp32 a).add (decodeF fp32 b).negate)
/-- The FP32 product of two codes. -/
def mulF32 (a b : Nat) : Nat := f32 ((decodeF fp32 a).mul (decodeF fp32 b))
/-- The FP32 quotient of a code by an integer. -/
def divInt32 (a n : Nat) : Nat := f32 ((decodeF fp32 a).div (intVal n))
/-- The FP32 quotient of two codes. -/
def divF32 (a b : Nat) : Nat := f32 ((decodeF fp32 a).div (decodeF fp32 b))
/-- The FP32 square root of a code. -/
def sqrtF32 (a : Nat) : Nat := f32 (decodeF fp32 a).sqrt

/-! ### Integers (R138, R139) -/

/-- A finite value rounded to an integer under a mode. -/
def roundInt (mode : Rnd) (neg : Bool) (m : Nat) (e : Int) : Int :=
  let k := if 0 ≤ e then m * 2 ^ e.toNat else roundShift mode neg m (-e).toNat
  if neg then -(k : Int) else k

/-- Routes 8 and 10 (R138): a value converted to a 32-bit integer, signed or natural. -/
def toInt32 (mode : Rnd) (sat signed : Bool) (x : FVal) : Nat :=
  let lo : Int := if signed then -(2 ^ 31) else 0
  let hi : Int := if signed then 2 ^ 31 - 1 else 2 ^ 32 - 1
  match x with
  | .nan => 0
  | .inf neg => if sat then wrap 32 (if neg then lo else hi) else 0
  | .fin neg m e =>
    let v := roundInt mode neg m e
    if sat then wrap 32 (if v < lo then lo else if hi < v then hi else v) else wrap 32 v

end Sys2Proof.Machine
end

