-- ==== Sys2Proof/Machine/Flags.lean ====
section
/-! DEFINITION. Conditions. The machine has no arithmetic flags: conditions are the compares of branches and of SLT (R79, R84),
the predicate masks (R49), and the bits of nf_stat (R101). -/

namespace Sys2Proof.Machine

/-- 1 for true, 0 for false (R79). -/
def flagWord (b : Bool) : Word := if b then 1#64 else 0#64

/-- xa < xb as signed numbers. -/
def ltSigned (a b : Word) : Bool := a.slt b

/-- xa < xb as natural numbers. -/
def ltNatural (a b : Word) : Bool := a.ult b

/-- The smaller, signed (R332). -/
def minSigned (a b : Word) : Word := if ltSigned a b then a else b
/-- The larger, signed. -/
def maxSigned (a b : Word) : Word := if ltSigned a b then b else a
/-- The smaller, natural. -/
def minNatural (a b : Word) : Word := if ltNatural a b then a else b
/-- The larger, natural. -/
def maxNatural (a b : Word) : Word := if ltNatural a b then b else a

/-- A predicate with the bits of its first n elements (R49). -/
def predLow (n : Nat) : PWord := BitVec.ofNat 128 (2 ^ n - 1)

/-- The i-th LDNF since nf_stat was written: its bit is set when it was suppressed; loads beyond the 64th set none (R101). -/
def countLdnf (c : Core) (suppressed : Bool) : Core :=
  { c with nfCount := c.nfCount + 1,
           nfStat := if suppressed && decide (c.nfCount < 64) then c.nfStat ||| (1#64 <<< c.nfCount) else c.nfStat }

end Sys2Proof.Machine
end

