-- ==== Sys2Proof/Machine/Scratch.lean ====
section
/-! DEFINITION. Scratch: size, buffers and their views, the scoreboard, the scratch undo area (R166, R172 to R177, R262, R263). -/

namespace Sys2Proof.Machine

/-- Bytes of scratch of a core: 1 MiB on a tile, 256 KiB on a memory core and on a Starter core (R56, R166, R325). -/
def scratchSize (k : CoreKind) : Nat := if k == .tile then 0x100000 else 0x40000

/-- The first byte of the scratch undo area (R262). -/
def undoBase : Nat := 0xF0000

/-! ### Buffers and views (R172 to R174) -/

/-- The buffer whose view holds an offset. -/
def bufferAt (bs : Vector Buffer 8) (o : Nat) : Option Buffer :=
  bs.toList.find? fun b => b.len != 0#20 && decide (b.half0.toNat ≤ o ∧ o < b.half0.toNat + b.len.toNat)

/-- Where a view offset lies in a half: in half 1 when h is set, otherwise half 0. -/
def inHalf (b : Buffer) (h : Bool) (o : Nat) : Nat :=
  (if h then b.half1.toNat else b.half0.toNat) + (o - b.half0.toNat)

/-- The physical offset that an observer reads, or that a core or remote store writes: the visible half (R172). -/
def visible (bs : Vector Buffer 8) (o : Nat) : Nat :=
  match bufferAt bs o with
  | some b => inHalf b b.vis o
  | none => o

/-- The physical offset that an engine writes: the shadow half (R172). -/
def shadow (bs : Vector Buffer 8) (o : Nat) : Nat :=
  match bufferAt bs o with
  | some b => inHalf b (!b.vis) o
  | none => o

/-- The physical offsets of n bytes from offset o under a binding, part by part (R174). -/
def boundOffsets (f : Nat → Nat) (o n : Nat) : List Nat := (List.range n).map fun i => f (o + i)

/-- A byte string as the core reads it. -/
def scratchRead (c : Core) (o n : Nat) : List Byte :=
  (boundOffsets (visible c.bufs) o n).map fun p => tget c.scratch 0#8 p

/-- A byte of scratch that a write has covered holds no error any more. -/
def unmarked (ms : List ErrorMark) (ps : List Nat) : List ErrorMark :=
  ms.filter fun m => match m with
    | .scratch o => !ps.contains o
    | _ => true

/-- Write bytes at physical offsets. -/
def scratchPut (c : Core) (ps : List Nat) (bs : List Byte) : Core :=
  { c with scratch := (ps.zip bs).foldl (fun t e => tset t 0#8 e.1 e.2) c.scratch, marks := unmarked c.marks ps }

/-- The first of the physical offsets whose byte holds an uncorrectable error. -/
def markedAt (c : Core) (ps : List Nat) : Option Nat :=
  if c.marks = [] then none else ps.find? fun p => c.marks.contains (.scratch p)

/-- The cause that a reader of scratch consumes there (R271). -/
def scratchError (c : Core) (ps : List Nat) : Option Trap :=
  (markedAt c ps).map fun p => { cause := .ue, addr := BitVec.ofNat 64 p }

/-- A read of scratch by the core itself consumes an error in what it reads (R271). -/
def consumeScratch (c : Core) (ps : List Nat) : Core :=
  match scratchError c ps with
  | some t => addPend c t
  | none => c

/-- Consecutive offsets gathered into ranges. -/
def rangesOf (ps : List Nat) : List Range :=
  ps.foldr (fun p rs => match rs with
    | r :: t => if p + 1 = r.start then { start := p, len := r.len + 1 } :: t else { start := p, len := 1 } :: r :: t
    | [] => [{ start := p, len := 1 }]) []

/-- The physical ranges of the range o .. o + n − 1 under a binding: at most one piece before, one in and one after a view
(R174). A range without a view is one piece. -/
def boundRanges (bs : Vector Buffer 8) (half : Buffer → Bool) (o n : Nat) : List Range :=
  let views := bs.toList.filter fun b =>
    b.len != 0#20 && decide (b.half0.toNat < o + n ∧ o < b.half0.toNat + b.len.toNat)
  let bound := views.map fun b =>
    let lo := Nat.max o b.half0.toNat
    let hi := Nat.min (o + n) (b.half0.toNat + b.len.toNat)
    ({ start := inHalf b (half b) lo, len := hi - lo } : Range)
  let plain := views.foldl (fun rs b =>
      rs.flatMap fun r =>
        let lo := b.half0.toNat; let hi := b.half0.toNat + b.len.toNat
        (if r.start < lo then [{ start := r.start, len := Nat.min (r.start + r.len) lo - r.start }] else []) ++
        (if hi < r.start + r.len then
          [{ start := Nat.max r.start hi, len := r.start + r.len - Nat.max r.start hi }] else []))
    [({ start := o, len := n } : Range)]
  (plain ++ bound).filter fun r => r.len != 0

/-! ### The scoreboard (R175, R176) -/

/-- Two ranges share a byte. -/
def overlap (a b : Range) : Bool := decide (a.start < b.start + b.len ∧ b.start < a.start + a.len ∧ 0 < a.len ∧ 0 < b.len)

/-- An outstanding entry conflicts with reads and writes of a younger command or access (R176). -/
def entryConflicts (e : ScoreEntry) (reads writes : List Range) : Bool :=
  e.write.any (fun w => (reads ++ writes).any (overlap w)) || e.reads.any fun r => writes.any (overlap r)

/-- Some outstanding entry conflicts. -/
def scoreConflict (sc : List ScoreEntry) (reads writes : List Range) : Bool := sc.any fun e => entryConflicts e reads writes

/-- Entries a scoreboard holds at most (R175). -/
def scoreSize : Nat := 16

/-! ### Undo in scratch (R262, R263) -/

/-- The leg reserves the scratch undo area (R256, R262). -/
def undoReserved (s : State) (k : CoreKind) (c : Core) : Bool :=
  k == .tile && match gangOf s c with
    | some g => g.laps
    | none => false

/-- First writes are logged: the context runs laps (R256). -/
def undoActive (s : State) (k : CoreKind) (c : Core) : Bool :=
  undoReserved s k c && match ctxOf s c with
    | some x => (contextOf s x).laps
    | none => false

/-- The sectors that a write to physical offsets would log, in the order in which it comes to them (R262, R263, R427). -/
def sectorsToLog (c : Core) (ps : List Nat) : List Nat :=
  (ps.map (· / 32)).eraseDups.filter fun x => !c.logged.contains x

/-- Append the records of sectors to the area: offset, lap, zeros, the old bytes (R262). -/
def logSectors (c : Core) (lap : BitVec 32) (ss : List Nat) : Core :=
  match ss with
  | [] => c
  | x :: r =>
    let rec' := toBytes 4 (32 * x) ++ toBytes 4 lap.toNat ++ toBytes 24 0 ++ tgetList c.scratch 0#8 (32 * x) 32
    logSectors
      { c with scratch := tsetList c.scratch 0#8 (undoBase + c.undoFill) rec', undoFill := c.undoFill + 64,
               logged := x :: c.logged, marks := unmarked c.marks ((List.range 64).map (undoBase + c.undoFill + ·)) } lap r

/-- How a scratch write comes out. -/
inductive ScratchWrite where
  | ok (c : Core)
  /-- No room: the offset of the first sector it would log. -/
  | full (off : Nat)

/-- UNDO_FULL becomes due at a core for a write whose first logged sector is x, while none is pending (R263). -/
def undoDue (c : Core) (x : Nat) : Core :=
  if c.undoRaised || c.undoInHandler then c
  else addPend { c with undoRaised := true } { cause := .undoFull, addr := BitVec.ofNat 64 (32 * x) }

/-- A write by the core's own instruction (R263): in a handler the UNDO_FULL that it would raise is held until TRET. -/
def coreScratchWrite (s : State) (k : CoreKind) (c : Core) (ps : List Nat) (bs : List Byte) : ScratchWrite :=
  let ss := if undoActive s k c then sectorsToLog c ps else []
  let lap := (contextOf s ((ctxOf s c).getD 0)).lapId
  match ss with
  | [] => .ok (scratchPut c ps bs)
  | x :: _ =>
    if !c.inHandler && decide (0xE000 ≤ c.undoFill) then .full (32 * x)
    else if c.undoFill + 64 * ss.length ≤ 0x10000 then
      let c' := scratchPut (logSectors c lap ss) ps bs
      .ok (if decide (0xE000 ≤ c.undoFill) then undoDue c' x else c')
    else .full (32 * x)

/-- A write by an engine or a remote store (R263): none while there is no room. -/
def engineScratchWrite (s : State) (k : CoreKind) (c : Core) (ps : List Nat) (bs : List Byte) : Option Core :=
  let ss := if undoActive s k c then sectorsToLog c ps else []
  let lap := (contextOf s ((ctxOf s c).getD 0)).lapId
  match ss with
  | [] => some (scratchPut c ps bs)
  | x :: _ =>
    if c.undoFill + 64 * ss.length ≤ 0x10000 then
      let c' := scratchPut (logSectors c lap ss) ps bs
      some (if decide (0xE000 < c'.undoFill) then undoDue c' x else c')
    else none

/-! ### Local accesses of a core -/

/-- Physical offsets that reach the scratch undo area, be it through a buffer whose half lies there (R262). -/
def reachesUndo (ps : List Nat) : Bool := ps.any fun p => decide (undoBase ≤ p)

/-- Where a local access is refused: beyond the scratch on a core without a switch, inside the undo area of a leg with laps
(R101, R166, R262). -/
def localBound (s : State) (k : CoreKind) (c : Core) (o n : Nat) : Option Trap :=
  if decide (scratchSize k ≤ o) then some { cause := .boundary, addr := BitVec.ofNat 64 o }
  else if undoReserved s k c && (decide (undoBase < o + n) || reachesUndo (boundOffsets (visible c.bufs) o n)) then
    some { cause := .boundary, addr := BitVec.ofNat 64 o }
  else none

/-- A read of scratch at offset o passes the reader's err_inject, kind 1 (R321, R379). -/
def readEvent (c : Core) (o : Nat) : Core :=
  match injectEvent c 1 with
  | (true, c1) => addPend c1 { cause := .ue, addr := BitVec.ofNat 64 o }
  | (false, c1) => c1

/-- A local read of n bytes at an offset: the scoreboard, then the visible half in the issue tc, through err_inject kind 1
(R100, R172, R176, R321). -/
def localRead (c : Core) (o n : Nat) (f : List Byte → Core → Res) : Res :=
  if scoreConflict c.score (boundRanges c.bufs (fun b => b.vis) o n) [] then .freeze .scoreboard
  else f (scratchRead c o n) (readEvent (consumeScratch c (boundOffsets (visible c.bufs) o n)) o)

/-- A local write of bytes at given offsets of the core's view (R100, R172, R176, R263). -/
def localWrite (s : State) (k : CoreKind) (c : Core) (os : List Nat) (bs : List Byte) (f : Core → Res) : Res :=
  let ps := os.map (visible c.bufs)
  if scoreConflict c.score [] (rangesOf ps) then .freeze .scoreboard
  else
    match coreScratchWrite s k c ps bs with
    | .ok c' => f c'
    | .full x => raise .undoFull (BitVec.ofNat 64 x)

end Sys2Proof.Machine
end

