-- ==== Sys2Proof/Machine/Translate.lean ====
section
/-! DEFINITION. Address translation: leaf entries, TLBs, the checks of R211, the miss protocol (R206 to R218). -/

namespace Sys2Proof.Machine

/-! ### The leaf entry (R207, R208) -/

/-- Virtual address bits 12..55. -/
def leafVtag (e : Leaf) : Nat := (e.extractLsb' 0 44).toNat
/-- Size code. -/
def leafSize (e : Leaf) : Nat := (e.extractLsb' 44 4).toNat
/-- Valid entry. -/
def leafV (e : Leaf) : Bool := e.getLsbD 48
/-- Read permission. -/
def leafR (e : Leaf) : Bool := e.getLsbD 49
/-- Write permission. -/
def leafW (e : Leaf) : Bool := e.getLsbD 50
/-- Execute permission. -/
def leafX (e : Leaf) : Bool := e.getLsbD 51
/-- Memory-side page. -/
def leafM (e : Leaf) : Bool := e.getLsbD 52
/-- Lap-tracked. -/
def leafL (e : Leaf) : Bool := e.getLsbD 53
/-- A duplicate is kept. -/
def leafD (e : Leaf) : Bool := e.getLsbD 54
/-- Host endpoint. -/
def leafH (e : Leaf) : Bool := e.getLsbD 55
/-- Local physical address bits 12..47. -/
def leafFrame (e : Leaf) : Nat := (e.extractLsb' 64 36).toNat
/-- Configuration identity. -/
def leafCfg (e : Leaf) : BitVec 8 := e.extractLsb' 100 8
/-- Package id of the home. -/
def leafPkg (e : Leaf) : Nat := (e.extractLsb' 108 11).toNat
/-- Target incarnation. -/
def leafInc (e : Leaf) : BitVec 8 := e.extractLsb' 119 8

/-- Bits of the page offset of a size code (R207). -/
def pageBits (code : Nat) : Nat :=
  match code with
  | 0 => 12 | 1 => 14 | 2 => 16 | 3 => 18 | 4 => 20 | 5 => 21 | 6 => 24 | 7 => 26 | 8 => 28 | _ => 30

/-- The page of an entry holds a virtual address. -/
def leafCovers (e : Leaf) (va : Nat) : Bool :=
  leafVtag e * 4096 / 2 ^ pageBits (leafSize e) == va / 2 ^ pageBits (leafSize e)

/-- Two pages share an address. -/
def leafOverlaps (e f : Leaf) : Bool := leafCovers e (leafVtag f * 4096) || leafCovers f (leafVtag e * 4096)

/-- The local physical address an entry gives a virtual address. -/
def leafLocal (e : Leaf) (va : Nat) : Nat := leafFrame e * 4096 + va % 2 ^ pageBits (leafSize e)

/-- The domain physical address an entry gives a virtual address (R25, R211). -/
def leafPhys (e : Leaf) (va : Nat) : Nat := leafPkg e * 2 ^ 48 + leafLocal e va

/-- The package of a domain physical address. -/
def pkgOf (phys : Nat) : Nat := phys / 2 ^ 48 % 2 ^ 11

/-- The address names installed memory: its offset in its half is below 0x48_0000_0000 (R20). -/
def installed (phys : Nat) : Bool := decide (phys % 2 ^ 47 < 0x4800000000)

/-- A leaf entry that TLBW may send: reserved bits zero, size and alignment right, no H page with M (R213). -/
def leafValid (e : Leaf) : Bool :=
  e.extractLsb' 57 7 == 0#7 && !e.getLsbD 127 && decide (leafSize e ≤ 9) &&
  leafVtag e * 4096 % 2 ^ pageBits (leafSize e) == 0 && leafFrame e * 4096 % 2 ^ pageBits (leafSize e) == 0 &&
  !(leafV e && leafH e && leafM e)

/-! ### Checks of an access (R211) -/

/-- What an access needs of its page. -/
inductive Need where
  | none | r | w | rw
  deriving DecidableEq, Repr

/-- What kind of access a check is made for. -/
structure AccessClass where
  need : Need
  /-- A scalar access, which an H page refuses (R181). -/
  scalar : Bool := true
  /-- It needs a memory-side page (AMO, CAS, object and heat instructions). -/
  memSide : Bool := false
  /-- A stream run, which is held to its half before the address is found to name no memory (R20). -/
  run : Bool := false
  kind : MissKind := .load
  deriving DecidableEq, Repr

/-- The configuration identity of the leg a core runs (R30). -/
def cfgOf (s : State) (c : Core) : BitVec 8 :=
  match gangOf s c with
  | some g => g.cfg
  | none => 0#8

/-- The current incarnation of a package (R217). -/
def incarnation (s : State) (pkg : Nat) : BitVec 8 := tget s.incarnations 0#8 pkg

/-- The page lacks a right that an access needs (R211). -/
def lacksRight (e : Leaf) (n : Need) : Bool :=
  match n with
  | .none => false
  | .r => !leafR e
  | .w => !leafW e
  | .rw => !(leafR e && leafW e)

/-- The checks of R211 in their order, and then that the address names memory (R20). -/
def checkLeaf (s : State) (cfg : BitVec 8) (e : Leaf) (ac : AccessClass) (va : Nat) : Option Cause :=
  if !leafV e then some .page
  else if leafCfg e != 0#8 && leafCfg e != cfg then some .cid
  else if lacksRight e ac.need then some .perm
  else if (ac.scalar && leafH e) || (ac.memSide && !leafM e) then some .perm
  else if leafPkg e != s.ownPkg && leafInc e != incarnation s (leafPkg e) then some .remoteLost
  else if !ac.run && !installed (leafPhys e va) then some .page
  else none

/-- The address of the Starter's shared-state window, and where the model keeps it: beyond every domain physical address
(R325). -/
def windowVa : Nat := 0x0080000000000000
/-- The first of the addresses that stand for the window. -/
def windowBase : Nat := 2 ^ 59
/-- Bytes of the window. -/
def windowSize : Nat := 0x40000

/-- The address lies on another package that no Global Link port leads to (R295); the window is this package's own (R325). -/
def unroutable (s : State) (phys : Nat) : Bool :=
  decide (phys < windowBase) && pkgOf phys != s.ownPkg && tget s.routes 0#24 (pkgOf phys) == 0#24

/-- A readable and writable memory-side entry, for the window. -/
def windowLeaf : Leaf := (1#128 <<< 48) ||| (1#128 <<< 49) ||| (1#128 <<< 50) ||| (1#128 <<< 52)

/-- The agent is a Starter core. -/
def isStarter (a : Agent) : Bool :=
  match a with
  | .starter _ => true
  | _ => false

/-- The context number under which the supervisor cores' own pages are kept. -/
def supervisorCtx : Nat := 0x10000

/-- The page of a list that holds a virtual address. -/
def pageFor (ps : List Leaf) (va : Nat) : Option Leaf := ps.find? fun e => leafCovers e va

/-- How a translation comes out. -/
inductive Translation where
  | ok (e : Leaf) (phys : Nat) (c : Core)
  | miss
  | fail (cause : Cause)

/-- The TLB with an entry moved to the front (R209: least recently used is replaced). -/
def tlbTouch (l : List TlbEntry) (e : TlbEntry) : List TlbEntry := e :: l.filter (· != e)

/-- Entries of a TLB (R209). -/
def tlbSize (k : CoreKind) : Nat := if k == .mem then 64 else 32

/-- Translate an address for a core's access (R206, R209, R211). A supervisor core has no TLB of R209: it uses the
supervisor's own pages. -/
def translate (s : State) (k : CoreKind) (c : Core) (ac : AccessClass) (va : Word) : Translation :=
  if va.extractLsb' 56 8 != 0#8 then .fail .page
  else
    match k with
    | .supervisor =>
      if isStarter s.cur && decide (windowVa ≤ va.toNat ∧ va.toNat < windowVa + windowSize) then
        .ok windowLeaf (windowBase + (va.toNat - windowVa)) c
      else
      match pageFor (contextOf s supervisorCtx).pages va.toNat with
      | none => .fail .page
      | some e =>
        match checkLeaf s 0#8 e ac va.toNat with
        | some x => .fail x
        | none => .ok e (leafPhys e va.toNat) c
    | _ =>
      let x := (ctxOf s c).getD 0
      match c.tlb.find? fun e => e.ctx == x && leafCovers e.leaf va.toNat with
      | none => .miss
      | some t =>
        match checkLeaf s (cfgOf s c) t.leaf ac va.toNat with
        | some f => .fail f
        | none => .ok t.leaf (leafPhys t.leaf va.toNat) { c with tlb := tlbTouch c.tlb t }

/-- Translation for the Starter and the hardware units, through the pages the supervisor gave the context (R39, R206). -/
def translateFor (s : State) (ctx : Nat) (cfg : BitVec 8) (ac : AccessClass) (va : Nat) : Except Cause (Leaf × Nat) :=
  if 2 ^ 56 ≤ va then .error .page
  else
    match pageFor (contextOf s ctx).pages va with
    | none => .error .page
    | some e =>
      match checkLeaf s cfg e ac va with
      | some x => .error x
      | none => if unroutable s (leafPhys e va) then .error .remoteLost else .ok (e, leafPhys e va)

/-- Send a packet. -/
def send (s : State) (p : Packet) : State := { s with net := s.net ++ [p] }

/-- The miss message of an access, to translation service core lane / 4 (R212). -/
def missPacket (s : State) (a : Agent) (c : Core) (kind : MissKind) (va : Word) (tag : Nat) : Packet :=
  { src := agentCode a, addr := va.toNat,
    kind := .miss (agentCode (.svc (agentLane a / 4)))
      { req := agentCode a, va := va.toNat, ctx := (ctxOf s c).getD 0, cfg := cfgOf s c, kind := kind, tag := tag } }

/-- A TLB after a fill with V = 1: overlapping entries of the context are removed first (R213). -/
def tlbInstall (k : CoreKind) (l : List TlbEntry) (e : TlbEntry) : List TlbEntry :=
  (e :: l.filter fun f => !(f.ctx == e.ctx && leafOverlaps f.leaf e.leaf)).take (tlbSize k)

end Sys2Proof.Machine
end

