-- ==== Sys2Proof/Machine/Home.lean ====
section
/-! DEFINITION. The memory side: reading and writing HBM at its home, undo logging of lap-tracked pages, duplicates, poisoned
sectors (R18 to R20, R182, R193, R208, R258 to R261, R275). -/

namespace Sys2Proof.Machine

/-- The canonical form of memory: addresses rise strictly, and no entry is what an unlisted byte reads as. -/
def Memory.wf (m : List Host.Cell) : Bool := twf m 0#8

/-- Read n bytes of HBM. An unlisted byte reads as 0. -/
def memBytes (s : State) (addr n : Nat) : List Byte := tgetList s.mem 0#8 addr n

/-- Read n bytes as a little-endian number (R4). -/
def memRead (s : State) (addr n : Nat) : Nat := ofBytes (memBytes s addr n)

/-- The poisoned sectors that a write of n bytes at an address leaves: one that it covers whole holds new bytes (R275). -/
def unpoison (l : List Nat) (addr n : Nat) : List Nat := l.filter fun sec => !decide (addr ≤ 32 * sec ∧ 32 * sec + 32 ≤ addr + n)

/-- Write bytes to HBM, with no logging. -/
def memWrite (s : State) (addr : Nat) (bs : List Byte) : State :=
  { s with mem := tsetList s.mem 0#8 addr bs, poisoned := unpoison s.poisoned addr bs.length }

/-- The address of a duplicate: bit 47 inverted (R208). -/
def dupAddr (a : Nat) : Nat := if bitAt a 47 then a - 2 ^ 47 else a + 2 ^ 47

/-- Write bytes at the home and at the duplicate, where the page keeps one (R208). -/
def memWriteDup (s : State) (e : Leaf) (addr : Nat) (bs : List Byte) : State :=
  let s1 := memWrite s addr bs
  if leafD e then memWrite s1 (dupAddr addr) bs else s1

/-- A boundary cause becomes due at a core, by agent number. -/
def pendAt (s : State) (code : Nat) (t : Trap) : State :=
  let a := agentOf code
  setCore s a (addPend (coreOf s a) t)

/-! ### Undo logging (R258 to R261) -/

/-- Bytes of a chunk. -/
def chunkSize : Nat := 0x100000

/-- The domain physical base of a context's undo area in a half (R25, R255). -/
def undoArea (s : State) (c : Context) (south : Bool) : Nat := s.ownPkg * 2 ^ 48 + if south then c.undoS else c.undoN

/-- The chunk a memory core is filling in a lap: not full (R259). -/
def chunkOf (c : Context) (mc : Nat) (south : Bool) : Option Chunk :=
  c.chunks.find? fun h => h.mc == mc && h.south == south && h.lap == c.lapId.toNat && decide (h.records.length < chunkSize / 64)

/-- The lowest-addressed free chunk of a half (R259). -/
def freeChunk (c : Context) (south : Bool) : Option Nat :=
  firstFrom (fun i => !c.chunks.any fun h => h.south == south && h.index == i) 0 (c.undoSize / chunkSize)

/-- The 64 bytes of an undo record (R259), with what stands in its reserved bytes. -/
def undoBytes (reserved : Nat) (r : UndoRecord) : List Byte :=
  toBytes 8 (r.addr % 2 ^ 48) ++ toBytes 4 r.lap ++ toBytes 4 (if r.tile.isSome then 1 else 0) ++
  toBytes 8 (match r.tile with
    | some (g, t) => g % 2 ^ 24 + t * 2 ^ 32
    | none => 0) ++ toBytes 8 reserved ++ toBytes 32 r.old.toNat

/-- Write an undo record: the reserved bytes 0x18..0x1F keep their values (R7, R259). -/
def writeUndo (s : State) (addr : Nat) (r : UndoRecord) : State := memWrite s addr (undoBytes (memRead s (addr + 0x18) 8) r)

/-- Append a record to the undo area of a half: into the memory core's chunk, or into a new one, whose bytes count as undo
use; beyond quota the writer gets UNDO_QUOTA, beyond the area the job stops (R259, R261). -/
def appendUndo (s : State) (x mc : Nat) (south : Bool) (who : Nat) (ta : Word) (r : UndoRecord) : State :=
  let c := contextOf s x
  match chunkOf c mc south with
  | some h =>
    let h' := { h with records := h.records ++ [r] }
    writeUndo (setContext s x { c with chunks := c.chunks.map fun g => if g = h then h' else g })
      (undoArea s c south + h.index * chunkSize + 64 * h.records.length) r
  | none =>
    match freeChunk c south with
    | none => stopJob s x .undoQuota
    | some i =>
      let c' := { c with chunks := c.chunks ++ [{ mc := mc, south := south, index := i, lap := c.lapId.toNat, records := [r] }],
                         undoUse := c.undoUse + chunkSize }
      let s1 := writeUndo (setContext s x c') (undoArea s c south + i * chunkSize) r
      if c'.quota < c'.undoUse then pendAt s1 who { cause := .undoQuota, addr := ta } else s1

/-- The tag value of a lap (R258). -/
def lapTag (lap : BitVec 32) : BitVec 2 := BitVec.ofNat 2 (lap.toNat % 3 + 1)

/-- Log a sector before a write to a lap-tracked page (R258). -/
def logSector (s : State) (x : Nat) (who : Nat) (ta : Word) (addr : Nat) (dup : Bool) : State :=
  let c := contextOf s x
  let sec := addr / 32
  if !c.laps || tget s.lapTags 0#2 sec == lapTag c.lapId || pkgOf addr != s.ownPkg then s
  else
    let r : UndoRecord := { addr := 32 * sec % 2 ^ 48, lap := c.lapId.toNat, tile := none,
                            old := BitVec.ofNat 256 (memRead s (32 * sec) 32), dup := dup }
    let s1 := appendUndo s x (homeOf addr) (bitAt addr 47) who ta r
    { s1 with lapTags := tset s1.lapTags 0#2 sec (lapTag c.lapId) }

/-- A write performed at its home (R258, R261): its sectors are logged first, in rising order. va gives the virtual address of
the write's first byte, none for a write-back, whose trap address is the sector. -/
def homeWrite (s : State) (x who : Nat) (e : Leaf) (va : Option Nat) (addr : Nat) (bs : List Byte) : State :=
  let secs := sortNat ((List.range bs.length).map fun i => (addr + i) / 32)
  let s1 := if leafL e then
      secs.foldl (fun t sec =>
        let first := Nat.max addr (32 * sec)
        let ta := match va with
          | some v => BitVec.ofNat 64 (v + (first - addr))
          | none => BitVec.ofNat 64 (32 * sec % 2 ^ 48)
        logSector t x who ta (32 * sec) (leafD e)) s
    else s
  memWriteDup s1 e addr bs

/-- A sector is poisoned: reading it consumes an uncorrectable error (R275). -/
def poisonedAt (s : State) (addr n : Nat) : Bool :=
  s.poisoned.any fun sec => decide (32 * sec < addr + n ∧ addr < 32 * sec + 32)

/-- The context an agent number works for. -/
def ctxOfCode (s : State) (code : Nat) : Nat := (ctxOf s (coreOf s (agentOf code))).getD 0

end Sys2Proof.Machine
end

