-- ==== Sys2Proof/Machine/Cache.lean ====
section
/-! DEFINITION. The data cache of a tile (R178 to R180, R190 to R192, R210). -/

namespace Sys2Proof.Machine

/-- The set of a virtual address: bits 7..14. -/
def setOf (va : Nat) : Nat := bits va 7 8

/-- The line under a key. -/
def lineAt (c : Core) (key : Nat) : Line := tget c.lines {} key

/-- Write a line. -/
def setLine (c : Core) (key : Nat) (l : Line) : Core := { c with lines := tset c.lines {} key l }

/-- The 32 dirty bits of a sector. -/
def sectorDirty (l : Line) (i : Nat) : BitVec 32 := l.dirty.extractLsb' (32 * i) 32

/-- The generation tag of a sector. -/
def sectorGen (l : Line) (i : Nat) : BitVec 8 := l.gens.extractLsb' (8 * i) 8

/-- No sector is filled or dirty. -/
def lineInvalid (l : Line) : Bool := l.filled == 0#4 && l.dirty == 0#128

/-- The way of a set that holds a line of the context. -/
def findWay (c : Core) (ctx va : Nat) : Option Nat :=
  firstFrom (fun key => let l := lineAt c key; !lineInvalid l && l.va == va / 128 * 128 && l.ctx == ctx) (setOf va * 16) 16

/-- The way the tree pseudo-LRU selects, from node n down (R178). -/
def plruVictim (t : BitVec 16) (n fuel : Nat) : Nat :=
  match fuel with
  | 0 => n - 16
  | fuel + 1 => plruVictim t (if t.getLsbD n then 2 * n + 1 else 2 * n) fuel

/-- The tree after a use of a way: every node on its path points away (R178). -/
def plruTouch (t : BitVec 16) (way : Nat) : BitVec 16 :=
  (List.range 4).foldl (fun t i =>
      let child := (16 + way) / 2 ^ i
      let node := child / 2
      let b : BitVec 16 := 1#16 <<< node
      if child % 2 = 1 then t &&& ~~~b else t ||| b) t

/-- An access uses a way. -/
def useWay (c : Core) (key : Nat) : Core :=
  { c with plru := tset c.plru 0#16 (key / 16) (plruTouch (tget c.plru 0#16 (key / 16)) (key % 16)) }

/-- The write-back packets of a line's dirty sectors (R180). -/
def lineWriteBacks (a : Agent) (l : Line) : List Packet :=
  (List.range 4).filterMap fun i =>
    if sectorDirty l i = 0#32 then none
    else some { src := agentCode a, addr := l.phys + 32 * i,
                kind := .writeBack (sectorDirty l i) (l.data.extractLsb' (256 * i) 256) l.leaf, ctx := l.ctx }

/-- Send packets in order. -/
def sendAll (s : State) (ps : List Packet) : State := { s with net := s.net ++ ps }

/-- The way for a new line: the lowest invalid way, otherwise the victim, whose dirty sectors are written back (R178). -/
def allocate (a : Agent) (c : Core) (ctx va : Nat) (e : Leaf) (phys : Nat) : Nat × List Packet × Core :=
  let base := setOf va * 16
  let key := (firstFrom (fun key => lineInvalid (lineAt c key)) base 16).getD
    (base + plruVictim (tget c.plru 0#16 (setOf va)) 1 4)
  let new : Line := { va := va / 128 * 128, ctx := ctx, leaf := e, phys := phys / 128 * 128 }
  (key, lineWriteBacks a (lineAt c key), setLine c key new)

/-- A load of n bytes at va hits in a line: every byte dirty, or its sector filled with the current generation (R178). -/
def lineHit (c : Core) (l : Line) (va n : Nat) : Bool :=
  let i := va % 128 / 32
  (List.range n).all (fun j => l.dirty.getLsbD (va % 128 + j)) || (l.filled.getLsbD i && sectorGen l i == c.gen)

/-- n bytes of a line. -/
def lineRead (l : Line) (va n : Nat) : Nat := bits l.data.toNat (8 * (va % 128)) (8 * n)

/-- A store's bytes in a line, marked dirty (R178). -/
def lineStore (l : Line) (va n v : Nat) : Line :=
  let o := va % 128
  let m : VWord := BitVec.ofNat 1024 ((2 ^ (8 * n) - 1) * 2 ^ (8 * o))
  let d : VWord := BitVec.ofNat 1024 (v % 2 ^ (8 * n) * 2 ^ (8 * o))
  { l with data := (l.data &&& ~~~m) ||| d, dirty := l.dirty ||| BitVec.ofNat 128 ((2 ^ n - 1) * 2 ^ o) }

/-- A bit mask with each bit widened to a byte. -/
def widen (m : BitVec 32) : BitVec 256 :=
  (List.range 32).foldl (fun r i => if m.getLsbD i then r ||| (0xFF#256 <<< (8 * i)) else r) 0#256

/-- A filled sector: the fetched bytes with the dirty bytes kept over them, tagged with gen (R178). -/
def lineFill (l : Line) (i : Nat) (gen : BitVec 8) (data : BitVec 256) : Line :=
  let keep := widen (sectorDirty l i)
  let old := l.data.extractLsb' (256 * i) 256
  let new := (data &&& ~~~keep) ||| (old &&& keep)
  let clr : VWord := ~~~(((BitVec.allOnes 256).setWidth 1024) <<< (256 * i))
  { l with data := (l.data &&& clr) ||| ((new.setWidth 1024) <<< (256 * i)),
           filled := l.filled ||| (1#4 <<< i),
           gens := (l.gens &&& ~~~(0xFF#32 <<< (8 * i))) ||| ((gen.setWidth 32) <<< (8 * i)) }

/-- A line whose dirty sectors have been written back: the masks are clear, filled sectors stay (R179, R200). -/
def lineClean (l : Line) : Line := if l.filled = 0#4 then {} else { l with dirty := 0#128 }

/-- Every dirty sector of a core's cache is written back; a sector that was not filled becomes invalid (R179). -/
def writeBackAll (a : Agent) (c : Core) : List Packet × Core :=
  (c.lines.flatMap fun e => lineWriteBacks a e.2,
   { c with lines := c.lines.foldl (fun t e => tset t {} e.1 (lineClean e.2)) [] })

/-- The whole cache is invalidated; the replacement trees are cleared (R178, R192). -/
def invalidateAll (c : Core) : Core := { c with lines := [], plru := [] }

/-- The generation advance of GENBUMP, ACQ, wakes and placements (R179). -/
def genAdvance (c : Core) : Core :=
  let g := c.gen + 1#8
  let stale (t : BitVec 8) : Bool := (g == 0#8 && decide (t.toNat < 128)) || (g == 0x80#8 && decide (128 ≤ t.toNat))
  let c1 := { c with gen := g }
  if g = 0#8 ∨ g = 0x80#8 then
    { c1 with lines := c.lines.foldl (fun t e =>
        let l := e.2
        let f := (List.range 4).foldl (fun f i => if l.filled.getLsbD i && stale (sectorGen l i) then f &&& ~~~(1#4 <<< i) else f) l.filled
        let l' := { l with filled := f }
        tset t {} e.1 (if lineInvalid l' then {} else l')) [] }
  else c1

end Sys2Proof.Machine
end

