-- ==== Sys2Proof/Machine/LoadStore.lean ====
section
/-! DEFINITION. Loads and stores: LD, LDNF, ST, JTAB, LDL, STL (R81, R108, R166 to R170, R375, R376, R378 to R380, R409,
R410). -/

namespace Sys2Proof.Machine

/-! ### Shapes over the whole state -/

/-- A meaning that acts outside its core: the state without the core's own changes, and how the issue comes out. -/
abbrev SRes := State × Res

/-- `interlock` for such a meaning. -/
def interlockS (s : State) (k : CoreKind) (c : Core) (reads dests : List Reg) (r : SRes) : SRes :=
  match interlock k c reads dests (.done c) with
  | .done _ => r
  | x => (s, x)

/-- Go on with the value of a scalar source. -/
def withXS (s : State) (k : CoreKind) (c : Core) (a : Reg) (f : Word → Core → SRes) : SRes :=
  match readX k c a with
  | .ok (x, c') => f x c'
  | .error w => (s, .freeze w)

/-- A precise cause. -/
def raiseS (s : State) (c : Cause) (addr : Word := 0) : SRes := (s, raise c addr)

/-- An error consumed in what an instruction has read becomes due at its core when it completes (R271). -/
def consumeS (t : Option Trap) (r : SRes) : SRes := (r.1, withPend t.toList r.2)

/-- An address is a multiple of a width in bytes. -/
def aligned (addr : Word) (n : Nat) : Bool := addr.toNat % n == 0

/-! ### Global accesses -/

/-- Ask a home or owner and wait for the answer (R94). -/
def askHome (s : State) (c : Core) (addr : Nat) (p : PacketKind) (w : Wait := .access) : SRes :=
  (send s { src := agentCode s.cur, addr := addr, kind := p, ctx := (ctxOf s c).getD 0 }, .block c w)

/-- The translation of an access: a miss asks the translation service and waits (R212), a fault goes to onFail. -/
def withPhys (s : State) (k : CoreKind) (c : Core) (ac : AccessClass) (va : Word) (onFail : Trap → Core → SRes)
    (f : Leaf → Nat → Core → SRes) : SRes :=
  match translate s k c ac va with
  | .ok e phys c1 => f e phys c1
  | .miss => (send s (missPacket s s.cur c ac.kind va 0), .block c .tlbMiss)
  | .fail x => onFail { cause := x, addr := va } c

/-- The next answer to an access of the instruction in progress, if it has come. -/
def withReply (c : Core) (onFail : Trap → Core → SRes) (f : Word → Core → SRes) (ask : SRes) : SRes :=
  match c.replies with
  | .ok w :: r => f w { c with replies := r }
  | .fail t :: r => onFail t { c with replies := r }
  | [] => ask

/-- A load of n bytes through the cache: on a hit its value; on a miss the sector is asked for, in the line's way (R178). -/
def cachedLoad (s : State) (c : Core) (e : Leaf) (phys va n : Nat) (f : Nat → Core → SRes) : SRes :=
  let x := (ctxOf s c).getD 0
  let fill (key : Nat) : PacketKind := .fill key (va % 128 / 32) e
  match findWay c x va with
  | some key =>
    if lineHit c (lineAt c key) va n then f (lineRead (lineAt c key) va n) (useWay c key)
    else askHome s c (phys / 32 * 32) (fill key)
  | none =>
    match allocate s.cur c x va e phys with
    | (key, ps, c1) => askHome (sendAll s ps) c1 (phys / 32 * 32) (fill key)

/-- A scalar load of n bytes at a global virtual address, after its alignment check (R188, R378). -/
def globalLoad (s : State) (k : CoreKind) (c : Core) (kind : MissKind) (va : Word) (n : Nat) (onFail : Trap → Core → SRes)
    (f : Nat → Core → SRes) : SRes :=
  withReply c (fun t => onFail { t with addr := va }) (fun w c1 => f w.toNat c1)
    (withPhys s k c { need := .r, kind := kind } va onFail fun e phys c1 =>
      if unroutable s phys then onFail { cause := .remoteLost, addr := va } c1
      else if leafM e || k != .tile then askHome s c1 phys (.load n e)
      else cachedLoad s c1 e phys va.toNat n f)

/-- Raise a fault of an access. -/
def trapS (s : State) (t : Trap) (_ : Core) : SRes := (s, .trap t)

/-- LD (R378). -/
def execLd (d a : Reg) (w : BitVec 2) (nat : Bool) (imm : BitVec 13) (s : State) : Out :=
  runState s fun k c =>
    interlockS s k c [a] [d] (withXS s k c a fun x c1 =>
      let va := x + sext imm
      if !aligned va (widthBytes w) then raiseS s .align va
      else globalLoad s k c1 .load va (widthBytes w) (trapS s) fun v c2 =>
        (s, doneX k c2 d (extendLoad w nat (BitVec.ofNat 64 v))))

/-- The causes that LDNF suppresses (R380). -/
def suppressed (c : Cause) : Bool := c == .page || c == .perm || c == .cid || c == .remoteLost

/-- LDNF: a fault other than ALIGN writes 0 and sets the next bit of nf_stat (R101, R380). -/
def execLdnf (d a : Reg) (w : BitVec 2) (nat : Bool) (imm : BitVec 13) (s : State) : Out :=
  runState s fun k c =>
    interlockS s k c [a] [d] (withXS s k c a fun x c1 =>
      let va := x + sext imm
      if !aligned va (widthBytes w) then raiseS s .align va
      else globalLoad s k c1 .load va (widthBytes w)
        (fun t c2 => if suppressed t.cause then (s, doneX k (countLdnf c2 true) d 0#64) else (s, .trap t))
        fun v c2 => (s, doneX k (countLdnf c2 false) d (extendLoad w nat (BitVec.ofNat 64 v))))

/-- A posted access: sent, or reported lost where no port leads to its package (R193, R218, R295). -/
def post (s : State) (addr : Nat) (va : Word) (p : PacketKind) : State :=
  if unroutable s addr then
    send s { src := agentCode s.cur, addr := addr, kind := .lost (agentCode s.cur) va.toNat, ctx := (ctxOf s (coreOf s s.cur)).getD 0 }
  else send s { src := agentCode s.cur, addr := addr, kind := p, ctx := (ctxOf s (coreOf s s.cur)).getD 0 }

/-- A posted access fails in its translation: REMOTE_LOST is reported as a deferred failure, any other cause is raised (R218). -/
def postFail (s : State) (t : Trap) (c : Core) : SRes :=
  if t.cause = .remoteLost then
    (send s { src := agentCode s.cur, addr := 0, kind := .lost (agentCode s.cur) t.addr.toNat, ctx := (ctxOf s c).getD 0 }, .done c)
  else (s, .trap t)

/-- ST (R409): posted to the home on a memory-side page and from a core without a cache, otherwise into the cache. -/
def execSt (src a : Reg) (w : BitVec 2) (imm : BitVec 14) (s : State) : Out :=
  runState s fun k c =>
    interlockS s k c [src, a] [] (withXS s k c src fun v c1 => withXS s k c1 a fun x c2 =>
      let va := x + sext imm
      let n := widthBytes w
      if !aligned va n then raiseS s .align va
      else withReply c2 (trapS s) (fun _ c3 => (s, .done c3))
        (withPhys s k c2 { need := .w, kind := .store } va (postFail s) fun e phys c3 =>
          if leafM e || k != .tile then (post s phys va (.store n (zeroExtendWidth w v) e va.toNat), .done c3)
          else
            let x := (ctxOf s c3).getD 0
            match findWay c3 x va.toNat with
            | some key =>
              (s, .done (useWay (setLine c3 key (lineStore (lineAt c3 key) va.toNat n v.toNat)) key))
            | none =>
              match allocate s.cur c3 x va.toNat e phys with
              | (key, ps, c4) =>
                (sendAll s ps, .done (useWay (setLine c4 key (lineStore (lineAt c4 key) va.toNat n v.toNat)) key))))

/-- JTAB (R108, R375, R376): any fault of the entry read raises JTAB with the cause of LD.W as its sub-cause. -/
def execJtab (a b : Reg) (n1 : BitVec 8) (s : State) : Out :=
  runState s fun k c =>
    if armedEnd c c.pc then raiseS s .illegal
    else interlockS s k c [a, b] [] (withXS s k c a fun x c1 => withXS s k c1 b fun y c2 =>
      if n1.toNat < x.toNat then (s, .jump c2 (c.pc + 4#14) false)
      else
        let va := y + 4#64 * x
        let fail (t : Trap) (_ : Core) : SRes := (s, .trap { cause := .jtab, addr := va, sub := t.cause.code })
        if !aligned va 4 then fail { cause := .align } c2
        else globalLoad s k c2 .jtab va 4 fail fun v c3 =>
          let t : Int := (c.pc.toNat : Int) + 4 * sgn 32 v
          if inSlot t then (s, .jump c3 (asPc t) true) else raiseS s .illegal (asWord t))

/-! ### Tile-space accesses (R166, R379, R410) -/

/-- Where a tile-space address leads: the issuing core's own scratch, another tile of the gang, or nowhere (R166). -/
inductive TileDest where
  | here (off : Nat)
  | remote (tile : Nat) (off : Nat)
  | bad
  deriving DecidableEq, Repr

/-- The first lane and the number of lanes of a core's gang. -/
def gangSpan (s : State) (c : Core) : Nat × Nat :=
  match gangOf s c with
  | some g => (g.first, g.lanes)
  | none => (0, 0)

/-- Decode the target of a tile-space address (R166): a core without a switch uses its own scratch whatever the target. -/
def tileDest (s : State) (a : Agent) (c : Core) (t : BitVec 32) : TileDest :=
  match a with
  | .tile n =>
    let g := gangSpan s c
    let i := tileTarget t
    if i = 0xFFF ∨ i = n - 64 * g.1 then .here (tileOffset t)
    else if i < 64 * g.2 then .remote (64 * g.1 + i) (tileOffset t)
    else .bad
  | _ => .here (tileOffset t)

/-- LDL (R379). -/
def execLdl (d a : Reg) (w : BitVec 2) (nat : Bool) (imm : BitVec 13) (s : State) : Out :=
  runState s fun k c =>
    interlockS s k c [a] [d] (withXS s k c a fun x c1 =>
      let t := tileAddr (x + sext imm)
      let n := widthBytes w
      let done (v : Nat) (c2 : Core) : Res := doneX k c2 d (extendLoad w nat (BitVec.ofNat 64 v))
      if tileOffset t % n != 0 then raiseS s .align (zext t)
      else
        match tileDest s s.cur c1 t with
        | .bad => raiseS s .boundary (zext t)
        | .here o =>
          match localBound s k c1 o n with
          | some tr => (s, .trap { tr with addr := zext t })
          | none => (s, localRead c1 o n fun bs c2 => done (ofBytes bs) c2)
        | .remote tile o =>
          if undoReserved s k c1 && decide (undoBase ≤ o) then raiseS s .boundary (zext t)
          else withReply c1 (trapS s) (fun v c2 => (s, done v.toNat (readEvent c2 o)))
            (askHome s c1 t.toNat (.remote (agentCode (.tile tile)) false n 0#64)))

/-- STL (R410). -/
def execStl (src a : Reg) (w : BitVec 2) (imm : BitVec 14) (s : State) : Out :=
  runState s fun k c =>
    interlockS s k c [src, a] [] (withXS s k c src fun v c1 => withXS s k c1 a fun x c2 =>
      let t := tileAddr (x + sext imm)
      let n := widthBytes w
      if tileOffset t % n != 0 then raiseS s .align (zext t)
      else
        match tileDest s s.cur c2 t with
        | .bad => raiseS s .boundary (zext t)
        | .here o =>
          match localBound s k c2 o n with
          | some tr => (s, .trap { tr with addr := zext t })
          | none =>
            (s, localWrite s k c2 ((List.range n).map (o + ·)) (toBytes n v.toNat) fun c3 => .done c3)
        | .remote tile o =>
          if undoReserved s k c2 && decide (undoBase ≤ o) then raiseS s .boundary (zext t)
          else
            (send s { src := agentCode s.cur, addr := t.toNat,
                      kind := .remote (agentCode (.tile tile)) true n (zeroExtendWidth w v) }, .done c2))

end Sys2Proof.Machine
end

