-- ==== Sys2Proof/Machine/Atomic.lean ====
section
/-! DEFINITION. Atomics: the members of AMO, CAS, and their one step at the home (R82, R83, R193, R194, R335 to R337, R343). -/

namespace Sys2Proof.Machine

/-- A BF16 lane of an atomic sum (R336). -/
def bf16Lane (old x i : Nat) : Nat :=
  roundF bf16 .rne false ((decodeF bf16 (bits old (16 * i) 16)).add (decodeF bf16 (bits x (16 * i) 16)))

/-- The new value of an n-byte atomic, none where nothing is written (R82, R83, R336, R343). -/
def atomicNew (op : AtomicOp) (n : Nat) (old x cmp : Nat) : Option Nat :=
  match op with
  | .add => some ((old + x) % 2 ^ (8 * n))
  | .min => some (if sgn (8 * n) old < sgn (8 * n) x then old else x)
  | .max => some (if sgn (8 * n) old < sgn (8 * n) x then x else old)
  | .minn => some (if old < x then old else x)
  | .maxn => some (if old < x then x else old)
  | .and => some (old &&& x)
  | .or => some (old ||| x)
  | .xor => some (old ^^^ x)
  | .swap => some x
  | .fadd => some (roundF fp32 .rne false ((decodeF fp32 old).add (decodeF fp32 x)))
  | .faddBf16x4 =>
    some (bf16Lane old x 0 + 2 ^ 16 * bf16Lane old x 1 + 2 ^ 32 * bf16Lane old x 2 + 2 ^ 48 * bf16Lane old x 3)
  | .incb => some (if x ≤ old then 0 else old + 1)
  | .cas => if old = cmp then some x else none

/-- The old value of an n-byte atomic as it is written to xd (R335, R343). -/
def atomicOld (op : AtomicOp) (n : Nat) (old : Word) : Word :=
  if n = 8 then old
  else
    match op with
    | .minn => zeroExtendWidth 2#2 old
    | .maxn => zeroExtendWidth 2#2 old
    | .incb => zeroExtendWidth 2#2 old
    | .fadd => zeroExtendWidth 2#2 old
    | _ => signExtendWidth 2#2 old

/-- An atomic of n bytes at a core: ALIGN, the causes of R211, then the request to the home (R336, R337, R343). Without a
destination it is posted. -/
def atomicAccess (s : State) (k : CoreKind) (c : Core) (op : AtomicOp) (n : Nat) (d : Reg) (va x cmp : Word)
    (returning : Bool) : SRes :=
  if !aligned va n then raiseS s .align va
  else
    withReply c (fun t => trapS s { t with addr := va }) (fun old c1 => (s, doneX k c1 d (atomicOld op n old)))
      (withPhys s k c { need := .rw, memSide := true, kind := .atomic } va (if returning then trapS s else postFail s) fun e phys c1 =>
        let p : PacketKind := .atomic op n x cmp returning e va.toNat
        if returning then
          if unroutable s phys then raiseS s .remoteLost va else askHome s c1 phys p
        else (post s phys va p, .done c1))

/-- An AMO member (R335 to R337). -/
def amo (op : AtomicOp) (n : Nat) (d a b : Reg) (s : State) : Out :=
  runState s fun k c =>
    interlockS s k c [a, b] [d] (withXS s k c a fun va c1 => withXS s k c1 b fun x c2 =>
      atomicAccess s k c2 op n d va (if n = 4 then zeroExtendWidth 2#2 x else x) 0#64 (d != 0#5))

/-- A CAS member (R343): d names the comparand and the destination. -/
def compareSwap (n : Nat) (d a b : Reg) (s : State) : Out :=
  runState s fun k c =>
    interlockS s k c [a, b, d] [d] (withXS s k c a fun va c1 => withXS s k c1 b fun x c2 => withXS s k c2 d fun y c3 =>
      let w (v : Word) : Word := if n = 4 then zeroExtendWidth 2#2 v else v
      atomicAccess s k c3 .cas n d va (w x) (w y) true)

/-- AMO.ADD.W. -/
def execAmoAddW (d a b : Reg) (s : State) : Out := amo .add 4 d a b s
/-- AMO.ADD.D. -/
def execAmoAddD (d a b : Reg) (s : State) : Out := amo .add 8 d a b s
/-- AMO.MIN.W. -/
def execAmoMinW (d a b : Reg) (s : State) : Out := amo .min 4 d a b s
/-- AMO.MIN.D. -/
def execAmoMinD (d a b : Reg) (s : State) : Out := amo .min 8 d a b s
/-- AMO.MAX.W. -/
def execAmoMaxW (d a b : Reg) (s : State) : Out := amo .max 4 d a b s
/-- AMO.MAX.D. -/
def execAmoMaxD (d a b : Reg) (s : State) : Out := amo .max 8 d a b s
/-- AMO.MINN.W. -/
def execAmoMinnW (d a b : Reg) (s : State) : Out := amo .minn 4 d a b s
/-- AMO.MINN.D. -/
def execAmoMinnD (d a b : Reg) (s : State) : Out := amo .minn 8 d a b s
/-- AMO.MAXN.W. -/
def execAmoMaxnW (d a b : Reg) (s : State) : Out := amo .maxn 4 d a b s
/-- AMO.MAXN.D. -/
def execAmoMaxnD (d a b : Reg) (s : State) : Out := amo .maxn 8 d a b s
/-- AMO.AND.D. -/
def execAmoAndD (d a b : Reg) (s : State) : Out := amo .and 8 d a b s
/-- AMO.OR.D. -/
def execAmoOrD (d a b : Reg) (s : State) : Out := amo .or 8 d a b s
/-- AMO.XOR.D. -/
def execAmoXorD (d a b : Reg) (s : State) : Out := amo .xor 8 d a b s
/-- AMO.SWAP.W. -/
def execAmoSwapW (d a b : Reg) (s : State) : Out := amo .swap 4 d a b s
/-- AMO.SWAP.D. -/
def execAmoSwapD (d a b : Reg) (s : State) : Out := amo .swap 8 d a b s
/-- AMO.FADD.F32. -/
def execAmoFaddF32 (d a b : Reg) (s : State) : Out := amo .fadd 4 d a b s
/-- AMO.FADD.BF16X4. -/
def execAmoFaddBf16x4 (d a b : Reg) (s : State) : Out := amo .faddBf16x4 8 d a b s
/-- AMO.INCB.W. -/
def execAmoIncbW (d a b : Reg) (s : State) : Out := amo .incb 4 d a b s
/-- CAS.W. -/
def execCasW (d a b : Reg) (s : State) : Out := compareSwap 4 d a b s
/-- CAS.D. -/
def execCasD (d a b : Reg) (s : State) : Out := compareSwap 8 d a b s

end Sys2Proof.Machine
end

