-- ==== Sys2Proof/Machine/Window.lean ====
section
/-! DEFINITION. The Starter's shared-state window (R325, R326): what its bytes read as and what a store to it changes. -/

namespace Sys2Proof.Machine

/-- The record of queue q. -/
def queueOf (s : State) (q : Nat) : Queue := tget s.starter.queues {} q

/-- Write the record of queue q. -/
def setQueue (s : State) (q : Nat) (r : Queue) : State :=
  { s with starter := { s.starter with queues := tput s.starter.queues q r } }

/-- The 16 bytes of a queue's control record (R220). -/
def qctlBytes (r : Queue) : List Byte :=
  toBytes 2 r.ctx ++ toBytes 2 (if r.bound then 1 else 0) ++ toBytes 4 r.head.toNat ++ toBytes 4 r.tail.toNat ++ toBytes 4 0

/-- A byte of a table of 32-byte records. -/
def recordByte (t : Tbl (BitVec 256)) (o : Nat) : Byte := (tget t 0#256 (o / 32)).extractLsb' (8 * (o % 32)) 8

/-- Copy A of a journal entry holds an uncorrectable error (R325). -/
def entryBad (l : List Nat) (i : Nat) : Bool := l.any fun d => d / 4 == i

/-- A byte of the window; a JA entry that holds an uncorrectable error is answered from JB (R325). -/
def windowByte (s : State) (o : Nat) : Byte :=
  let st := s.starter
  if 0x30000 ≤ o then recordByte st.img (o - 0x30000)
  else if 0x20000 ≤ o then recordByte st.jb (o - 0x20000)
  else if 0x10000 ≤ o then recordByte (if entryBad st.jaBad ((o - 0x10000) / 32) then st.jb else st.ja) (o - 0x10000)
  else if 0x2000 ≤ o then 0#8
  else if 0x1000 ≤ o then (qctlBytes (queueOf s ((o - 0x1000) / 16))).getD (o % 16) 0#8
  else if 0x140 ≤ o then 0#8
  else if 0x120 ≤ o then st.app.extractLsb' (8 * (o - 0x120)) 8
  else if 0x100 ≤ o then st.pend.extractLsb' (8 * (o - 0x100)) 8
  else if 0x60 ≤ o then 0#8
  else if 0x40 ≤ o then
    match st.notices with
    | n :: _ => n.bytes.extractLsb' (8 * (o - 0x40)) 8
    | [] => 0#8
  else if 0x18 ≤ o ∧ o < 0x1C then st.jtail.extractLsb' (8 * (o - 0x18)) 8
  else 0#8

/-- n bytes of the window as a number. -/
def windowRead (s : State) (o n : Nat) : Nat := ofBytes ((List.range n).map fun i => windowByte s (o + i))

/-- A number with byte i replaced. -/
def setByte {w : Nat} (v : BitVec w) (i : Nat) (b : Byte) : BitVec w :=
  (v &&& ~~~(((0xFF#8).setWidth w) <<< (8 * i))) ||| ((b.setWidth w) <<< (8 * i))

/-- A table of 32-byte records with a byte replaced. -/
def setRecordByte (t : Tbl (BitVec 256)) (o : Nat) (b : Byte) : Tbl (BitVec 256) :=
  tset t 0#256 (o / 32) (setByte (tget t 0#256 (o / 32)) (o % 32) b)

/-- Store a byte of the window: the journal copies, the images and JTAIL take it; the other places are read only. -/
def windowPut (st : Starter) (o : Nat) (b : Byte) : Starter :=
  if 0x30000 ≤ o then { st with img := setRecordByte st.img (o - 0x30000) b }
  else if 0x20000 ≤ o then { st with jb := setRecordByte st.jb (o - 0x20000) b }
  else if 0x10000 ≤ o then { st with ja := setRecordByte st.ja (o - 0x10000) b }
  else if 0x18 ≤ o ∧ o < 0x1C then { st with jtail := setByte st.jtail (o - 0x18) b }
  else st

/-- Store bytes from an offset upward. -/
def windowPuts (st : Starter) (o : Nat) (bs : List Byte) : Starter :=
  match bs with
  | [] => st
  | b :: r => windowPuts (windowPut st o b) (o + 1) r

/-- A store of a whole dword of a journal copy leaves no error in it. -/
def windowMend (st : Starter) (o n : Nat) : Starter :=
  if n = 8 ∧ 0x10000 ≤ o ∧ o < 0x30000 then
    let d := o % 0x10000 / 8
    if o < 0x20000 then { st with jaBad := st.jaBad.filter (· != d) } else { st with jbBad := st.jbBad.filter (· != d) }
  else st

/-- A store of n bytes to the window; a store to ISSUE makes the response unit perform that entry next (R325). -/
def windowWrite (s : State) (o n v : Nat) : State :=
  if o = 0 then urgent s [.event (.issue (v % 2 ^ 32))]
  else { s with starter := windowMend (windowPuts s.starter o (toBytes n v)) o n }

end Sys2Proof.Machine
end

