-- ==== Sys2Proof/Machine/Net.lean ====
section
/-! DEFINITION. What becomes of a packet in flight: accesses at their homes and owners, answers, refusals, failure reports,
fills of caches and TLBs, messages (R94, R169 to R171, R178, R180, R193, R194, R205, R212, R213, R218, R351, R354). Each event
concerns the packet that State.pick names, and changes nothing unless that packet is of its kind and may be served now. -/

namespace Sys2Proof.Machine

/-! ### Packets -/

/-- The access is one that a home memory core performs (R188). -/
def atHome (k : PacketKind) : Bool :=
  match k with
  | .fill _ _ _ => true
  | .writeBack _ _ _ => true
  | .load _ _ => true
  | .store _ _ _ _ => true
  | .atomic _ _ _ _ _ _ _ => true
  | _ => false

/-- The agent a packet of the tile space or a message goes to. -/
def destOf (k : PacketKind) : Option Nat :=
  match k with
  | .remote dst _ _ _ => some dst
  | .message dst _ => some dst
  | _ => none

/-- The address that the answer of a tile to a remote access carries: beyond every domain physical address. -/
def tileReply (addr : Nat) : Nat := 2 ^ 60 + addr

/-- What a packet was captured for, while it has not been delivered: its gang, and the member of a message (R250). -/
def flitOf (k : PacketKind) : Option (Nat × Option Nat) :=
  match k with
  | .incoming g m _ => some (g, some m)
  | .notice g _ => some (g, none)
  | _ => none

/-- The packet that brings a captured flit has this added to its port (R250). -/
def capturedMark : Nat := 64

/-- A flit that has come earlier by the same port keeps another waiting: a captured one every flit for its gang, any message those for
its member (R250). -/
def flitBefore (q p : Packet) : Bool :=
  match flitOf q.kind, flitOf p.kind with
  | some (g, m), some (h, n) => g == h && (decide (capturedMark ≤ q.addr) || m == n)
  | _, _ => false

/-- Two reports that one source sends: refusals and answers of one owner, failure reports of one package, fills of one service core
for one requester (R205, R413); flits that come by one port (R250). -/
def sameReporter (q p : Packet) : Bool :=
  match q.kind, p.kind with
  | .refusal _, .refusal _ => q.addr / 2 ^ 20 == p.addr / 2 ^ 20
  | .refusal _, .reply _ _ => decide (2 ^ 60 ≤ p.addr) && q.addr / 2 ^ 20 == (p.addr - 2 ^ 60) / 2 ^ 20
  | .lost _ _, .lost _ _ => pkgOf q.addr == pkgOf p.addr
  | .tlbFill m _, .tlbFill n _ => m.req == n.req
  | _, _ => flitBefore q p

/-- An earlier packet q of the same source keeps p waiting: an access to the same sector at a home (R193), an access to the
same owner or a message to the same agent (R170, R205, R354), an earlier report of the same reporter (R205). -/
def blocksPacket (q p : Packet) : Bool :=
  q.src == p.src &&
  ((atHome q.kind && atHome p.kind && q.addr / 32 == p.addr / 32) || sameReporter q p ||
   (match destOf q.kind, destOf p.kind with
    | some a, some b => a == b
    | _, _ => false))

/-- The packet that the event concerns, when nothing sent before it keeps it waiting. -/
def picked (s : State) : Option Packet :=
  match s.net[s.pick]? with
  | some p => if (s.net.take s.pick).any fun q => blocksPacket q p then none else some p
  | none => none

/-- The packet leaves the network. -/
def unsend (s : State) : State := { s with net := s.net.eraseIdx s.pick }

/-- An answer reaches the core that waits for it: it is tried again. -/
def answer (s : State) (code : Nat) (r : Reply) : State :=
  let a := agentOf code
  let c := coreOf s a
  setCore s a { c with replies := c.replies ++ [r], blocked := false }

/-- Send an answer. -/
def respond (s : State) (code addr : Nat) (r : Reply) : State :=
  send s { src := code, addr := addr, kind := .reply code r }

/-- The reader of a poisoned sector consumes an uncorrectable error (R271, R275). -/
def consume (s : State) (code addr n : Nat) : State :=
  if poisonedAt s addr n then pendAt s code { cause := .ue, addr := BitVec.ofNat 64 (addr / 32 * 32) } else s

/-! ### At the home -/

/-- A load's data reach a core with err_inject of kind 0 (R321). -/
def fillEvent (c : Core) (addr : Nat) : Core :=
  match injectEvent c 0 with
  | (true, c') => addPend c' { cause := .ue, addr := BitVec.ofNat 64 (addr / 32 * 32) }
  | (false, c') => c'

/-- Read n bytes at their home: HBM, or the Starter's shared state (R325). -/
def homeRead (s : State) (addr n : Nat) : Nat :=
  if windowBase ≤ addr then windowRead s (addr - windowBase) n else memRead s addr n

/-- A scalar load of a memory core passes its err_inject (R321). -/
def loadEvent (s : State) (code addr : Nat) : State :=
  match agentOf code with
  | .mem k => setCore s (.mem k) (fillEvent (coreOf s (.mem k)) addr)
  | _ => s

/-- A store of n bytes performed at its home (R193, R258). -/
def homeStore (s : State) (ctx src : Nat) (e : Leaf) (va addr n v : Nat) : State :=
  if windowBase ≤ addr then windowWrite s (addr - windowBase) n v
  else homeWrite s ctx src e (some va) addr (toBytes n v)

/-- A read of n bytes at an address meets a JA entry that holds an uncorrectable error in both copies: the Starter stops (R236, R325). -/
def journalRead (s : State) (addr n : Nat) : State :=
  let d := (addr - windowBase - 0x10000) / 8
  if windowBase + 0x10000 ≤ addr && decide (addr + n ≤ windowBase + 0x20000) && entryBad s.starter.jaBad (d / 4) &&
      entryBad s.starter.jbBad (d / 4) && !s.starter.stopped then urgent s [.upset (.journal false d)]
  else s

/-- MEMSIDE_ACCESS (R193): a load answers, a store is performed. -/
def execMemsideAccess (s : State) : Out :=
  match picked s with
  | some p =>
    match p.kind with
    | .load n _ =>
      let s1 := journalRead (loadEvent (consume (unsend s) p.src p.addr n) p.src p.addr) p.addr n
      .next (respond s1 p.src p.addr (.ok (BitVec.ofNat 64 (homeRead s p.addr n))))
    | .store n v e va => .next (homeStore (unsend s) p.ctx p.src e va p.addr n v.toNat)
    | _ => .next s
  | none => .next s

/-- HOME_ATOMIC (R82, R83, R194, R336, R343): read, combine and write in one step. -/
def execHomeAtomic (s : State) : Out :=
  match picked s with
  | some p =>
    match p.kind with
    | .atomic op n x cmp returning e va =>
      let s1 := consume (unsend s) p.src p.addr n
      let old := homeRead s p.addr n
      let s2 := match atomicNew op n old x.toNat cmp.toNat with
        | some v => homeStore s1 p.ctx p.src e va p.addr n v
        | none => s1
      .next (if returning then respond s2 p.src p.addr (.ok (BitVec.ofNat 64 old)) else s2)
    | _ => .next s
  | none => .next s

/-- CACHE_FILL (R178): the home answers with the sector's 32 bytes. -/
def execCacheFill (s : State) : Out :=
  match picked s with
  | some p =>
    match p.kind with
    | .fill line sector _ =>
      .next (send (unsend s)
        { src := p.src, addr := p.addr,
          kind := .fillReply p.src line sector (BitVec.ofNat 256 (memRead s p.addr 32)) (poisonedAt s p.addr 32) })
    | _ => .next s
  | none => .next s

/-- Write the masked bytes of a sector, and of its duplicate. -/
def maskedWrite (s : State) (e : Leaf) (addr : Nat) (mask : BitVec 32) (data : BitVec 256) : State :=
  if mask = BitVec.allOnes 32 then memWriteDup s e addr (toBytes 32 data.toNat)
  else (List.range 32).foldl (fun t i =>
    if mask.getLsbD i then memWriteDup t e (addr + i) [data.extractLsb' (8 * i) 8] else t) s

/-- A write through an entry fails at its home: another package, whose incarnation has advanced or to which no port leads (R217,
R218, R295). -/
def leafLost (s : State) (e : Leaf) : Bool :=
  leafPkg e != s.ownPkg && (leafInc e != incarnation s (leafPkg e) || tget s.routes 0#24 (leafPkg e) == 0#24)

/-- The virtual address that an entry translates to a domain physical address. -/
def vaOf (e : Leaf) (phys : Nat) : Nat := leafVtag e * 4096 + (phys - (leafPkg e * 2 ^ 48 + leafFrame e * 4096))

/-- A sector write-back performed at its home. -/
def writeSector (s : State) (ctx src : Nat) (e : Leaf) (addr : Nat) (mask : BitVec 32) (data : BitVec 256) : State :=
  let s1 := if leafL e then logSector s ctx src (BitVec.ofNat 64 (addr % 2 ^ 48)) addr (leafD e) else s
  maskedWrite s1 e addr mask data

/-- A release of this scope covers an access to another package: a write-back from scope 1 on, every other from scope 2 on (R38). -/
def coversFar (scope : Nat) (k : PacketKind) : Bool :=
  match k with
  | .writeBack _ _ _ => decide (1 ≤ scope)
  | _ => decide (2 ≤ scope)

/-- An access that the release of its baton covers fails: the release fails (R39). -/
def loseRelease (s : State) (p : Packet) : State :=
  match p.rel.bind fun n => (tfind s.starter.batons n).map fun b => (n, b) with
  | some (n, b) =>
    if coversFar (b.bytes.extractLsb' 0x200 8).toNat p.kind then
      { s with starter := { s.starter with batons := tput s.starter.batons n { b with lost := true } } }
    else s
  | none => s

/-- WRITE_BACK (R180, R191, R218, R258): the home writes the masked bytes only; a write-back that fails is reported. -/
def execWriteBack (s : State) : Out :=
  match picked s with
  | some p =>
    match p.kind with
    | .writeBack mask data e =>
      if leafLost s e then .next (loseRelease (send (unsend s) { p with kind := .lost p.src (vaOf e p.addr) }) p)
      else .next (writeSector (unsend s) p.ctx p.src e p.addr mask data)
    | _ => .next s
  | none => .next s

/-! ### Accesses of one source in its issue order (R193) -/

/-- A posted write on its way, performed at its home. -/
def performPosted (s : State) (p : Packet) : State :=
  match p.kind with
  | .writeBack mask data e => writeSector s p.ctx p.src e p.addr mask data
  | .store n v e va => homeStore s p.ctx p.src e va p.addr n v.toNat
  | .atomic op n x cmp _ e va =>
    match atomicNew op n (homeRead s p.addr n) x.toNat cmp.toNat with
    | some v => homeStore s p.ctx p.src e va p.addr n v
    | none => s
  | _ => s

/-- A posted write of a source to a byte of addr .. addr + n − 1's sectors, through an entry that has not failed. -/
def postedAt (s : State) (code addr n : Nat) (p : Packet) : Bool :=
  p.src == code && decide (addr / 32 ≤ p.addr / 32 ∧ p.addr / 32 ≤ (addr + n - 1) / 32) && match p.kind with
    | .writeBack _ _ e | .store _ _ e _ => !leafLost s e
    | .atomic _ _ _ _ returning e _ => !returning && !leafLost s e
    | _ => false

/-- What a source has posted to a range is performed before an access that one of its units makes there at once (R193). -/
def performOlder (s : State) (code addr n : Nat) : State :=
  (s.net.filter (postedAt s code addr n)).foldl performPosted
    { s with net := s.net.filter fun p => !postedAt s code addr n p }

/-! ### Answers -/

/-- ACCESS_RESPONSE (R94): the answer reaches its core; a fill's bytes go into the line first (R178). -/
def execAccessResponse (s : State) : Out :=
  match picked s with
  | some p =>
    match p.kind with
    | .reply dst r =>
      .next (answer (unsend s) dst r)
    | .fillReply dst line sector data bad =>
      let a := agentOf dst
      let c := coreOf s a
      let l := lineAt c line
      let c1 := if l.phys + 32 * sector == p.addr && leafV l.leaf then
          useWay (setLine c line (lineFill l sector c.gen data)) line
        else c
      let c2 := fillEvent { c1 with blocked := false } p.addr
      let c3 := if bad then addPend c2 { cause := .ue, addr := BitVec.ofNat 64 p.addr } else c2
      .next (setCore (unsend s) a c3)
    | _ => .next s
  | none => .next s

/-- POSTED_REFUSAL (R169): REFUSED becomes due at the sender. -/
def execPostedRefusal (s : State) : Out :=
  match picked s with
  | some p =>
    match p.kind with
    | .refusal dst =>
      .next (pendAt (unsend s) dst { cause := .refused, addr := BitVec.ofNat 64 p.addr, posted := true })
    | _ => .next s
  | none => .next s

/-- A report is one for the release of a baton: that of the gang that sent the access, once the core has finished (R38, R39). -/
def reportRelease (s : State) (p : Packet) (c : Core) : State :=
  loseRelease s { p with rel := if p.rel.isSome then p.rel else (gangOf s c).map (·.baton) }

/-- DEFERRED_FAILURE_REPORT (R218): held until a fence, REL, a hurdle or FINISH; for a core that has finished, or whose gang has left
its lanes, it is the release's. -/
def execDeferredFailureReport (s : State) : Out :=
  match picked s with
  | some p =>
    match p.kind with
    | .lost dst va =>
      let a := agentOf dst
      let c := coreOf s a
      if p.rel.isSome || c.mode == .finished || c.mode == .off then .next (reportRelease (unsend s) p c)
      else .next (setCore (unsend s) a { c with lost := c.lost ++ [BitVec.ofNat 64 va] })
    | _ => .next s
  | none => .next s

/-! ### Tile space at the owner (R168 to R171) -/

/-- Window i of a tile admits an access of n bytes at o from a source index (R168). -/
def windowAdmits (c : Core) (i : Nat) (store : Bool) (o n src : Nat) : Bool :=
  let b := (c.win[2 * i]?).getD 0
  let l := (c.win[2 * i + 1]?).getD 0
  (if store then b.getLsbD 63 else b.getLsbD 62) &&
  decide ((b.extractLsb' 0 20).toNat ≤ o ∧ o + n ≤ (l.extractLsb' 0 20).toNat + 1 ∧
    (b.extractLsb' 32 12).toNat ≤ src ∧ src ≤ (l.extractLsb' 32 12).toNat)

/-- A single window admits the access. -/
def admitted (c : Core) (store : Bool) (o n src : Nat) : Bool := (List.range 4).any fun i => windowAdmits c i store o n src

/-- An entry of the trace ring (R171). -/
def traceEntry (c : Core) (store : Bool) (o n src : Nat) (refused : Bool) : BitVec 128 :=
  c.cycle ++ 0#28 ++ BitVec.ofNat 20 o ++ (if refused then 1#1 else 0#1) ++ BitVec.ofNat 2 n.log2 ++
  (if store then 1#1 else 0#1) ++ BitVec.ofNat 12 src

/-- The ring with a new entry: 256 at most, the oldest overwritten (R171). -/
def trace (c : Core) (e : BitVec 128) : Core :=
  { c with trace := (c.trace ++ [e]).drop (c.trace.length + 1 - 256) }

/-- The gang tile index of an agent (R15). -/
def gangIndex (s : State) (a : Agent) : Nat := memberOf (gangSpan s (coreOf s a)).1 a

/-- REMOTE_TILE_ACCESS (R168 to R172, R262, R263, R271): checked against the windows, then performed on the visible half, or
refused; what a buffer of the owner would lead into its undo area is refused as well. A store with no room in the owner's undo
area waits; the reader of an error in the owner's scratch consumes it. -/
def execRemoteTileAccess (s : State) : Out :=
  match picked s with
  | some p =>
    match p.kind with
    | .remote dst store n v =>
      let a := agentOf dst
      let c := coreOf s a
      let o := p.addr % 2 ^ 20
      let src := gangIndex s (agentOf p.src)
      let log (refused : Bool) (c : Core) : Core := trace c (traceEntry c store o n src refused)
      let ps := boundOffsets (visible c.bufs) o n
      if admitted c store o n src && !(undoReserved s (agentKind a) c && reachesUndo ps) then
        if store then
          match engineScratchWrite s (agentKind a) c ps (toBytes n v.toNat) with
          | some c1 => .next (setCore (unsend s) a (log false c1))
          | none => .next s
        else
          let s1 := setCore (unsend s) a (log false c)
          let s2 := match scratchError c ps with
            | some t => pendAt s1 p.src t
            | none => s1
          .next (respond s2 p.src (tileReply p.addr) (.ok (BitVec.ofNat 64 (ofBytes (scratchRead c o n)))))
      else
        let s1 := setCore (unsend s) a (log true c)
        if store then .next (send s1 { src := p.src, addr := p.addr, kind := .refusal p.src })
        else .next (respond s1 p.src (tileReply p.addr) (.fail { cause := .refused, addr := BitVec.ofNat 64 p.addr }))
    | _ => .next s
  | none => .next s

/-! ### Messages and misses (R212, R213, R351 to R354) -/

/-- Entries of a receive queue (R353). -/
def queueRoom (k : CoreKind) : Nat := if k == .supervisor then 256 else 16

/-- The agent number of a package other than this one. -/
def farCode (pkg : Nat) : Nat := 8 * pkg + 7

/-- The source that the flits of a port are given in the network. -/
def portCode (port : Nat) : Nat := farCode (2048 + port)

/-- A message or a miss enters the receive queue of a core that has room (R353). -/
def putReceived (s : State) (code : Nat) (r : Received) : Option State :=
  let a := agentOf code
  let c := coreOf s a
  if c.recvq.length < queueRoom (agentKind a) then some (setCore s a { c with recvq := c.recvq ++ [r] }) else none

/-- The port that a package's flits come by. -/
def portOfPkg (s : State) (pkg : Nat) : Nat :=
  ((List.range 24).find? fun p => (tget s.routes 0#24 pkg).getLsbD p).getD 0

/-- Bytes of a flit in the capture area: a message or collective data with its header, a notice. -/
def flitSize (f : Flit) : Nat :=
  match f with
  | .message _ _ => 64
  | .data _ _ bs => 32 + bs.length
  | _ => 32

/-- Bytes that a port's flits hold of the capture area. -/
def captureUse (x : Context) (port : Nat) : Nat := ((x.capture.filter fun e => e.port == port).map fun e => flitSize e.flit).sum

/-- A gang is away: it is saved or not yet launched, or its context is being switched out (R249, R250). -/
def gangAway (s : State) (g : Gang) : Bool :=
  g.state == .saved || g.state == .loading || g.state == .restoring || (contextOf s g.ctx).switching

/-- A flit for a gang that is away goes into the capture area; none when the port's share of 64 KiB is full (R249, R250). -/
def captureFlit (s : State) (ctx serial port : Nat) (f : Flit) : Option State :=
  let x := contextOf s ctx
  if captureUse x port + flitSize f ≤ 0x10000 then
    some (setContext s ctx { x with capture := x.capture ++ [{ port := port, serial := serial, flit := f }] })
  else none

/-- A message of another package reaches a member of a gang: its receive queue, or the capture area while the gang is away, when
there is room (R250, R351). -/
def acceptIncoming (s : State) (port serial member : Nat) (m : Message) : Option State :=
  match tfind s.gangs serial with
  | none => some s
  | some g =>
    if gangAway s g then captureFlit s g.ctx serial port (.message member m)
    else putReceived s (agentCode (memberAgent g.first member)) (.message m)

/-- Another package's arrival or seal notice at a gang. -/
def noteFlit (g : Gang) (f : Flit) : Gang :=
  match f with
  | .arrival pkg => { g with jobArrived := g.jobArrived ++ [pkg] }
  | .sealing => { g with farSealing := true, sealing := g.sealing || (g.hurdleOn && g.hurdleScope == 2#2) }
  | .message _ _ | .data _ _ _ => g

/-- A gang gets a notice; collective data go to the engines of its context. -/
def applyFlit (s : State) (serial : Nat) (f : Flit) : State :=
  match tfind s.gangs serial with
  | none => s
  | some g =>
    match f with
    | .data seq pkg bs =>
      let x := contextOf s g.ctx
      setContext s g.ctx { x with received := x.received ++ [(seq, pkg, bs)] }
    | _ => setGang s serial (noteFlit g f)

/-- A notice that has waited behind what was captured reaches its gang, or the capture area while the gang is away (R250). -/
def acceptNotice (s : State) (port serial : Nat) (f : Flit) : Option State :=
  match tfind s.gangs serial with
  | none => some s
  | some g => if gangAway s g then captureFlit s g.ctx serial port f else some (applyFlit s serial f)

/-- A refusal of an earlier store is on its way from the agent that is to accept a message of the same core: it comes first (R205). -/
def refusalFirst (s : State) (p : Packet) (dst : Nat) : Bool :=
  (s.net.take s.pick).any fun q => q.src == p.src && match q.kind with
    | .refusal _ => agentOf dst == memberAgent (gangSpan s (coreOf s (agentOf p.src))).1 (q.addr / 2 ^ 20)
    | _ => false

/-- MESSAGE_ACCEPT (R212, R351): a message or a miss enters the receive queue of its destination when it has room; the sender of
a message goes on. A message for another package has left this one and is accepted there. -/
def execMessageAccept (s : State) : Out :=
  match picked s with
  | some p =>
    match p.kind with
    | .message dst m =>
      if dst % 8 = 7 then .next (answer (unsend s) p.src (.ok 0#64))
      else if refusalFirst s p dst then .next s
      else
        match putReceived (unsend s) dst (.message m) with
        | some s1 => .next (if p.src % 8 = 7 then s1 else answer s1 p.src (.ok 0#64))
        | none => .next s
    | .incoming serial member m => .next ((acceptIncoming (unsend s) (p.addr % capturedMark) serial member m).getD s)
    | .notice serial f => .next ((acceptNotice (unsend s) (p.addr % capturedMark) serial f).getD s)
    | .miss dst m =>
      match putReceived (unsend s) dst (.miss m) with
      | some s1 => .next s1
      | none => .next s
    | _ => .next s
  | none => .next s

/-- A miss of a running stream is answered: it goes on, or meets a PAGE fault before its run (R212, R213, R216). -/
def streamFill (s : State) (a : Agent) (c : Core) (m : Miss) (leaf : Leaf) : State :=
  match a, tfind c.streams m.tag with
  | .mem k, some st =>
    if m.dead then setCore s a c
    else if leafV leaf then setCore s a { c with streams := tput c.streams m.tag { st with missing := false } }
    else
      let st1 : Stream := { st with missing := false, fault := some { cause := .page, addr := BitVec.ofNat 64 m.va } }
      urgent (setCore s a { c with streams := tput c.streams m.tag st1 }) [.event (.streamFault k m.tag)]
  | _, _ => setCore s a c

/-- The miss was one of a stream (R212). -/
def streamMiss (m : Miss) : Bool := m.kind == .streamRead || m.kind == .streamWrite

/-- A miss whose access or stream is gone: its message is taken and answered as any other, and its fill wakes nothing (R212, R213,
R353). -/
def buryMiss (p : Miss → Bool) (m : Miss) : Miss := if p m then { m with dead := true } else m

/-- Misses are forgotten at their requesters: in flight, queued, taken, answered. -/
def buryMisses (s : State) (p : Miss → Bool) : State :=
  { s with
    net := s.net.map fun q => { q with kind := match q.kind with
      | .miss dst m => .miss dst (buryMiss p m)
      | .tlbFill m e => .tlbFill (buryMiss p m) e
      | k => k },
    cores := s.cores.map fun e =>
      (e.1, if e.1 % 8 = 2 then { e.2 with
        fillTarget := e.2.fillTarget.map (buryMiss p),
        recvq := e.2.recvq.map fun r => match r with
          | .miss m => .miss (buryMiss p m)
          | .message m => .message m } else e.2) }

/-- TLB_FILL (R213): an entry with V = 1 is installed and the access tried again; V = 0 raises PAGE. -/
def execTlbFill (s : State) : Out :=
  match picked s with
  | some p =>
    match p.kind with
    | .tlbFill m leaf =>
      let a := agentOf m.req
      let c := coreOf s a
      let c1 := if leafV leaf then { c with tlb := tlbInstall (agentKind a) c.tlb { ctx := m.ctx, leaf := leaf } } else c
      if streamMiss m then .next (streamFill (unsend s) a c1 m leaf)
      else
        let c2 := if m.dead || c1.wait != .tlbMiss then c1
          else if leafV leaf then { c1 with blocked := false }
          else { c1 with blocked := false, replies := c1.replies ++ [.fail { cause := .page, addr := BitVec.ofNat 64 m.va }] }
        .next (setCore (unsend s) a c2)
    | _ => .next s
  | none => .next s

end Sys2Proof.Machine
end

