-- ==== Sys2Proof/Machine/System.lean ====
section
/-! DEFINITION. System registers, cache and TLB control, FENCE, IDLE (R37, R54, R55, R161, R179, R202, R213, R214, R218, R238,
R344, R372, R389, R430). -/

namespace Sys2Proof.Machine

/-! ### System registers (R54) -/

/-- tile_id. -/
def tileId (a : Agent) : Word :=
  match a with
  | .tile n => BitVec.ofNat 64 (tileRow n + 32 * tileCol n + 2048 * tileLane n)
  | .mem k => BitVec.ofNat 64 k ||| (1#64 <<< 63)
  | _ => 0#64

/-- gang_id (R37). -/
def gangId (g : Option Gang) : Word :=
  match g with
  | some g => BitVec.ofNat 64 (g.inst % 2 ^ 32 + g.first * 2 ^ 32 + (g.lanes - 1) * 2 ^ 37)
  | none => 0#64

/-- trap_stat (R238). -/
def trapStat (c : Core) : Word :=
  (c.sub.setWidth 64) ||| BitVec.ofNat 64 ((if c.posted then 2 ^ 8 else 0) + (if c.inHandler then 2 ^ 9 else 0) +
    (if c.inHandler then c.records.length % 16 else 0) * 2 ^ 10 + (if c.bySwitch then 2 ^ 14 else 0))

/-- The quad of a tile. -/
def quadOf (s : State) (q : Nat) : Quad := tget s.quads {} q

/-- Write a quad. -/
def setQuad (s : State) (q : Nat) (r : Quad) : State := { s with quads := tput s.quads q r }

/-- The lease state of a core of a quad. -/
def leaseOf (q : Quad) (t : Nat) : LeaseState := (q.lease[t]?).getD .none

/-- Accepted, incomplete commands of a core (R161). -/
def queuedOf (q : Quad) (t : Nat) : Nat := (q.queue.filter fun c => c.issuer == t).length

/-- lease_stat (R161). While no core holds the lease, run is that of the last holder (log 166). -/
def leaseStat (s : State) (a : Agent) : Word :=
  match a with
  | .tile n =>
    let q := quadOf s (tileQuad n)
    let t := tileInQuad n
    let st := match leaseOf q t with
      | .none => 0
      | .waiting => 1
      | .holding => 2
    let w (i : Nat) : Nat := if leaseOf q i = .waiting then 2 ^ (16 + i) else 0
    BitVec.ofNat 64 (q.holder + (if q.held then 4 else 0) + st * 8 + q.run % 128 * 256 + w 0 + w 1 + w 2 + w 3 +
      queuedOf q t * 2 ^ 24)
  | _ => 0#64

/-- What a system register reads as; none for a number that R54 does not list. -/
def readSystem (s : State) (a : Agent) (c : Core) (sr : Nat) : Option Word :=
  let g := gangOf s c
  let x := contextOf s ((ctxOf s c).getD 0)
  let known := (ctxOf s c).isSome
  match sr with
  | 0x000 => some (tileId a)
  | 0x001 => some (gangId g)
  | 0x002 => some (c.slot.setWidth 64)
  | 0x003 => some (if known then x.lapId.setWidth 64 else 0#64)
  | 0x004 => some s.trackTime
  | 0x005 => some c.cycle
  | 0x006 => some (match g with
    | some g => BitVec.ofNat 64 g.runner
    | none => 0#64)
  | 0x010 => some c.trapVec
  | 0x011 => some c.trapCause
  | 0x012 => some c.trapPc
  | 0x013 => some c.trapAddr
  | 0x014 => some (trapStat c)
  | 0x020 => some (c.gen.setWidth 64)
  | 0x021 => some c.nfStat
  | 0x040 => some (if c.sigCtl then 1#64 else 0#64)
  | 0x041 => some (c.checker.crc.setWidth 64)
  | 0x050 => some (leaseStat s a)
  | 0x060 => some (BitVec.ofNat 64 c.undoFill)
  | 0x061 => some (if known then BitVec.ofNat 64 (x.quota - x.undoUse) else 0#64)
  | 0x062 => some (if known then BitVec.ofNat 64 x.stageFill else 0#64)
  | 0x400 => some (BitVec.ofNat 64 c.leaseRun)
  | 0x401 => some c.errInject
  | 0x402 => some (match g with
    | some g => g.hostWake
    | none => 0#64)
  | n => if 0x030 ≤ n ∧ n ≤ 0x037 then c.win[n - 0x030]? else none

/-- A program names a supervisor register (R55). -/
def forbidden (k : CoreKind) (sr : Nat) : Bool := k != .supervisor && decide (0x400 ≤ sr)

/-- The fields of a window register that are not reserved (R168). -/
def winMask (limit : Bool) : Word := if limit then 0x00000FFF000FFFFF#64 else 0xC0000FFF000FFFFF#64

/-- A value that a supervisor may write to err_inject: kind 3 and reserved bits are ignored (R321). -/
def injectValid (v : Word) : Bool := v &&& ~~~0xFF07#64 == 0#64 && v.extractLsb' 1 2 != 3#2

/-- What MTS to a register does (R389); none where it is illegal. -/
def writeSystem (c : Core) (sr : Nat) (v : Word) : Option Core :=
  match sr with
  | 0x010 => some { c with trapVec := v }
  | 0x011 => some { c with trapCause := v }
  | 0x012 => some { c with trapPc := v }
  | 0x013 => some { c with trapAddr := v }
  | 0x014 => some { c with sub := v.setWidth 8, posted := v.getLsbD 8 }
  | 0x021 => some { c with nfStat := v, nfCount := 0 }
  | 0x040 =>
    some (if v.getLsbD 0 then
        { c with sigCtl := true, checker := { c.checker with crc := 0xFFFF#16, armed := false } }
      else { c with sigCtl := false })
  | 0x400 => if v = 0#64 ∨ 64#64 < v then none else some { c with leaseRun := v.toNat }
  | 0x401 => some (if injectValid v then { c with errInject := v } else c)
  | 0x402 => some c
  | n =>
    if 0x030 ≤ n ∧ n ≤ 0x037 then some { c with win := c.win.setIfInBounds (n - 0x030) (v &&& winMask (n % 2 == 1)) }
    else none

/-- MFS (R389). -/
def execMfs (d : Reg) (sr : BitVec 16) (s : State) : Out :=
  runCore s fun k c =>
    if forbidden k sr.toNat then raise .priv
    else
      match readSystem s s.cur c sr.toNat with
      | none => raise .illegal
      | some v => interlock k c [] [d] (doneX k c d v)

/-- The numbers that MTS may name (R54, R55). -/
def writable (sr : Nat) : Bool :=
  [0x010, 0x011, 0x012, 0x013, 0x014, 0x021, 0x040, 0x400, 0x401, 0x402].contains sr || decide (0x030 ≤ sr ∧ sr ≤ 0x037)

/-- MTS (R389). -/
def execMts (a : Reg) (sr : BitVec 16) (s : State) : Out :=
  runCore s fun k c =>
    if forbidden k sr.toNat then raise .priv
    else if !writable sr.toNat then raise .illegal
    else interlock k c [a] [] (withX k c a fun x c1 =>
      match writeSystem c1 sr.toNat x with
      | some c2 => .done c2
      | none => raise .illegal)

/-! ### Fences (R202, R218) -/

/-- A write of a core on its way to memory: a store, an atomic or a write-back. -/
def isWrite (k : PacketKind) : Bool :=
  match k with
  | .store _ _ _ _ => true
  | .atomic _ _ _ _ _ _ _ => true
  | .writeBack _ _ _ => true
  | _ => false

/-- A remote tile store of the core, or its refusal on the way back, is in flight. -/
def remoteOpen (s : State) (code : Nat) : Bool :=
  s.net.any fun p => p.src == code && match p.kind with
    | .remote _ st _ _ => st
    | .refusal _ => true
    | _ => false

/-- A store or atomic of the core to a memory-side page of this package is in flight. -/
def storesOpen (s : State) (code : Nat) : Bool :=
  s.net.any fun p => p.src == code && (pkgOf p.addr == s.ownPkg || decide (windowBase ≤ p.addr)) && match p.kind with
    | .store _ _ e _ => leafM e
    | .atomic _ _ _ _ _ _ _ => true
    | _ => false

/-- An access of the core to another package, or its failure report, is in flight. -/
def farOpen (s : State) (code : Nat) : Bool :=
  s.net.any fun p => p.src == code && match p.kind with
    | .lost _ _ => true
    | k => isWrite k && pkgOf p.addr != s.ownPkg && decide (p.addr < windowBase)

/-- A write-back of the core is in flight, at an address that p accepts. -/
def writeBacksOpen (s : State) (code : Nat) (p : Nat → Bool) : Bool :=
  s.net.any fun q => q.src == code && p q.addr && match q.kind with
    | .writeBack _ _ _ => true
    | _ => false

/-- A write of the core to the sectors of addr .. addr + n − 1 is in flight: what the core asks of their home next is performed
after it (R193). -/
def openAt (s : State) (code addr n : Nat) : Bool :=
  s.net.any fun p => p.src == code && isWrite p.kind && decide (addr / 32 ≤ p.addr / 32 ∧ p.addr / 32 ≤ (addr + n - 1) / 32)

/-- What a FENCE of a scope still waits for (R202). -/
def fenceOpen (s : State) (code scope : Nat) : Bool :=
  (decide (1 ≤ scope) && remoteOpen s code) || (decide (2 ≤ scope) && storesOpen s code) ||
  (decide (3 ≤ scope) && farOpen s code)

/-- The deferred REMOTE_LOST that has arrived, oldest first (R218). -/
def deferredLost (c : Core) : Option Trap :=
  match c.lost with
  | a :: _ => some { cause := .remoteLost, addr := a, deferred := true }
  | [] => none

/-- Raise a deferred REMOTE_LOST, or go on. -/
def raiseLost (s : State) (c : Core) (r : SRes) : SRes :=
  match deferredLost c with
  | some t => (s, .trap t)
  | none => r

/-- FENCE (R202). -/
def execFence (scope : BitVec 2) (s : State) : Out :=
  runState s fun _ c =>
    if fenceOpen s (agentCode s.cur) scope.toNat then (s, .poll c .fence) else raiseLost s c (s, .done c)

/-- IDLE (R372). -/
def execIdle (s : State) : Out :=
  runCore s fun _ c =>
    if !c.recvq.isEmpty || !c.pend.isEmpty || (isStarter s.cur && !s.starter.notices.isEmpty) then .done c
    else .poll c .idle

/-! ### Cache control (R179, R344, R430) -/

/-- GENBUMP: 1 tc, or 3 where filled flags are cleared. -/
def execGenbump (s : State) : Out :=
  runCore s fun _ c =>
    let d := genAdvance c
    .done { d with busy := if d.gen = 0#8 ∨ d.gen = 0x80#8 then 2 else 0 }

/-- WBALL (R430): every dirty sector is sent home, and the core goes on when every home has performed it. -/
def execWball (s : State) : Out :=
  runState s fun _ c =>
    match writeBackAll s.cur c with
    | (ps, c1) =>
      let s1 := sendAll s ps
      if writeBacksOpen s1 (agentCode s.cur) (fun _ => true) then (s1, .poll c1 .fence) else (s1, .done c1)

/-- CFLUSH (R344): the line goes at once, and the core goes on when the homes have acknowledged its bytes; it translates once (R210). -/
def execCflush (a : Reg) (s : State) : Out :=
  runState s fun k c =>
    interlockS s k c [a] [] (withXS s k c a fun va c1 =>
      let acknowledged (t : State) (c2 : Core) (line : Nat) : SRes :=
        if writeBacksOpen t (agentCode s.cur) fun x => x / 128 == line then (t, .poll c2 (.flush line)) else (t, .done c2)
      match c1.wait with
      | .flush line => acknowledged s c1 line
      | _ =>
        withReply c1 (trapS s) (fun _ c2 => (s, .done c2))
          (withPhys s k c1 { need := .r } va (trapS s) fun e phys c2 =>
            if leafM e || k != .tile then (s, .done c2)
            else
              match findWay c2 ((ctxOf s c2).getD 0) va.toNat with
              | some key => acknowledged (sendAll s (lineWriteBacks s.cur (lineAt c2 key))) (setLine c2 key {}) (phys / 128)
              | none => (s, .done c2)))

/-- CINV (R344). -/
def execCinv (a : Reg) (s : State) : Out :=
  runState s fun k c =>
    interlockS s k c [a] [] (withXS s k c a fun va c1 =>
      withReply c1 (trapS s) (fun _ c2 => (s, .done c2))
        (withPhys s k c1 { need := .r } va (trapS s) fun e _ c2 =>
          if leafM e || k != .tile then (s, .done c2)
          else
            match findWay c2 ((ctxOf s c2).getD 0) va.toNat with
            | some key => (s, .done (setLine c2 key {}))
            | none => (s, .done c2)))

/-! ### TLB control (R213, R214) -/

/-- The virtual address that TLBINV names: none for field a = 0, which means every page. -/
def invCovers (all : Bool) (va : Nat) (e : Leaf) : Bool := all || leafCovers e va

/-- A stream under TLBINV: what is left of its run is translated again where the page goes, and a stream stalled on a miss for
the address, in the same 4 KiB, retries (R214, R216; log 169). -/
def retryStream (all : Bool) (va : Nat) (st : Stream) : Stream :=
  let keep (e : Leaf) : Bool := !invCovers all va e
  let st1 := { st with pages := st.pages.filter keep, dpages := st.dpages.filter keep }
  match st.stalled with
  | some t => if t.cause == .page && (all || t.addr.toNat / 4096 == va / 4096) then { st1 with stalled := none } else st1
  | none => st1

/-- One core under TLBINV: its TLB entries go, the dirty sectors of its lines of the page are written back and the lines
invalidated, and its streams translate again (R214). -/
def invalidateCore (all : Bool) (va : Nat) (a : Agent) (c : Core) : List Packet × Core :=
  let hit (l : Line) : Bool := invCovers all va l.leaf
  (c.lines.flatMap (fun e => if hit e.2 then lineWriteBacks a e.2 else []),
   { c with tlb := c.tlb.filter fun t => !invCovers all va t.leaf,
            lines := c.lines.filter fun e => !hit e.2,
            streams := c.streams.map fun e => (e.1, retryStream all va e.2) })

/-- TLBINV at every core of the package. -/
def invalidateTlbs (s : State) (all : Bool) (va : Nat) : State :=
  s.cores.foldl (fun t e =>
    match invalidateCore all va (agentOf e.1) e.2 with
    | (ps, c) => { sendAll t ps with cores := tput t.cores e.1 c }) s

/-- An access issued through an entry for the address is in flight to its home (R214). -/
def throughOpen (s : State) (all : Bool) (va : Nat) : Bool :=
  s.net.any fun p =>
    match p.kind with
    | .writeBack _ _ e => invCovers all va e
    | .fill _ _ e => invCovers all va e
    | .load _ e => invCovers all va e
    | .store _ _ e _ => invCovers all va e
    | .atomic _ _ _ _ _ e _ => invCovers all va e
    | .release _ e => invCovers all va e
    | _ => false

/-- A fill that the core sent is on its way: fills and TLBINV reach a requester in issue order (R413). -/
def fillsOpen (s : State) (code : Nat) : Bool :=
  s.net.any fun p => p.src == code && match p.kind with
    | .tlbFill _ _ => true
    | _ => false

/-- TLBINV (R214). -/
def execTlbinv (a : Reg) (s : State) : Out :=
  runState s fun k c =>
    if k != .supervisor then raiseS s .priv
    else interlockS s k c [a] [] (withXS s k c a fun va c1 =>
      let all := a == 0#5
      if c.wait != .step && fillsOpen s (agentCode s.cur) then (s, .poll c1 .access)
      else
      let s1 := if c.wait == .step then s else invalidateTlbs s all va.toNat
      let c2 := if c.wait == .step then c1 else { c1 with tlb := [] }
      if throughOpen s1 all va.toNat then (s1, .poll c2 .step) else (s1, .done c2))

/-- TLBW (R213). -/
def execTlbw (a b : Reg) (s : State) : Out :=
  runState s fun k c =>
    if k != .supervisor then raiseS s .priv
    else interlockS s k c [a, b] [] (withXS s k c a fun x c1 => withXS s k c1 b fun y c2 =>
      match c2.fillTarget with
      | none => raiseS s .illegal
      | some m =>
        let e : Leaf := y ++ x
        if !leafValid e || (leafV e && !leafCovers e m.va) then raiseS s .illegal
        else
          (send s { src := agentCode s.cur, addr := m.va, kind := .tlbFill m e }, .done { c2 with fillTarget := none }))

end Sys2Proof.Machine
end

