-- ==== Sys2Proof/Machine/SaveArea.lean ====
section
/-! DEFINITION. The layouts of the save area and of the seal areas: member, FIFO, quad and gang records (R110, R116, R172, R243
to R247, R267). -/

namespace Sys2Proof.Machine

/-- A field of a record: offset, bytes, value. -/
abbrev Field := Nat × Nat × Nat

/-- Clear n bytes of HBM. -/
def memClear (s : State) (addr n : Nat) : State := { s with mem := s.mem.filter fun e => !decide (addr ≤ e.1 ∧ e.1 < addr + n) }

/-- Write the fields of a record whose other bytes stand as they are. -/
def putFields (s : State) (base : Nat) (fs : List Field) : State :=
  fs.foldl (fun t f => memWrite t (base + f.1) (toBytes f.2.1 f.2.2)) s

/-- Write a whole record of n bytes: bytes that no field gives are zero. -/
def putRecord (s : State) (base n : Nat) (fs : List Field) : State := putFields (memClear s base n) base fs

/-- A reserved area of a record: offset, bytes, and the bits of it that are reserved. -/
abbrev Reserved := Nat × Nat × Nat

/-- The whole of n bytes at an offset is reserved. -/
def wholly (off n : Nat) : Reserved := (off, n, 2 ^ (8 * n) - 1)

/-- The reserved areas of a record at base in t hold what they hold in s: the device never alters them (R7). -/
def keepReserved (s t : State) (base : Nat) (rs : List Reserved) : State :=
  rs.foldl (fun t r =>
    let old := memRead s (base + r.1) r.2.1; let new := memRead t (base + r.1) r.2.1
    memWrite t (base + r.1) (toBytes r.2.1 ((old &&& r.2.2) ||| (new &&& (2 ^ (8 * r.2.1) - 1 - r.2.2))))) t

/-! ### Member records (R244, R245) -/

/-- The wait kind of a member. -/
def waitKind (c : Core) : Nat :=
  if c.mode = .sFreeze then 13
  else
    match c.wait with
    | .pop _ _ | .push _ => 1
    | .commandLease | .mlease => 2
    | .hurdle _ _ => 3
    | .acq _ => 4
    | .waitq _ => 5
    | .hwait _ => 6
    | .drecv => 7
    | .idle => 8
    | .mwait => 9
    | .ewait => 10
    | .xwait _ => 11
    | .swait => 12
    | _ => 0

/-- The wait operand of a member: port number, object, heat handle or hurdle scope. -/
def waitOperand (s : State) (c : Core) : Nat :=
  match c.wait with
  | .pop r _ | .push r => r
  | .hurdle scope _ => scope.toNat
  | .acq obj | .waitq obj => obj
  | .hwait rec => memRead s (rec + 4) 1
  | _ => 0

/-- A hardware loop as two 8-byte words. -/
def loopFields (off : Nat) (l : LoopSlot) : List Field :=
  [(off, 8, l.start.toNat + l.fin.toNat * 2 ^ 16 + (if l.armed then 2 ^ 31 else 0) + l.count.toNat * 2 ^ 32),
   (off + 8, 8, l.initial.toNat)]

/-- The code of a landing kind (R110). -/
def landCode (k : LandKind) : Nat :=
  match k with
  | .x => 0
  | .v => 1
  | .p => 2

/-- A landing record (R110). -/
def landingFields (off i : Nat) (l : Landing) : List Field :=
  [(off, 8, l.reg + landCode l.kind * 2 ^ 5 + l.remaining % 8 * 2 ^ 8 + i % 8 * 2 ^ 12 + 2 ^ 15),
   (off + 0x10, 16, l.enable.toNat), (off + 0x20, 128, l.value.toNat)]

/-- A holdings entry. -/
def holdingWord (h : Holding) : Nat := h.object % 2 ^ 56 + (if h.shared then 2 ^ 62 else 0) + 2 ^ 63

/-- A cursor (R116). -/
def cursorWord (u : Cursor) : Nat :=
  u.addr.toNat + u.step.toNat * 2 ^ 20 + u.left.toNat * 2 ^ 40 + (if u.dir then 2 ^ 56 else 0) + (if u.plane then 2 ^ 57 else 0)

/-- A buffer (R172). -/
def bufferWord (b : Buffer) : Nat :=
  b.half0.toNat + b.half1.toNat * 2 ^ 20 + b.len.toNat * 2 ^ 40 + (if b.vis then 2 ^ 60 else 0)

/-- Number the elements of a list. -/
def numbered {α : Type} (l : List α) : List (Nat × α) := (List.range l.length).zip l

/-- The system registers of the record, in order. -/
def sysregWords (c : Core) : List Nat :=
  let held := if c.inHandler then c.heldChecker else c.checker
  [c.trapVec.toNat, c.trapCause.toNat, c.trapPc.toNat, c.trapAddr.toNat, (trapStat c).toNat, c.gen.toNat, c.nfStat.toNat] ++
  c.win.toList.map BitVec.toNat ++
  [if c.sigCtl then 1 else 0, c.checker.crc.toNat,
   held.crc.toNat + held.expected.toNat * 2 ^ 16 + (if held.armed then 2 ^ 32 else 0) + Nat.min 64 c.nfCount * 2 ^ 40, c.cycle.toNat]

/-- A scoreboard range. -/
def rangeWord (r : Range) : Nat := r.start % 2 ^ 20 + r.len % 2 ^ 21 * 2 ^ 20 + 2 ^ 63

/-- What byte 24 of a scoreboard entry says: kind, issuing tile in quad (t for the tile's own cursors), index in the command queue. -/
def ownerCode (q : Quad) (t : Nat) (e : ScoreEntry) : Nat :=
  match e.owner with
  | .cursor _ => (if e.bySwitch then 3 else 2) * 2 ^ 4 + t * 2 ^ 7
  | .matrix n =>
    match (numbered q.queue).find? fun x => x.2.serial == n with
    | some x => (if x.2.kind = .mdrain then 1 else 0) * 2 ^ 4 + x.2.issuer * 2 ^ 7 + x.1 * 2 ^ 9
    | none => 0

/-- The smallest range that holds the pieces of a range. -/
def hullOf (rs : List Range) : List Range :=
  match rs with
  | [] => []
  | r :: _ =>
    let lo := rs.foldl (fun a x => Nat.min a x.start) r.start
    [{ start := lo, len := rs.foldl (fun a x => Nat.max a (x.start + x.len)) 0 - lo }]

/-- A scoreboard entry: two reads and a write, each as the smallest range that holds its pieces. -/
def scoreFields (q : Quad) (t off i : Nat) (e : ScoreEntry) : List Field :=
  (hullOf (e.reads.take e.firstReads)).map (fun r => (off, 8, rangeWord r)) ++
  (hullOf (e.reads.drop e.firstReads)).map (fun r => (off + 8, 8, rangeWord r)) ++
  (hullOf e.write).map (fun w => (off + 16, 8, rangeWord w)) ++ [(off + 24, 8, i % 16 + ownerCode q t e + 2 ^ 15)]

/-- Where a stream stands: its counters and the byte within the run. While rows of a window run wait to be pushed the run is that one,
and the byte that of its rows (R244; log 157). -/
def streamAt (st : Stream) : Nat × Nat × Nat × Nat :=
  match st.rows with
  | some (a, b, c, n) => (a, b, c, n - st.staged.length)
  | none => (st.i1, st.i2, st.i3, st.byte)

/-- A running stream. -/
def streamFields (off : Nat) (st : Stream) : List Field :=
  match streamAt st with
  | (a, b, c, n) => [(off, 64, st.desc.toNat), (off + 0x40, 8, a), (off + 0x48, 8, b), (off + 0x50, 8, c), (off + 0x58, 8, n)]

/-- The FIFO block (R245). -/
def fifoFields (c : Core) : List Field :=
  (List.range 12).flatMap fun i =>
    (0x1A00 + i, 1, (fifoA c i).length) :: (0x1A0C + i, 1, (fifoB c i).length) ::
    ((numbered (fifoA c i)).map (fun w => (0x1A20 + 32 * i + 8 * w.1, 8, w.2.toNat)) ++
     (numbered (fifoB c i)).map fun w => (0x1C00 + 512 * i + 128 * w.1, 128, w.2.toNat))

/-- A message of the receive queue. -/
def receivedWord (r : Received) : Nat × Nat :=
  match r with
  | .message m => (m.sender.toNat, m.payload.toNat)
  | .miss _ => (0, 0)

/-- The receive queue. -/
def recvFields (c : Core) : List Field :=
  (0x3680, 8, c.recvq.length) :: (numbered c.recvq).flatMap fun e =>
    [(0x3688 + 8 * e.1, 8, (receivedWord e.2).1), (0x3780 + 32 * e.1, 32, (receivedWord e.2).2)]

/-- The scratch of a member. -/
def scratchFields (c : Core) : List Field := c.scratch.map fun e => (0x4000 + e.1, 1, e.2.toNat)

/-- The landing records of a member: those that its handler's entry captured, then what is in flight, in issue order (R110, R239). Of more
than the save area's eight the first eight are written (log 164). -/
def savedRecords (c : Core) : List Landing := (c.records ++ c.inflight).take 8

/-- A member record without its FIFOs and scratch. -/
def memberFields (s : State) (k : CoreKind) (m : Nat) (q : Quad) (c : Core) : List Field :=
  let xs (lo n off : Nat) : List Field := (List.range n).map fun i => (off + 8 * i, 8, ((c.x[lo + i]?).getD 0).toNat)
  [(0x0000, 8, c.slot.toNat + (if c.inHandler then 4 else 0) + (savedRecords c).length * 2 ^ 3 + waitKind c * 2 ^ 8 +
      (if c.mode = .finished then 2 ^ 12 else 0)), (0x0008, 8, c.pc.toNat)] ++
  xs 1 27 0x0010 ++
  ((List.range 7).map fun i => (0x00F0 + 16 * i, 16, ((c.p[i + 1]?).getD 0).toNat)) ++
  loopFields 0x0160 c.loop0 ++ loopFields 0x0170 c.loop1 ++
  ((numbered (sysregWords c)).map fun w => (0x0180 + 8 * w.1, 8, w.2)) ++
  ((numbered c.holdings).map fun h => (0x0218 + 8 * h.1, 8, holdingWord h.2)) ++
  [(0x0238, 8, waitOperand s c)] ++
  (if k == .mem then xs 28 4 0x0240 else []) ++
  ((List.range (if k == .mem then 32 else 28)).map fun i => (0x0400 + 128 * i, 128, ((c.v[i]?).getD 0).toNat)) ++
  ((numbered (savedRecords c)).flatMap fun l => landingFields (0x1400 + 160 * l.1) l.1 l.2) ++
  (if k == .tile then
     [(0x1900, 8, c.spc.toNat + (if c.swHalted then 2 ^ 15 else 0)),
      (0x1908, 8, ofBytes (c.swCnt.toList.flatMap fun w => toBytes 2 w.toNat))] ++
     ((numbered c.cursors.toList).map fun u => (0x1910 + 8 * u.1, 8, cursorWord u.2)) ++
     ((numbered (c.score.take 16)).flatMap fun e => scoreFields q (tileInQuad m) (0x3400 + 32 * e.1) e.1 e.2)
   else c.streams.flatMap fun e => streamFields (0x3400 + 128 * e.1) e.2) ++
  ((numbered c.bufs.toList).map fun b => (0x3600 + 16 * b.1, 16, bufferWord b.2)) ++ recvFields c

/-- The reserved areas of a member record (R110, R244). -/
def memberReserved : List Reserved :=
  [(0x0000, 8, 2 ^ 64 - 2 ^ 13), wholly 0x00E8 8, wholly 0x0260 416, wholly 0x3A80 1408] ++
  (List.range 8).flatMap fun i =>
    [(0x1400 + 160 * i, 8, 2 ^ 64 - 2 ^ 16 + 2 ^ 11 + 2 ^ 7), wholly (0x1408 + 160 * i) 8]

/-- The reserved areas of a quad record (R246). -/
def quadReserved : List Reserved := [wholly 0x0280 0xD80]

/-- The reserved areas of a gang record (R247). -/
def gangReserved : List Reserved := [(0x00A0, 8, 2 ^ 64 - 2)]

/-- Bytes of a member record. -/
def memberSize (k : CoreKind) : Nat := if k == .mem then 0x44000 else 0x104000

/-! ### Quad records (R246) -/

/-- The code of a lease state. -/
def leaseCode (l : LeaseState) : Nat :=
  match l with
  | .none => 0
  | .waiting => 1
  | .holding => 2

/-- The code of a command kind. -/
def commandCode (k : CommandKind) : Nat :=
  match k with
  | .mma => 0
  | .mzero => 1
  | .mcell => 2
  | .mdrain => 3

/-- A quad record without its accumulators. -/
def quadFields (q : Quad) : List Field :=
  let st (i : Nat) : Nat := leaseCode (leaseOf q i)
  [(0x0000, 8, q.holder + (if q.held then 4 else 0) + q.run % 128 * 2 ^ 8 +
      ((List.range 4).map fun i => (if st i = 1 then 2 ^ (16 + i) else 0) + st i * 2 ^ (24 + 2 * i)).sum)] ++
  ((numbered q.cells.toList).map fun e => (0x0040 + 16 * e.1, 16, match e.2 with
    | some d => d.toNat
    | none => 0)) ++
  (numbered (q.queue.take 8)).flatMap fun e =>
    [(0x0080 + 64 * e.1, 32, e.2.desc.toNat), (0x00A0 + 64 * e.1, 8, commandCode e.2.kind + e.2.issuer * 2 ^ 3 + e.2.step % 2 ^ 16 * 2 ^ 8 + 2 ^ 31)]

/-- The accumulators of a quad. -/
def accFields (q : Quad) : List Field := q.acc.map fun e => (0x1000 + 4 * e.1, 4, e.2.toNat)

/-! ### Gang records (R247) -/

/-- The hurdle word: scope, sealing or a pending SEALREQ of a member (R405), in progress. -/
def hurdleWord (g : Gang) (req : Bool) : Nat :=
  g.hurdleScope.toNat + (if g.sealing || g.sealNext || req then 4 else 0) + (if g.hurdleOn then 8 else 0)

/-- The token word. -/
def tokenWord (g : Gang) : Nat :=
  match g.applying.toList ++ g.tokens with
  | t :: _ => 1 + t.toNat * 2
  | [] => 0

/-- The bit of a member among the arrivals: tile t at t, memory core k at 2,048 + k. -/
def arrivalBits (g : Gang) : Nat := (g.arrived.map fun m => 2 ^ (if m < 0x800 then m else 2048 + (m - 0x800))).sum

/-- The fields that the Starter writes at placement. -/
def gangFields (serial : Nat) (g : Gang) : List Field :=
  [(0x0000, 128, g.bytes.toNat), (0x0080, 8, g.inst), (0x0088, 8, serial % 2 ^ 24)]

/-- The fields that it updates at a pre-emption. -/
def gangUpdates (g : Gang) (req : Bool) : List Field :=
  [(0x0090, 8, hurdleWord g req), (0x0098, 8, tokenWord g), (0x00A0, 8, g.hostWake.toNat % 2), (0x0100, 512, arrivalBits g)]

/-! ### Whole images -/

/-- The members of W lanes with the offsets of their records behind the gang record (R243). -/
def memberPlaces (w : Nat) : List (Nat × CoreKind × Nat) :=
  ((List.range (64 * w)).map fun i => (i, .tile, 0x10000 + 0x104000 * i)) ++
  ((List.range (12 * w)).map fun o => (0x800 + o, .mem, 0x10000 + 0x104000 * (64 * w) + 0x44000 * o))

/-- The offset of quad i's record. -/
def quadPlace (w i : Nat) : Nat := 0x10000 + 0x104000 * (64 * w) + 0x44000 * (12 * w) + 0x21000 * i

/-- The gang quad of a member, by its number (R243). -/
def quadOfMember (m : Nat) : Nat := m / 64 * 16 + m % 32 / 2

/-- The records of a saved gang go into its save block (R243 to R247). -/
def writeSave (s : State) (g : Gang) (img : Image) : State :=
  let req := img.cores.any fun e => e.2.sealReq
  let s1 := keepReserved s (putFields s g.saveBlock (gangUpdates g req)) g.saveBlock gangReserved
  let s2 := (memberPlaces g.lanes).foldl (fun t e =>
    let c := tget img.cores {} e.1
    let u := unpull c c.pulled
    let at' := g.saveBlock + e.2.2
    keepReserved t (putRecord t at' (memberSize e.2.1)
      (memberFields s e.2.1 e.1 (tget img.quads {} (quadOfMember e.1)) u ++ fifoFields u ++ scratchFields u)) at' memberReserved) s1
  (List.range (16 * g.lanes)).foldl (fun t i =>
    let q := tget img.quads {} i
    let at' := g.saveBlock + quadPlace g.lanes i
    keepReserved t (putRecord t at' 0x21000 (quadFields q ++ accFields q)) at' quadReserved) s2

/-- The records of a gang at the seal, from an address of a seal area: scratch only for memory cores, no FIFOs and no
accumulators (R267). What is left unwritten keeps its bytes. -/
def writeSeal (s : State) (base serial : Nat) (g : Gang) (img : Image) : State :=
  let req := img.cores.any fun e => e.2.sealReq
  let s1 := keepReserved s (putRecord s base 0x10000 (gangFields serial g ++ gangUpdates g req)) base gangReserved
  let s2 := (memberPlaces g.lanes).foldl (fun t e =>
    let c := tget img.cores {} e.1
    let at' := base + e.2.2
    let fs := memberFields s e.2.1 e.1 (tget img.quads {} (quadOfMember e.1)) c
    let t1 := keepReserved t (putFields (memClear (memClear t at' 0x1A00) (at' + 0x3400) 0xC00) at' fs) at' memberReserved
    if e.2.1 == .mem then putRecord t1 (at' + 0x4000) 0x40000 ((scratchFields c).map fun f => (f.1 - 0x4000, f.2)) else t1) s1
  (List.range (16 * g.lanes)).foldl (fun t i =>
    let q := tget img.quads {} i
    let at' := base + quadPlace g.lanes i
    keepReserved t (putRecord t at' 0x1000 (quadFields q)) at' quadReserved) s2

/-! ### Reading the records back (R248) -/

/-- The n bytes of memory from an address, alone. -/
def memPart (s : State) (base n : Nat) : State := { s with mem := s.mem.filter fun e => decide (base ≤ e.1 ∧ e.1 < base + n) }

/-- A hardware loop of a record (R244). -/
def recordedLoop (w initial : Nat) : LoopSlot :=
  { armed := bitAt w 31, start := BitVec.ofNat 14 (bits w 0 14), fin := BitVec.ofNat 14 (bits w 16 14), count := BitVec.ofNat 32 (bits w 32 32),
    initial := BitVec.ofNat 32 (bits initial 0 32) }

/-- A cursor as its record gives it, with the halves that it has bound (R116, R174). -/
def recordedCursor (u : Cursor) (w : Nat) : Cursor :=
  { u with
    addr := BitVec.ofNat 20 (bits w 0 20), step := BitVec.ofNat 20 (bits w 20 20), left := BitVec.ofNat 16 (bits w 40 16), dir := bitAt w 56,
    plane := bitAt w 57 }

/-- A buffer of a record (R172). -/
def recordedBuffer (w : Nat) : Buffer :=
  { half0 := BitVec.ofNat 20 (bits w 0 20), half1 := BitVec.ofNat 20 (bits w 20 20), len := BitVec.ofNat 20 (bits w 40 20), vis := bitAt w 60 }

/-- A FIFO of a record: as many words as its count says, 4 at most, from an address, n bytes each (R245). -/
def recordedFifo (s : State) (n : Nat) (bytes addr count : Nat) : List (BitVec n) :=
  (List.range (Nat.min 4 count)).map fun j => BitVec.ofNat n (memRead s (addr + bytes * j) bytes)

/-- The landing kind that a code names (R110). -/
def landOfCode (n : Nat) : LandKind := if n = 0 then .x else if n = 1 then .v else .p

/-- Result i in issue order as its record at base gives it; none where the record is not in use (R110). -/
def recordedLanding (s : State) (base i : Nat) (l : Landing) : Option Landing :=
  let off := base + 0x1400 + 160 * i
  let w := memRead s off 8
  if 8 ≤ i then some l
  else if bitAt w 15 then
    some { l with
      kind := landOfCode (bits w 5 2), reg := bits w 0 5, remaining := bits w 8 3, enable := BitVec.ofNat 128 (memRead s (off + 0x10) 16),
      value := BitVec.ofNat 1024 (memRead s (off + 0x20) 128) }
  else none

/-- Results from number i on, as the records at base give them. -/
def recordedLandings (s : State) (base i : Nat) (ls : List Landing) : List Landing :=
  (numbered ls).filterMap fun e => recordedLanding s base (i + e.1) e.2

/-- The holdings of a record at base (R244). -/
def recordedHoldings (s : State) (base : Nat) (hs : List Holding) : List Holding :=
  (numbered hs).filterMap fun e =>
    let w := memRead s (base + 0x218 + 8 * e.1) 8
    if bitAt w 63 then some { e.2 with object := bits w 0 56, shared := bitAt w 62 } else none

/-- A stream as its record gives it: where the record says no other place than that at which it was saved, what it had read stands too
(R244, R248). -/
def recordedStream (s : State) (base : Nat) (e : Nat × Stream) : Nat × Stream :=
  let rd (off n : Nat) : Nat := memRead s (base + 0x3400 + 128 * e.1 + off) n
  let d := BitVec.ofNat 512 (rd 0 64)
  let place := (rd 0x40 8, rd 0x48 8, rd 0x50 8, rd 0x58 8)
  if d = e.2.desc ∧ place = streamAt e.2 then e
  else (e.1, { e.2 with desc := d, i1 := place.1, i2 := place.2.1, i3 := place.2.2.1, byte := place.2.2.2, run := none, staged := [], rows := none })

/-- The general registers, loops, trap, window and checker registers of a member as its record at base gives them (R244). -/
def recordedRegisters (s : State) (base : Nat) (k : CoreKind) (c : Core) : Core :=
  let rd (off n : Nat) : Nat := memRead s (base + off) n
  let sys (i : Nat) : Nat := rd (0x180 + 8 * i) 8
  let stat := sys 4
  let check : Checker := { crc := BitVec.ofNat 16 (sys 16), expected := BitVec.ofNat 16 (sys 17 / 2 ^ 16), armed := bitAt (sys 17) 32 }
  let handler := bitAt (rd 0 8) 2
  { c with
    slot := BitVec.ofNat 2 (rd 0 8), inHandler := handler, pc := BitVec.ofNat 14 (rd 8 8),
    mode := if bitAt (rd 0 8) 12 then .finished else if c.mode = .finished then .running else c.mode,
    x := Vector.ofFn fun i => if i.val = 0 then c.x[i] else if i.val < 28 then BitVec.ofNat 64 (rd (0x10 + 8 * (i.val - 1)) 8)
      else if k = .mem then BitVec.ofNat 64 (rd (0x240 + 8 * (i.val - 28)) 8) else c.x[i],
    p := Vector.ofFn fun i => if i.val = 0 then c.p[i] else BitVec.ofNat 128 (rd (0xF0 + 16 * (i.val - 1)) 16),
    v := Vector.ofFn fun i => if i.val < 28 ∨ k = .mem then BitVec.ofNat 1024 (rd (0x400 + 128 * i.val) 128) else c.v[i],
    loop0 := recordedLoop (rd 0x160 8) (rd 0x168 8), loop1 := recordedLoop (rd 0x170 8) (rd 0x178 8),
    trapVec := BitVec.ofNat 64 (sys 0), trapCause := BitVec.ofNat 64 (sys 1), trapPc := BitVec.ofNat 64 (sys 2), trapAddr := BitVec.ofNat 64 (sys 3),
    sub := BitVec.ofNat 8 stat, posted := bitAt stat 8, bySwitch := bitAt stat 14, gen := BitVec.ofNat 8 (sys 5), nfStat := BitVec.ofNat 64 (sys 6),
    win := Vector.ofFn fun i => BitVec.ofNat 64 (sys (7 + i.val)), sigCtl := bitAt (sys 15) 0,
    checker := if handler then { c.checker with crc := BitVec.ofNat 16 (sys 16) } else check,
    heldChecker := if handler then { check with crc := BitVec.ofNat 16 (sys 17) } else c.heldChecker, cycle := BitVec.ofNat 64 (sys 18),
    nfCount := bits (sys 17) 40 7, holdings := recordedHoldings s base c.holdings,
    records := recordedLandings s base 0 c.records, inflight := recordedLandings s base c.records.length c.inflight }

/-- The switch, the FIFOs, the buffers, the receive queue and the scratch of a member as its record at base gives them (R244, R245). -/
def recordedUnits (s : State) (base : Nat) (k : CoreKind) (c : Core) : Core :=
  let rd (off n : Nat) : Nat := memRead s (base + off) n
  let c1 := if k = .tile then
    { c with
      spc := BitVec.ofNat 10 (rd 0x1900 8), swHalted := bitAt (rd 0x1900 8) 15,
      swCnt := Vector.ofFn fun i => BitVec.ofNat 16 (rd (0x1908 + 2 * i.val) 2),
      cursors := Vector.ofFn fun i => recordedCursor c.cursors[i] (rd (0x1910 + 8 * i.val) 8) }
    else { c with streams := c.streams.map (recordedStream s base) }
  let c2 := if c.pulled.isEmpty then
    { c1 with
      fifoA := (List.range 12).foldl (fun m i => tset m [] i (recordedFifo s 64 8 (base + 0x1A20 + 32 * i) (rd (0x1A00 + i) 1))) [],
      fifoB := (List.range 12).foldl (fun m i => tset m [] i (recordedFifo s 1024 128 (base + 0x1C00 + 512 * i) (rd (0x1A0C + i) 1))) [] } else c1
  { c2 with
    bufs := Vector.ofFn fun i => recordedBuffer (rd (0x3600 + 16 * i.val) 16),
    recvq := (List.range (Nat.min 16 (rd 0x3680 8))).map fun i =>
      .message { sender := BitVec.ofNat 64 (rd (0x3688 + 8 * i) 8), payload := BitVec.ofNat 256 (rd (0x3780 + 32 * i) 32) },
    scratch := (s.mem.filter fun e => decide (base + 0x4000 ≤ e.1 ∧ e.1 < base + memberSize k)).map fun e => (e.1 - (base + 0x4000), e.2) }

/-- A member as its record at base gives it (R244, R245, R248). What a record holds in part or not at all stands as it was saved (log 91). -/
def recordedCore (s : State) (base : Nat) (k : CoreKind) (c : Core) : Core :=
  let part := memPart s base (memberSize k)
  recordedUnits part base k (recordedRegisters (memPart part base 0x4000) base k c)

/-- The lease state that a code names. -/
def leaseOfCode (n : Nat) : LeaseState := if n = 1 then .waiting else if n = 2 then .holding else .none

/-- The elements of the accumulators that a quad record at base gives: bytes in rising order, 4 to an element (R246). -/
def recordedAcc (base : Nat) (l : List (Nat × Byte)) : Tbl (BitVec 32) :=
  l.foldr (fun e r =>
    let key := (e.1 - (base + 0x1000)) / 4
    let part := BitVec.ofNat 32 (e.2.toNat * 2 ^ (8 * ((e.1 - (base + 0x1000)) % 4)))
    match r with
    | (k, v) :: t => if k = key then (k, v ||| part) :: t else (key, part) :: r
    | [] => [(key, part)]) []

/-- The command kind that a code names. -/
def commandOfCode (n : Nat) : CommandKind := if n = 0 then .mma else if n = 1 then .mzero else if n = 2 then .mcell else .mdrain

/-- Command i of a queue as its record gives it, with the halves and the cell program that it has bound; none where the place is not in
use (R174, R246). -/
def recordedCommand (s : State) (base : Nat) (e : Nat × Command) : Option Command :=
  let w := memRead s (base + 0xA0 + 64 * e.1) 8
  if 8 ≤ e.1 then some e.2
  else if bitAt w 31 then
    some { e.2 with
      desc := BitVec.ofNat 256 (memRead s (base + 0x80 + 64 * e.1) 32), kind := commandOfCode (bits w 0 3), issuer := bits w 3 2,
      step := bits w 8 16 }
  else none

/-- A quad as its record at base gives it (R246, R248; log 91). -/
def recordedQuad (s : State) (base : Nat) (q : Quad) : Quad :=
  let w := memRead s base 8
  { q with
    holder := bits w 0 2, held := bitAt w 2, run := bits w 8 7,
    lease := Vector.ofFn fun i => leaseOfCode (bits w (24 + 2 * i.val) 2),
    cells := Vector.ofFn fun i =>
      let d := memRead s (base + 0x40 + 16 * i.val) 16
      if d = 0 then none else some (BitVec.ofNat 128 d),
    queue := (numbered q.queue).filterMap (recordedCommand s base),
    acc := recordedAcc base (s.mem.filter fun e => decide (base + 0x1000 ≤ e.1 ∧ e.1 < base + 0x21000)) }

end Sys2Proof.Machine
end

