-- ==== Sys2Proof/Machine/Sync.lean ====
section
/-! DEFINITION. Hurdles, synchronisation objects, bindings, wait queues and decision tokens as a core issues them, and the steps
at the object's home (R41, R43, R195 to R200, R253, R267, R299, R331, R341, R347, R348, R367 to R369, R399, R405, R429). -/

namespace Sys2Proof.Machine

/-! ### Members of a gang -/

/-- The core of a member of a gang: live, or in the image of a saved gang. -/
def memberCore (s : State) (serial m : Nat) : Core :=
  match tfind s.gangs serial with
  | none => {}
  | some g =>
    match g.away, g.image with
    | true, some i => tget i.cores {} m
    | _, _ => coreOf s (memberAgent g.first m)

/-- Change the core of a member, live or saved. -/
def updMember (s : State) (serial m : Nat) (f : Core → Core) : State :=
  match tfind s.gangs serial with
  | none => s
  | some g =>
    match g.away, g.image with
    | true, some i =>
      setGang s serial { g with image := some { i with cores := tput i.cores m (f (tget i.cores {} m)) } }
    | _, _ => setCore s (memberAgent g.first m) (f (coreOf s (memberAgent g.first m)))

/-- Member numbers of W lanes (R247). -/
def membersOf (w : Nat) : List Nat := List.range (64 * w) ++ (List.range (12 * w)).map (0x800 + ·)

/-- The member number of an agent in a gang. -/
def memberNumber (g : Gang) (a : Agent) : Nat := memberOf g.first a

/-- Change a member of a saved gang, and what its record in the save block says of the wait: where it resumes, its loops, the
checker, its holdings, the wait, and the FIFOs where the instruction that waited had popped a word (R244). -/
def updSaved (s : State) (serial m : Nat) (g : Gang) (i : Image) (f : Core → Core) : State :=
  let c := f (tget i.cores {} m)
  let k := agentKind (memberAgent g.first m)
  let waitFields := (memberFields s k m (tget i.quads {} (quadOfMember m)) c).filter fun e =>
    decide (e.1 < 0x10 ∨ (0x160 ≤ e.1 ∧ e.1 < 0x180) ∨ (0x200 ≤ e.1 ∧ e.1 < 0x210) ∨ (0x218 ≤ e.1 ∧ e.1 < 0x240))
  let popped := if (tget i.cores {} m).pulled.isEmpty then [] else fifoFields (unpull c c.pulled)
  match (memberPlaces g.lanes).find? fun e => e.1 == m with
  | some (_, _, at') =>
    let t := putFields (setGang s serial { g with image := some { i with cores := tput i.cores m c } }) (g.saveBlock + at')
      (waitFields ++ popped)
    keepReserved s t (g.saveBlock + at') memberReserved
  | none => s

/-- The instruction that a member waits in completes without a result, while its gang is saved: the member resumes after it. -/
def resumeAfter (c : Core) : Core := { settleLoop (retire c) with landing := false }

/-- An answer to a member's request at a home; a saved member resumes after the request (R253, R331). -/
def answerMember (s : State) (serial m : Nat) (f : Core → Core) : State :=
  match tfind s.gangs serial with
  | none => s
  | some g =>
    match g.away, g.image with
    | true, some i => updSaved s serial m g i fun c => f (resumeAfter c)
    | _, _ => updMember s serial m fun c => f { c with replies := c.replies ++ [.ok 0#64], blocked := false }

/-! ### Hurdles (R41, R368) -/

/-- Every stream of a memory core has completed or ended (R411). -/
def streamsDone (c : Core) : Bool := c.streams.isEmpty

/-- The gang after a member's arrival. -/
def arriveGang (g : Gang) (m : Nat) (scope : BitVec 2) (sealing : Bool) : Gang :=
  { g with hurdleOn := true, hurdleScope := scope,
           sealing := g.sealing || sealing || g.sealNext || (scope == 2#2 && g.farSealing),
           arrived := insertNat m g.arrived }

/-- The core has arrived at a hurdle and waits for it. -/
def atHurdle (c : Core) : Bool :=
  match c.wait with
  | .hurdle _ _ => true
  | _ => false

/-- HURDLE and HURDLE.S (R368): a deferred REMOTE_LOST is raised before the arrival; one that comes later waits for the next of R218's
instructions. -/
def hurdle (sealForm : Bool) (scope : BitVec 2) (s : State) : Out :=
  runState s fun _ c =>
    match c.gang, gangOf s c with
    | some serial, some g =>
      if c.inHandler then raiseS s .illegal
      else if g.scope < scope.toNat then raiseS s .illegal
      else if g.hurdleOn && g.hurdleScope != scope then raiseS s .illegal
      else if !c.inflight.isEmpty || !c.scalars.isEmpty then (s, .hold .none)
      else if !streamsDone c then (s, .poll c .swait)
      else
        let sealing := (contextOf s g.ctx).laps && (sealForm || c.sealReq)
        let arrive : SRes := (setGang s serial (arriveGang g (memberNumber g s.cur) scope sealing), .poll c (.hurdle scope sealing))
        if atHurdle c then arrive else raiseLost s c arrive
    | _, _ => raiseS s .illegal

/-- HURDLE. -/
def execHurdle (scope : BitVec 2) (s : State) : Out := hurdle false scope s
/-- HURDLE.S. -/
def execHurdleS (scope : BitVec 2) (s : State) : Out := hurdle true scope s

/-- SEALREQ (R405): no effect in a context that does not run laps (R256). -/
def execSealreq (s : State) : Out :=
  runCore s fun _ c =>
    match ctxOf s c with
    | some x => if (contextOf s x).laps then .done { c with sealReq := true } else .done c
    | none => .done c

/-- Every member of a gang has arrived. -/
def allArrived (g : Gang) : Bool := (membersOf g.lanes).all fun m => g.arrived.contains m

/-- Nothing stands in the outbound FIFOs of a core: each static word it has sent is in the FIFO of its receiver, be it a link's or a
core's, at a memory port or in scratch (R41). -/
def wordsSent (c : Core) : Bool := [4, 5, 6, 7].all fun i => (fifoA c i).isEmpty && (fifoB c i).isEmpty

/-- What a gang's members sent before they arrived has landed (R41, R204): no static word of theirs is still in an outbound FIFO, no
remote store, store or atomic of theirs is in flight. -/
def gangLanded (s : State) (g : Gang) : Bool :=
  (laneAgents g.first g.lanes).all fun a =>
    (agentKind a != .tile || wordsSent (coreOf s a)) && !remoteOpen s (agentCode a) &&
    !s.net.any fun p => p.src == agentCode a && match p.kind with
      | .store _ _ _ _ => true
      | .atomic _ _ _ _ _ _ _ => true
      | _ => false

/-- A core that waits at a hurdle goes on: the hurdle retires (R368). -/
def passHurdle (c : Core) : Core :=
  match c.wait with
  | .hurdle _ _ => { retire c with sealReq := false }
  | _ => c

/-- A switch in SWAITH goes on (R124). -/
def passSwitch (c : Core) : Core := if c.swWaitH then { c with swWaitH := false, spc := c.spc + 1#10 } else c

/-- The arrivals that are left when a job hurdle has taken one of each package (R299). -/
def arrivalsLeft (l : List Nat) : List Nat := l.eraseDups.foldl (fun r p => r.erase p) l

/-- A hurdle of a gang completes: every member goes on (R41, R368). -/
def releaseGang (s : State) (serial : Nat) : State :=
  match tfind s.gangs serial with
  | none => s
  | some g =>
    let s1 := (membersOf g.lanes).foldl (fun t m => updMember t serial m fun c => passSwitch (passHurdle c)) s
    match tfind s1.gangs serial with
    | none => s1
    | some h =>
      let job := h.hurdleScope == 2#2
      setGang s1 serial { h with hurdleOn := false, sealing := false, sealNext := false, atSeal := false, arrived := [],
                                 jobArrived := if job then arrivalsLeft h.jobArrived else h.jobArrived,
                                 farSealing := h.farSealing && !job }

/-- The gangs of a baton on the package, by serial. -/
def batonGangs (s : State) (b : Nat) : List (Nat × Gang) := s.gangs.filter fun e => e.2.baton == b

/-- The serials of the gangs whose hurdle completes together (R35, R41, R299). -/
def hurdleGroup (s : State) (serial : Nat) (g : Gang) : List (Nat × Gang) :=
  if g.hurdleScope = 1#2 then batonGangs s g.baton else [(serial, g)]

/-- A gang's part of a plain hurdle is complete. -/
def hurdleReady (s : State) (g : Gang) : Bool :=
  g.state == .running && g.hurdleOn && !g.sealing && allArrived g && gangLanded s g &&
  (g.hurdleScope != 2#2 ||
    (contextOf s g.ctx).pkgs.all fun p => p == s.ownPkg || g.jobArrived.contains p)

/-- HURDLE_COMPLETE (R41, R299): a plain hurdle completes when every member of every instance it joins has arrived and what they
sent has landed. The notice of a job hurdle comes through the Starter, and waits while it is taken over (R235). -/
def execHurdleComplete (serial : Nat) (s : State) : Out :=
  match tfind s.gangs serial with
  | some g =>
    let grp := hurdleGroup s serial g
    if g.hurdleScope = 2#2 ∧ s.starter.takingOver = true then .next s
    else if grp.all fun e => hurdleReady s e.2 && e.2.hurdleScope == g.hurdleScope then
      .next (grp.foldl (fun t e => releaseGang t e.1) s)
    else .next s
  | none => .next s

/-! ### What other packages send to a gang (R249, R250, R299, R351) -/

/-- The packet brings a gang a flit that stands in the order of what was captured for it. -/
def capturedFor (serial : Nat) (p : Packet) : Bool :=
  match flitOf p.kind with
  | some (g, _) => g == serial && decide (capturedMark ≤ p.addr)
  | none => false

/-- A captured flit for a gang has not been delivered from a port. -/
def capturedOpen (s : State) (serial port : Nat) : Bool :=
  s.net.any fun p => p.src == portCode port && capturedFor serial p

/-- The packet that brings a gang a flit of a port, behind what was captured. -/
def flitPacket (port serial : Nat) (f : Flit) : Packet :=
  { src := portCode port, addr := port + capturedMark,
    kind := match f with
      | .message m msg => .incoming serial m msg
      | _ => .notice serial f }

/-- A notice of another package comes to a gang, or to the capture area, or waits behind what was captured (R250). -/
def takeFlit (s : State) (serial pkg : Nat) (g : Gang) (f : Flit) : State :=
  let port := portOfPkg s pkg
  if capturedOpen s serial port then send s (flitPacket port serial f)
  else if gangAway s g then (captureFlit s g.ctx serial port f).getD s
  else applyFlit s serial f

/-- A captured flit reaches its gang: a message enters its receive queue as that has room, a notice waits behind the messages of its
port (R250). -/
def deliverFlit (s : State) (serial : Nat) (e : Captured) : State :=
  match e.flit with
  | .message _ _ => send s (flitPacket e.port serial e.flit)
  | f => if capturedOpen s serial e.port then send s (flitPacket e.port serial f) else applyFlit s serial f

/-- A restored gang gets what was captured for it, in capture order and before what comes later (R250); with it comes the data of
collectives that have not been started here. -/
def deliverCaptured (s : State) (ctx serial : Nat) : State :=
  let x := contextOf s ctx
  let mine (e : Captured) : Bool := e.serial == serial || e.serial == 0
  let s1 := (x.capture.filter mine).foldl (fun t e => deliverFlit t serial e)
    { setContext s ctx { x with capture := x.capture.filter fun e => !mine e } with net := s.net.filter (capturedFor serial) }
  { s1 with net := s1.net ++ s.net.filter fun p => !capturedFor serial p }

/-- The gang whose collective a sequence number of a context names. -/
def collectiveGang (s : State) (ctx seq : Nat) : Option Nat :=
  (s.collectives.find? fun x => x.ctx == ctx && (x.desc.extractLsb' 0xC0 32).toNat == seq).bind (·.gang)

/-- Data of a collective has come from another package of the job: to the engines, or to the capture area while the gang of the
collective is away or the context does not run (R249, R250, R297). -/
def takeData (s : State) (ctx seq pkg : Nat) (bs : List Byte) : State :=
  let x := contextOf s ctx
  if !x.resident || !x.pkgs.contains pkg || pkg == s.ownPkg then s
  else
    match collectiveGang s ctx seq with
    | some serial =>
      match tfind s.gangs serial with
      | some g => takeFlit s serial pkg g (.data seq pkg bs)
      | none => setContext s ctx { x with received := x.received ++ [(seq, pkg, bs)] }
    | none =>
      if x.switching || !x.running then (captureFlit s ctx 0 (portOfPkg s pkg) (.data seq pkg bs)).getD s
      else setContext s ctx { x with received := x.received ++ [(seq, pkg, bs)] }

/-- JOB_HURDLE_ARRIVAL (R299): the arrival of another package of the job. -/
def execJobHurdleArrival (serial pkg : Nat) (s : State) : Out :=
  match tfind s.gangs serial with
  | some g =>
    .next (if (contextOf s g.ctx).pkgs.contains pkg && pkg != s.ownPkg then takeFlit s serial pkg g (.arrival pkg) else s)
  | none => .next s

/-- The notice that a member on another package seals the gang's job hurdle (R267). -/
def farSeal (s : State) (serial : Nat) : State :=
  match tfind s.gangs serial with
  | some g =>
    if (contextOf s g.ctx).laps then
      takeFlit s serial (((contextOf s g.ctx).pkgs.find? fun p => p != s.ownPkg).getD s.ownPkg) g .sealing
    else s
  | none => s

/-- A member's arrival is withdrawn (R369). A hurdle that no member has arrived at is no longer in progress. -/
def withdrawArrival (s : State) (serial m : Nat) : State :=
  match tfind s.gangs serial with
  | some g =>
    let left := g.arrived.filter (· != m)
    let seals := left.any fun i => match (memberCore s serial i).wait with
      | .hurdle _ sealing => sealing
      | _ => false
    setGang s serial { g with arrived := left, hurdleOn := !left.isEmpty, atSeal := false, image := none,
                              sealing := !left.isEmpty && (seals || g.sealNext) }
  | none => s

/-! ### Objects (R195 to R200) -/

/-- The state word and the reserved bytes of an object hold no reserved bit (R195). -/
def objectClean (s : State) (obj : Nat) : Bool := memRead s obj 8 / 2 ^ 17 == 0 && memRead s (obj + 0x20) 32 == 0

/-- The object checks of R197, with the rights that R211 asks of the form; then f with the object's entry and place. -/
def locateObject (s : State) (k : CoreKind) (c : Core) (need : Need) (va : Word) (f : Leaf → Nat → Core → SRes) : SRes :=
  if !aligned va 64 then raiseS s .align va
  else
    match c.replies with
    | .fail t :: _ => (s, .trap t)
    | _ =>
      withPhys s k c { need := need, memSide := true, kind := .atomic } va (trapS s) fun e phys c1 =>
        if unroutable s phys then raiseS s .remoteLost va else f e phys c1

/-- The object's entry and place, once the core's own earlier writes to it have been performed (R193). -/
def withObject (s : State) (k : CoreKind) (c : Core) (need : Need) (va : Word) (f : Leaf → Nat → Core → SRes) : SRes :=
  locateObject s k c need va fun e phys c1 =>
    if openAt s (agentCode s.cur) phys 64 then (s, .poll c1 .access) else f e phys c1

/-- The answer of a home to a request that ends the instruction, or the request. -/
def withAnswer (s : State) (c : Core) (ask : SRes) : SRes :=
  match c.replies with
  | .ok _ :: _ => (s, .done c)
  | .fail t :: _ => (s, .trap t)
  | [] => ask

/-- The holder field of an object for a member (R195). -/
def holderWord (s : State) (w : Waiter) (ctx : Nat) : Word :=
  let i := if w.member < 0x800 then w.member else 0x1000 + (w.member - 0x800)
  BitVec.ofNat 64 (s.ownPkg + i * 2 ^ 11 + ctx * 2 ^ 24 + w.serial * 2 ^ 40)

/-- ACQ (R199, R331). -/
def execAcq (a : Reg) (shared : Bool) (s : State) : Out :=
  runState s fun k c =>
    interlockS s k c [a] [] (withXS s k c a fun va c1 => withAnswer s c1 (
      withObject s k c1 .rw va fun e phys c2 =>
        if !objectClean s phys then raiseS s .illegal
        else if c2.holdings.any fun h => h.object == va.toNat then raiseS s .deadlock va
        else if 4 ≤ c2.holdings.length then raiseS s .illegal
        else
          match c2.gang, gangOf s c2 with
          | some serial, some g =>
            ({ s with acqQ := s.acqQ ++ [{ who := { serial := serial, member := memberNumber g s.cur }, obj := phys,
                                           va := va.toNat, shared := shared, leaf := e }] },
             .block c2 (.acq phys))
          | _, _ => raiseS s .illegal))

/-- The context of a gang. -/
def gangCtx (s : State) (serial : Nat) : Nat :=
  match tfind s.gangs serial with
  | some g => g.ctx
  | none => 0

/-- The agent number of a member of a gang. -/
def memberCode (s : State) (serial m : Nat) : Nat :=
  match tfind s.gangs serial with
  | some g => agentCode (memberAgent g.first m)
  | none => 0

/-- A write by the home of an object, to its page (R258). -/
def objectWrite (s : State) (ctx who : Nat) (e : Leaf) (va addr n v : Nat) : State :=
  homeWrite s ctx who e (some va) addr (toBytes n v)

/-- The head of an object's queue can be granted (R199). -/
def grantable (s : State) (r : AcqRequest) : Bool :=
  let w := memRead s r.obj 8
  if r.shared then !bitAt w 16 && decide (w % 2 ^ 16 < 65535) else w % 2 ^ 17 == 0

/-- Grant a request: the object's state, the holder, the member's holdings and its generation advance. -/
def grantOne (s : State) (r : AcqRequest) : State :=
  let ctx := gangCtx s r.who.serial
  let who := memberCode s r.who.serial r.who.member
  let w := memRead s r.obj 8
  let s1 := if r.shared then objectWrite s ctx who r.leaf r.va r.obj 8 (w + 1)
    else objectWrite (objectWrite s ctx who r.leaf r.va r.obj 8 (w + 2 ^ 16)) ctx who r.leaf (r.va + 8) (r.obj + 8) 8
      (holderWord s r.who ctx).toNat
  answerMember s1 r.who.serial r.who.member fun c =>
    genAdvance { c with holdings := c.holdings ++ [{ object := r.va, phys := r.obj, shared := r.shared }] }

/-- Grant the run of shared requests that follows in an object's queue; requests of other objects stay. -/
def grantShared (s : State) (obj : Nat) (todo : List AcqRequest) : State × List AcqRequest :=
  match todo with
  | [] => (s, [])
  | r :: rest =>
    if r.obj == obj then
      if r.shared && grantable s r then grantShared (grantOne s r) obj rest else (s, r :: rest)
    else
      match grantShared s obj rest with
      | (s1, l) => (s1, r :: l)

/-- The home grants the head of an object's queue, and with a shared head the run of shared ones (R199). -/
def grantHead (s : State) (obj : Nat) : State :=
  match s.acqQ.find? fun r => r.obj == obj with
  | none => s
  | some r =>
    if grantable s r then
      let rest := s.acqQ.erase r
      let s1 := grantOne s r
      if r.shared then
        match grantShared s1 obj rest with
        | (s2, l) => { s2 with acqQ := l }
      else { s1 with acqQ := rest }
    else s

/-- OBJECT_GRANT (R199): at the object of the request that the event names. -/
def execObjectGrant (s : State) : Out :=
  match s.acqQ[s.pick]? with
  | some r => .next (grantHead s r.obj)
  | none => .next s

/-- The priority that a restored holder kept for an object ends with its own release of it (R254). -/
def endBoost (s : State) (code obj : Nat) : State :=
  let mine := (coreOf s (agentOf code)).gang
  { s with gangs := s.gangs.map fun e =>
      (e.1, if some e.1 == mine then { e.2 with boost := e.2.boost.filter fun b => b.2 != obj } else e.2) }

/-- OBJECT_RELEASE (R200, R399): the hold is freed, the releaser goes on, the head of the queue is granted. -/
def execObjectRelease (s : State) : Out :=
  match picked s with
  | some p =>
    match p.kind with
    | .release h e =>
      let ctx := p.ctx
      let w := memRead s p.addr 8
      let s1 := unsend s
      let s2 := if h.shared then objectWrite s1 ctx p.src e h.object p.addr 8 (w - 1)
        else objectWrite (objectWrite s1 ctx p.src e h.object p.addr 8 (w - w / 2 ^ 16 % 2 * 2 ^ 16)) ctx p.src e
          (h.object + 8) (p.addr + 8) 8 0
      .next (grantHead (endBoost (answer s2 p.src (.ok 0#64)) p.src p.addr) p.addr)
    | _ => .next s
  | none => .next s

/-- A virtual address lies in a region bound to an object. -/
def boundTo (x : Context) (obj va : Nat) : Bool :=
  x.bindings.any fun b => b.object == obj && decide (b.base ≤ va ∧ va < b.base + b.len)

/-- A line with its dirty sectors inside the regions of an object written back: their masks clear, filled sectors stay (R200). -/
def cleanBound (x : Context) (obj : Nat) (l : Line) : Line :=
  let l' := (List.range 4).foldl (fun (l : Line) i =>
    if boundTo x obj (l.va + 32 * i) then
      { l with dirty := l.dirty &&& ~~~(((BitVec.allOnes 32).setWidth 128) <<< (32 * i)) }
    else l) l
  if lineInvalid l' then {} else l'

/-- The write-backs of REL: the dirty sectors of the core's cache inside the regions of an object. -/
def boundWriteBacks (a : Agent) (x : Context) (ctx obj : Nat) (c : Core) : List Packet × Core :=
  (c.lines.flatMap fun e =>
     if e.2.ctx == ctx then
       (List.range 4).filterMap fun i =>
         if boundTo x obj (e.2.va + 32 * i) && sectorDirty e.2 i != 0#32 then
           some { src := agentCode a, addr := e.2.phys + 32 * i,
                  kind := .writeBack (sectorDirty e.2 i) (e.2.data.extractLsb' (256 * i) 256) e.2.leaf, ctx := ctx }
         else none
     else [],
   { c with lines := c.lines.foldl (fun t e =>
       if e.2.ctx == ctx then tset t {} e.1 (cleanBound x obj e.2) else tput t e.1 e.2) [] })

/-- A store or atomic of the core to a memory-side page is in flight, whatever its home. -/
def anyStoreOpen (s : State) (code : Nat) : Bool :=
  s.net.any fun p => p.src == code && match p.kind with
    | .store _ _ _ _ => true
    | .atomic _ _ _ _ _ _ _ => true
    | .lost _ _ => true
    | _ => false

/-- REL past its checks: the write-backs of its regions, what it waits for, the release (R200). -/
def releaseObject (s : State) (c : Core) (va : Word) (e : Leaf) (phys : Nat) : SRes :=
  match c.holdings.find? fun h => h.object == va.toNat with
  | none => raiseS s .illegal
  | some h =>
    let ctx := (ctxOf s c).getD 0
    match boundWriteBacks s.cur (contextOf s ctx) ctx va.toNat c with
    | (ps, c1) =>
      let s1 := sendAll s ps
      let code := agentCode s.cur
      if !streamsDone c1 || writeBacksOpen s1 code (fun _ => true) || anyStoreOpen s1 code || remoteOpen s1 code then
        (s1, .poll c1 (.rel phys e))
      else raiseLost s1 c1 (askHome s1 c1 phys (.release h e) .step)

/-- REL (R200, R399): it translates once (R210). -/
def execRel (a : Reg) (s : State) : Out :=
  runState s fun k c =>
    interlockS s k c [a] [] (withXS s k c a fun va c1 =>
      match c1.replies, c1.wait with
      | .ok _ :: _, _ => (s, .done { c1 with holdings := c1.holdings.filter fun h => h.object != va.toNat })
      | _, .rel phys e => releaseObject s c1 va e phys
      | _, _ =>
        locateObject s k c1 .rw va fun e phys c2 =>
          if !objectClean s phys then raiseS s .illegal else releaseObject s c2 va e phys)

/-- BIND's change of the table, after the reads of the record (R198, R341). -/
def bindTable (x : Context) (obj : Nat) (base len : Word) : Except Trap Context :=
  let b : Binding := { object := obj, base := base.toNat, len := len.toNat }
  if x.bindings.contains b then .ok x
  else if base.toNat % 32 != 0 then .error { cause := .align, addr := base }
  else if len = 0#64 || len.toNat % 32 != 0 then .error { cause := .illegal }
  else if x.bindings.any fun o => decide (o.base < b.base + b.len ∧ b.base < o.base + o.len) then
    .error { cause := .illegal }
  else if 16 ≤ x.bindings.length then .error { cause := .illegal }
  else .ok { x with bindings := x.bindings ++ [b] }

/-- A failed answer to BIND: one that is not the object's is that of the record (R341). -/
def recordFail (va rec : Word) (r : Reply) : Reply :=
  match r with
  | .fail t => .fail (if t.addr = va then t else { t with addr := rec })
  | .ok w => .ok w

/-- BIND with the base of its record: the length, then the table. -/
def bindLength (s : State) (k : CoreKind) (c : Core) (va rec base : Word) : SRes :=
  globalLoad s k c .load (rec + 8#64) 8 (trapS s) fun len c1 =>
    match ctxOf s c1 with
    | none => raiseS s .illegal
    | some x =>
      match bindTable (contextOf s x) va.toNat base (BitVec.ofNat 64 len) with
      | .ok t => (setContext s x t, .done c1)
      | .error t => (s, .trap t)

/-- BIND (R198, R341). The base, once it is read, stands first in the core's replies. -/
def execBind (a b : Reg) (s : State) : Out :=
  runState s fun k c =>
    interlockS s k c [a, b] [] (withXS s k c a fun va c1 => withXS s k c1 b fun rec c2 =>
      withObject s k { c2 with replies := c2.replies.map (recordFail va rec) } .none va fun _ _ c3 =>
        if !aligned rec 8 then raiseS s .align rec
        else
          match c3.replies with
          | .ok base :: r => bindLength s k { c3 with replies := r } va rec base
          | _ =>
            globalLoad s k c3 .load rec 8 (trapS s) fun base c4 =>
              (s, .poll { c4 with replies := [.ok (BitVec.ofNat 64 base)] } .access))

/-- Some core of the context holds the object (R198). -/
def objectHeld (s : State) (x obj : Nat) : Bool :=
  (s.cores.any fun e => ctxOf s e.2 == some x && e.2.holdings.any fun h => h.object == obj) ||
  s.gangs.any fun e => e.2.ctx == x && match e.2.image with
    | some i => i.cores.any fun f => f.2.holdings.any fun h => h.object == obj
    | none => false

/-- UNBIND (R198, R341). -/
def execUnbind (a : Reg) (s : State) : Out :=
  runState s fun k c =>
    interlockS s k c [a] [] (withXS s k c a fun va c1 =>
      withObject s k c1 .none va fun _ _ c2 =>
        match ctxOf s c2 with
        | none => raiseS s .illegal
        | some x =>
          if objectHeld s x va.toNat then raiseS s .illegal
          else
            let t := contextOf s x
            (setContext s x { t with bindings := t.bindings.filter fun b => b.object != va.toNat }, .done c2))

/-! ### Wait queues (R253, R429) -/

/-- Where a member's node lies: in its gang record (R247). -/
def nodeAt (g : Gang) (m : Nat) : Nat :=
  g.saveBlock + 0x800 + 16 * (if m < 0x800 then m else 2048 + (m - 0x800))

/-- The second word of a node (R253), valid. -/
def nodeWord (s : State) (g : Gang) (serial m : Nat) : Nat :=
  m + g.ctx * 2 ^ 12 + serial * 2 ^ 28 + s.ownPkg * 2 ^ 52 + 2 ^ 63

/-- Append a member's node at the tail of an object's queue (R253). -/
def enqueueNode (s : State) (w : Waiter) (g : Gang) (e : Leaf) (va obj who : Nat) : State :=
  let node := nodeAt g w.member
  let s1 := memWrite s node (toBytes 8 0 ++ toBytes 8 (nodeWord s g w.serial w.member))
  let tail := memRead s1 (obj + 0x18) 8
  let s2 := if memRead s1 (obj + 0x10) 8 = 0 then objectWrite s1 g.ctx who e (va + 0x10) (obj + 0x10) 8 node
    else memWrite s1 tail (toBytes 8 node)
  objectWrite s2 g.ctx who e (va + 0x18) (obj + 0x18) 8 node

/-- WAITQ (R253, R429). -/
def execWaitq (a : Reg) (s : State) : Out :=
  runState s fun k c =>
    interlockS s k c [a] [] (withXS s k c a fun va c1 => withAnswer s c1 (
      withObject s k c1 .none va fun e phys c2 =>
        if !objectClean s phys then raiseS s .illegal
        else
          match c2.gang, gangOf s c2 with
          | some serial, some g =>
            let w : Waiter := { serial := serial, member := memberNumber g s.cur }
            if bitAt (memRead s (nodeAt g w.member + 8) 8) 63 then raiseS s .illegal
            else (enqueueNode s w g e va.toNat phys (agentCode s.cur), .block c2 (.waitq phys))
          | _, _ => raiseS s .illegal))

/-- Unlink the first n nodes of an object's queue, clear their valid bits and send each waiter a wake (R253). -/
def wakeNodes (s : State) (ctx who : Nat) (e : Leaf) (va obj n : Nat) : State :=
  match n with
  | 0 => s
  | n + 1 =>
    let node := memRead s (obj + 0x10) 8
    if node = 0 then s
    else
      let next := memRead s node 8
      let w := memRead s (node + 8) 8
      let s1 := memWrite s (node + 8) (toBytes 8 (w % 2 ^ 63))
      let s2 := objectWrite s1 ctx who e (va + 0x10) (obj + 0x10) 8 next
      let s3 := if next = 0 then objectWrite s2 ctx who e (va + 0x18) (obj + 0x18) 8 0 else s2
      let s4 := if bits w 52 11 = s.ownPkg then
          send s3 { src := who, addr := obj, kind := .wake (bits w 28 24) (bits w 0 12) }
        else s3
      wakeNodes s4 ctx who e va obj n

/-- Nodes of an object's queue from one on, at most fuel of them. -/
def queueLength (s : State) (node fuel : Nat) : Nat :=
  match fuel with
  | 0 => 0
  | fuel + 1 => if node = 0 then 0 else 1 + queueLength s (memRead s node 8) fuel

/-- No queue is longer: each of its nodes lists a byte of its own, its valid bit. -/
def queueBound (s : State) : Nat := s.mem.length

/-- WAKE (R253, R429): waits as FENCE b=2, then the home releases the first waiters. -/
def execWake (a b : Reg) (s : State) : Out :=
  runState s fun k c =>
    interlockS s k c [a, b] [] (withXS s k c a fun va c1 => withXS s k c1 b fun n c2 =>
      withObject s k c2 .none va fun e phys c3 =>
        if !objectClean s phys then raiseS s .illegal
        else if fenceOpen s (agentCode s.cur) 2 then (s, .poll c3 .fence)
        else
          let queued := queueLength s (memRead s (phys + 0x10) 8) (queueBound s)
          (wakeNodes s ((ctxOf s c3).getD 0) (agentCode s.cur) e va.toNat phys (Nat.min n.toNat queued), .done c3))

/-- WAKE_DELIVERY (R253, R429): the waiter's generation advances and it goes on after its WAITQ. -/
def execWakeDelivery (s : State) : Out :=
  match picked s with
  | some p =>
    match p.kind with
    | .wake serial m => .next (answerMember (unsend s) serial m genAdvance)
    | _ => .next s
  | none => .next s

/-- The nodes of a queue from one on, without a given one. -/
def unlinkNode (s : State) (ctx who : Nat) (e : Leaf) (va obj prev node target fuel : Nat) : State :=
  match fuel with
  | 0 => s
  | fuel + 1 =>
    if node = 0 then s
    else
      let next := memRead s node 8
      if node = target then
        let s1 := memWrite s (node + 8) (toBytes 8 (memRead s (node + 8) 8 % 2 ^ 63))
        let s2 := if prev = 0 then objectWrite s1 ctx who e (va + 0x10) (obj + 0x10) 8 next else memWrite s1 prev (toBytes 8 next)
        if next = 0 then objectWrite s2 ctx who e (va + 0x18) (obj + 0x18) 8 prev else s2
      else unlinkNode s ctx who e va obj node next target fuel

/-! ### Decision tokens (R42, R43, R347, R348) -/

/-- The 32 bytes of a notice that is no finish (R326): kind and operand. -/
def noticeBytes (kind operand : Nat) : BitVec 256 := BitVec.ofNat 256 ((kind + operand * 2 ^ 32) * 2 ^ 64)

/-- The notice FIFO has room (R235). -/
def noticeRoom (s : State) : Bool := decide (s.starter.notices.length < 4096)

/-- A token goes to the Starter (R43); while the standby takes over it waits in the notice FIFO (R235). -/
def sendToken (s : State) (serial : Nat) (slot : BitVec 2) : State :=
  match tfind s.gangs serial with
  | some g =>
    if s.starter.takingOver then
      { s with starter := { s.starter with notices := s.starter.notices ++
          [{ kind := .token slot, serial := serial, bytes := noticeBytes 2 slot.toNat }] } }
    else setGang s serial { g with tokens := g.tokens ++ [slot] }
  | none => s

/-- DECIDE (R347, R348): it is the last instruction that the core issues in the old slot; no loop that ends at it is evaluated (R384). -/
def execDecide (slot : BitVec 2) (s : State) : Out :=
  runState s fun _ c =>
    match c.gang with
    | some serial =>
      if c.inHandler then raiseS s .illegal
      else if s.starter.takingOver && !noticeRoom s then (s, .freeze .starterQueue)
      else (sendToken s serial slot, .goto { c with mode := .stopped } (c.pc + 4#14))
    | none => raiseS s .illegal

end Sys2Proof.Machine
end

