-- ==== Sys2Proof/Machine/Starter.lean ====
section
/-! DEFINITION. The Starter's records: batons, queues and their entries, completion records, the journal, lanes, save blocks
(R30, R34, R220 to R224, R228 to R231, R234, R243, R305, R308). -/

namespace Sys2Proof.Machine

/-! ### The baton (R30) -/

/-- n bytes of a baton from an offset. -/
def batonField (b : VWord) (off n : Nat) : Nat := (b.extractLsb' (8 * off) (8 * n)).toNat

/-- Virtual address of the leg image. -/
def bImage (b : VWord) : Nat := batonField b 0x00 8
/-- W. -/
def bLanes (b : VWord) : Nat := batonField b 0x08 1
/-- The first lane, or 0xFF. -/
def bPlace (b : VWord) : Nat := batonField b 0x09 1
/-- Priority. -/
def bPrio (b : VWord) : Nat := batonField b 0x0A 1
/-- Flags: bit 0 sealing, bit 1 heat runner, bit 2 time-triggered. -/
def bFlags (b : VWord) : Nat := batonField b 0x0B 1
/-- Instance count. -/
def bCount (b : VWord) : Nat := batonField b 0x0C 4
/-- Argument block. -/
def bArgs (b : VWord) : Nat := batonField b 0x10 8
/-- Dependency counter. -/
def bDep (b : VWord) : Nat := batonField b 0x18 8
/-- First successor. -/
def bSucc0 (b : VWord) : Nat := batonField b 0x20 8
/-- Second successor. -/
def bSucc1 (b : VWord) : Nat := batonField b 0x28 8
/-- Completion word. -/
def bCword (b : VWord) : Nat := batonField b 0x30 8
/-- Completion value. -/
def bCval (b : VWord) : Nat := batonField b 0x38 8
/-- Release scope. -/
def bScope (b : VWord) : Nat := batonField b 0x40 1
/-- Launch track time. -/
def bTtime (b : VWord) : Nat := batonField b 0x48 8
/-- Context id. -/
def bCtx (b : VWord) : Nat := batonField b 0x50 2
/-- Configuration identity. -/
def bCfg (b : VWord) : BitVec 8 := b.extractLsb' 0x290 8
/-- Heat handle. -/
def bHeat (b : VWord) : Nat := batonField b 0x53 1
/-- The sealing flag. -/
def bSealing (b : VWord) : Bool := bitAt (bFlags b) 0
/-- The heat-runner flag. -/
def bRunner (b : VWord) : Bool := bitAt (bFlags b) 1
/-- The time-triggered flag. -/
def bTimed (b : VWord) : Bool := bitAt (bFlags b) 2

/-- A reserved field or bit of a baton is not zero. -/
def bReserved (b : VWord) : Bool :=
  decide (8 ≤ bFlags b) || batonField b 0x41 7 != 0 || batonField b 0x54 44 != 0

/-- A baton with n bytes at an offset replaced. -/
def setBatonField (b : VWord) (off n v : Nat) : VWord :=
  let m : VWord := BitVec.ofNat 1024 ((2 ^ (8 * n) - 1) * 2 ^ (8 * off))
  (b &&& ~~~m) ||| BitVec.ofNat 1024 (v % 2 ^ (8 * n) * 2 ^ (8 * off))

/-! ### Queues (R220, R221, R223) -/

/-- An indirect entry for a baton address (R221). -/
def indirectEntry (addr : Nat) : VWord := BitVec.ofNat 1024 (addr % 2 ^ 64 + 0x80 * 2 ^ (8 * 0x7F))

/-- An entry is indirect. -/
def isIndirect (b : VWord) : Bool := b == indirectEntry (batonField b 0 8)

/-- Events counted by the management controller. -/
def count (s : State) : State := { s with mgmt := { s.mgmt with dropped := s.mgmt.dropped + 1 } }

/-- Mark a queue for examination (R224). -/
def markQueue (s : State) (q : Nat) : State :=
  { s with starter := { s.starter with marked := insertNat q s.starter.marked } }

/-- A queue has room. -/
def hasRoom (r : Queue) : Bool := decide (r.entries.length < 64)

/-- A baton of a context is appended: its idle period ends (R268). -/
def leaveIdle (s : State) (x : Nat) : State :=
  if (contextOf s x).idleSealed then setContext s x { contextOf s x with idleSealed := false } else s

/-- The ring entries of a queue are those from head to tail − 1, and taken ones stay as they were (R220, R329). -/
def syncRing (r : Queue) : Queue :=
  let put (t : Tbl VWord) (e : Nat × Entry) : Tbl VWord := tput t ((r.head.toNat + e.1) % 64) e.2.bytes
  { r with ring := ((List.range r.entries.length).zip r.entries).foldl put r.ring }

/-- Append an entry to a queue; none when it is full. A head that has been examined is not examined again for it (R33). -/
def appendEntry (s : State) (q : Nat) (bytes : VWord) (src : EntrySource) : Option State :=
  let r := queueOf s q
  if hasRoom r then
    let e : Entry := { bytes := bytes, source := src, lap := (contextOf s r.ctx).lapId.toNat }
    some (leaveIdle (setQueue s q { r with
      entries := r.entries ++ [e], tail := r.tail + 1#32, ring := tput r.ring (r.tail.toNat % 64) bytes }) r.ctx)
  else none

/-- A successor push: into the queue, or into the push buffer (R223). -/
def pushEntry (s : State) (q : Nat) (addr : Nat) : State :=
  let st := s.starter
  match (if st.pushBuf.any fun e => e.1 == q then none else appendEntry s q (indirectEntry addr) .push) with
  | some s1 => s1
  | none =>
    let e : Entry := { bytes := indirectEntry addr, source := .push, lap := (contextOf s (queueOf s q).ctx).lapId.toNat }
    { s with starter := { st with pushBuf := st.pushBuf ++ [(q, e)] } }

/-- The push buffer is full: no further finish is processed (R223). -/
def pushFull (s : State) : Bool := decide (256 ≤ s.starter.pushBuf.length)

/-- Set a queue's pending bit, with its append flag (R222). -/
def setPending (s : State) (q : Nat) (app : Bool) : State :=
  let st := s.starter
  { s with starter := { st with pend := st.pend ||| (1#256 <<< q),
                                app := if app then st.app ||| (1#256 <<< q) else st.app } }

/-- Clear a queue's pending bit and append flag. -/
def clearPending (s : State) (q : Nat) : State :=
  let st := s.starter
  { s with starter := { st with pend := st.pend &&& ~~~(1#256 <<< q), app := st.app &&& ~~~(1#256 <<< q) } }

/-! ### The journal (R234, R325 to R327) -/

/-- The active Starter core runs a program of its own, which then handles the notices and writes the journal (R326, R327). -/
def firmwareRuns (s : State) : Bool :=
  let c := coreOf s (.starter s.starter.active)
  c.mode == .running && !c.code.isEmpty

/-- The firmware stands at byte offset 0x0800, where it keeps the pass of R224: its journal groups are complete, and the pass, which is
not listed, is the Starter's (R327, R328; log 158). -/
def atPass (s : State) : Bool := firmwareRuns s && (coreOf s (.starter s.starter.active)).pc == 0x800#14

/-- Firmware runs and is not at the pass: what the pass does waits until it is. -/
def passAway (s : State) : Bool := firmwareRuns s && !atPass s

/-- The Starter does its own work: it has not stopped, and no take-over is in progress (R235, R236). -/
def starterActs (s : State) : Bool := !s.starter.stopped && !s.starter.takingOver

/-- An entry's 32 bytes. -/
def journalEntry (seq : BitVec 32) (kind flags q addr operand : Nat) (time : Word) : BitVec 256 :=
  BitVec.ofNat 256 (seq.toNat + kind * 2 ^ 32 + flags * 2 ^ 40 + q % 2 ^ 16 * 2 ^ 48 + addr % 2 ^ 64 * 2 ^ 64 +
    operand % 2 ^ 64 * 2 ^ 128 + time.toNat * 2 ^ 192)

/-- Sequence number of an entry. -/
def jeSeq (e : Nat) : Nat := bits e 0 32
/-- Kind of an entry. -/
def jeKind (e : Nat) : Nat := bits e 32 8
/-- The done bit. -/
def jeDone (e : Nat) : Bool := bitAt e 40
/-- Second successor. -/
def jeSecond (e : Nat) : Bool := bitAt e 41
/-- Queue, or context. -/
def jeQ (e : Nat) : Nat := bits e 48 16
/-- Address. -/
def jeAddr (e : Nat) : Nat := bits e 64 64
/-- Operand. -/
def jeOperand (e : Nat) : Nat := bits e 128 64
/-- Kinds 6 to 9 are of the completion class. -/
def jeCompletion (e : Nat) : Bool := decide (6 ≤ jeKind e ∧ jeKind e ≤ 9)

/-- The entry under a sequence number: copy A, or copy B where A holds an uncorrectable error (R325). -/
def entryAt (s : State) (seq : Nat) : Nat :=
  let st := s.starter
  (tget (if entryBad st.jaBad (seq % 2048) then st.jb else st.ja) 0#256 (seq % 2048)).toNat

/-- Write a journal entry into both copies; an entry that is written whole holds no error. -/
def putEntry (s : State) (i : Nat) (e : BitVec 256) : State :=
  let st := s.starter
  { s with starter := { st with ja := tset st.ja 0#256 i e, jb := tset st.jb 0#256 i e,
                                jaBad := st.jaBad.filter (· / 4 != i), jbBad := st.jbBad.filter (· / 4 != i) } }

/-- No entry is written: the change has one already, or a Starter core that runs a program of its own is not at its pass and writes
the journal itself (R327, R328). -/
def journalRests (s : State) : Bool := s.starter.replaying || passAway s

/-- A change whose entry stands in the journal already (R327). -/
def withEntry (f : State → State) (s : State) : State :=
  let t := f { s with starter := { s.starter with replaying := true } }
  { t with starter := { t.starter with replaying := s.starter.replaying } }

/-- At the pass the firmware's register x25 holds the next sequence number, as in its listing (log 158). -/
def followTail (s : State) : State :=
  let a : Agent := .starter s.starter.active
  if atPass s then setCore s a (putX (coreOf s a) 25 (s.starter.jtail.setWidth 64)) else s

/-- The pass writes an entry before its change. -/
def journalOpen (s : State) (kind flags q addr operand : Nat) : State :=
  if journalRests s then s
  else
    let seq := s.starter.jtail
    let s1 := putEntry s (seq.toNat % 2048) (journalEntry seq kind flags q addr operand s.trackTime)
    followTail { s1 with starter := { s1.starter with jtail := seq + 1#32 } }

/-- The entry of a change that is performed in the same step: it is done with it. -/
def journal (s : State) (kind flags q addr operand : Nat) : State := journalOpen s kind (flags + 1) q addr operand

/-- The sequence number of the entry that the pass writes next; none when it writes none. -/
def nextSeq (s : State) : Option Nat := if journalRests s then none else some s.starter.jtail.toNat

/-- Set the done bit of an entry in both copies; one that the ring no longer holds is left alone. -/
def markDone (s : State) (seq : Nat) : State :=
  let st := s.starter
  let i := seq % 2048
  let set (t : Tbl (BitVec 256)) : Tbl (BitVec 256) := tset t 0#256 i (tget t 0#256 i ||| (1#256 <<< 40))
  let st1 : Starter := if jeSeq (entryAt s seq) = seq then { st with ja := set st.ja, jb := set st.jb } else st
  { s with starter := { st1 with performed := st.performed.filter (· != seq) } }

/-- Mark the entry of a change that has one. -/
def markSeq (s : State) (seq : Option Nat) : State :=
  match seq with
  | some n => markDone s n
  | none => s

/-! ### Completion records (R228, R230, R231, R266) -/

/-- A completion record without its time. -/
def mkRecord (kind : Nat) (cause : BitVec 8) (ctx inst : Nat) (baton : Word) (discarded : Nat) : Record :=
  BitVec.ofNat 256 (kind + cause.toNat * 2 ^ 8 + ctx % 2 ^ 16 * 2 ^ 16 + inst % 2 ^ 32 * 2 ^ 32 + baton.toNat * 2 ^ 64 +
    discarded % 2 ^ 32 * 2 ^ 128)

/-- A record with its time field. -/
def stampRecord (r : Record) (time : Word) : Record := r.extractLsb' 0 192 |> fun lo => time ++ lo

/-- A context's ring is full (R228). -/
def ringFull (x : Context) : Bool := (x.cqProducer - x.cqConsumer).toNat == 2 ^ x.cqS

/-- The 32 bytes of a record over what stands in its place: the reserved bytes 0x14..0x17 keep their values (R7, R230). -/
def recordBytes (r : Record) (old : List Byte) : List Byte :=
  let bs := toBytes 32 r.toNat
  bs.take 0x14 ++ (old.drop 0x14).take 4 ++ bs.drop 0x18

/-- Write a record to a context's ring and hand its copy to the host stream engine, with the context slot's MSI-X vector: its
journal entry is done. Where the ring's page does not translate, no byte of HBM is written. A host field of 0 names no host ring: the
record is not copied (log 159). -/
def ringWrite (s : State) (ctx : Nat) (r : HeldRecord) : State :=
  let x := contextOf s ctx
  let i := x.cqProducer.toNat % 2 ^ x.cqS
  let stamped := stampRecord r.record s.trackTime
  let (s1, bs) := match translateFor s ctx 0#8 { need := .w, scalar := true } (x.cqBase + 32 * i) with
    | .ok (e, phys) =>
      let bs := recordBytes stamped (memBytes s phys 32)
      (homeWrite s ctx (agentCode (.starter s.starter.active)) e (some (x.cqBase + 32 * i)) phys bs, bs)
    | .error _ => (s, toBytes 32 stamped.toNat)
  let host := x.cqHost.toNat + 32 * i
  let out : OutTransfer :=
    { ctx := ctx, bytes := (List.range 32).zip bs |>.map (fun e => (host + e.1, e.2)), vector := some (ctx % 16),
      after := (s.outQ.filter fun o => o.vector.isNone && o.ready).map (·.serial) }
  let s2 := if x.cqHost = 0#64 then s1 else { s1 with outQ := s1.outQ ++ [out] }
  markSeq (setContext s2 ctx { contextOf s2 ctx with cqProducer := x.cqProducer + 1#32 }) r.seq

/-- Write records in order while the ring has room; the rest is held (R231). -/
def ringWrites (s : State) (ctx : Nat) (rs : List HeldRecord) : State :=
  match rs with
  | [] => setContext s ctx { contextOf s ctx with heldRecords := [] }
  | r :: rest =>
    let x := contextOf s ctx
    if ringFull x then setContext s ctx { x with heldRecords := r :: rest }
    else ringWrites (ringWrite s ctx r) ctx rest

/-- Append a record for a context: written, or held behind a full ring; staged in a context that runs laps (R266). -/
def appendRecord (s : State) (ctx : Nat) (r : HeldRecord) : State :=
  let x := contextOf s ctx
  if x.laps then setContext s ctx { x with stagedRecords := x.stagedRecords ++ [r] }
  else if x.heldRecords.isEmpty then ringWrites s ctx [r]
  else setContext s ctx { x with heldRecords := x.heldRecords ++ [r] }

/-- The record image of a journal entry stands here in a Starter core's address space (R325). -/
def imageAddr (seq : Nat) : Nat := 0x0080000000030000 + 32 * (seq % 2048)

/-- Append a record for a context, with its journal entry and its image (R234, R327). -/
def addRecord (s : State) (ctx : Nat) (r : Record) : State :=
  match nextSeq s with
  | none => appendRecord s ctx { record := r, seq := none }
  | some n =>
    let s1 := journalOpen s 9 0 ctx (imageAddr n) 0
    appendRecord { s1 with starter := { s1.starter with img := tset s1.starter.img 0#256 (n % 2048) r } } ctx
      { record := r, seq := some n }

/-- An append that a program makes, with its journal entry; none while the queue is full or the firmware, which would write the entry,
is away from its pass (R223, R234; log 158). -/
def programAppend (s : State) (q : Nat) (bytes : VWord) (src : EntrySource) : Option State :=
  if passAway s then none else (appendEntry s q bytes src).map fun s1 => journal s1 1 0 q 0 0

/-! ### Pages -/

/-- The entry of a context's page that holds a domain physical address, and the virtual address of that byte. -/
def pageOfPhys (s : State) (ctx phys : Nat) : Option (Leaf × Nat) :=
  (contextOf s ctx).pages.findSome? fun e =>
    let base := leafPkg e * 2 ^ 48 + leafFrame e * 4096
    if leafV e && decide (base ≤ phys ∧ phys < base + 2 ^ pageBits (leafSize e)) then some (e, leafVtag e * 4096 + (phys - base)) else none

/-! ### Lanes (R29, R34, R305, R308) -/

/-- The agent of a repair entry: tile number, or 0x800 + memory-core number (R304). -/
def repairAgent (n : Nat) : Agent := if n < 0x800 then .tile n else .mem (n - 0x800)

/-- A member's repair entry has fail set: its lane is fenced (R305). -/
def laneFenced (s : State) (l : Nat) : Bool :=
  s.mgmt.repair.any fun e => e.2.getLsbD 16 && agentLane (repairAgent e.1) == l

/-- An island is gated off (R308). -/
def gated (s : State) (i : Nat) : Bool := (tget s.mgmt.islands (10, false) i).2

/-- The memory-edge island of a memory core: that of its stack (R22). -/
def memIsland (k : Nat) : Nat := 64 + k / 32

/-- A gated island holds tiles or memory cores of the lane (R308). -/
def laneGated (s : State) (l : Nat) : Bool :=
  (laneAgents l 1).any fun a =>
    match a with
    | .tile n => gated s (tileIsland n)
    | .mem k => gated s (memIsland k)
    | _ => false

/-- A gang occupies the lane. -/
def laneTaken (s : State) (l : Nat) : Bool :=
  s.gangs.any fun e => e.2.state != .saved && decide (e.2.first ≤ l ∧ l < e.2.first + e.2.lanes)

/-- The lane is free; after a thermal trip none is, until the package restarts (R309). -/
def laneFree (s : State) (l : Nat) : Bool := !laneTaken s l && !laneFenced s l && !laneGated s l && !s.mgmt.thermalStop

/-- W lanes from f are free. -/
def runFree (s : State) (f w : Nat) : Bool := decide (f + w ≤ 32) && (List.range w).all fun i => laneFree s (f + i)

/-- The lowest free run of W lanes (R34). -/
def lowestRun (s : State) (w : Nat) : Option Nat := firstFrom (fun f => runFree s f w) 0 32

/-- Some run of W lanes holds no fenced lane (R32). -/
def runExists (s : State) (w : Nat) : Bool :=
  (firstFrom (fun f => decide (f + w ≤ 32) && (List.range w).all fun i => !laneFenced s (f + i)) 0 32).isSome

/-! ### Save blocks (R243) -/

/-- Bytes of a save block of W lanes. -/
def blockSize (w : Nat) : Nat := 0x10000 + 64 * w * 0x104000 + 12 * w * 0x44000 + 16 * w * 0x21000

/-- A run of n bytes at an offset of the save area is free. -/
def blockFree (x : Context) (off n : Nat) : Bool :=
  decide (off + n ≤ x.saveSize) && !x.blocks.any fun b => decide (b.1 < off + n ∧ off < b.1 + b.2)

/-- The lowest offset from n on of a save area at base whose address is a multiple of 64 KiB. -/
def roundBlock (base n : Nat) : Nat := (base + n + 0xFFFF) / 0x10000 * 0x10000 - base

/-- The lowest free run for a block: it starts at the first aligned address or behind a block. -/
def findBlock (x : Context) (n : Nat) : Option Nat :=
  (sortNat (roundBlock x.saveBase 0 :: x.blocks.map fun b => roundBlock x.saveBase (b.1 + b.2))).find? fun o => blockFree x o n

/-- The domain physical address of an offset of a context's save area. -/
def saveAddr (s : State) (x : Context) (off : Nat) : Nat := s.ownPkg * 2 ^ 48 + x.saveBase + off

/-- Free the save block that starts at a domain physical address. -/
def freeBlock (s : State) (ctx addr : Nat) : State :=
  let x := contextOf s ctx
  setContext s ctx { x with blocks := x.blocks.filter fun b => saveAddr s x b.1 != addr }

/-- The baton record under a number. -/
def batonOf (s : State) (b : Nat) : Option Baton := tfind s.starter.batons b

/-- Write a baton record. -/
def setBaton (s : State) (b : Nat) (r : Baton) : State :=
  { s with starter := { s.starter with batons := tput s.starter.batons b r } }

/-- Remove a baton record. -/
def dropBaton (s : State) (b : Nat) : State :=
  { s with starter := { s.starter with batons := tdel s.starter.batons b } }

end Sys2Proof.Machine
end

