-- ==== Sys2Proof/Machine/Heat.lean ====
section
/-! DEFINITION. Heats: the record, the four instructions, settling and closing, the deadline (R276 to R286, R361 to R371). -/

namespace Sys2Proof.Machine

/-! ### The record at its home (R276) -/

/-- n bytes of a heat record. -/
def heatField (s : State) (rec off n : Nat) : Nat := memRead s (rec + off) n

/-- The address of runner i's slot. -/
def heatSlot (rec i : Nat) : Nat := rec + 0x100 + 16 * i

/-- The state of runner i: 0 pending, 1 running, 2 rewarded, 3 finished without reward, 4 cancelled, 5 invalid reward. -/
def rstat (s : State) (rec i : Nat) : Nat := memRead s (heatSlot rec i + 8) 1

/-- The home writes n bytes of a record (R258, R276). -/
def heatWrite (s : State) (rec who off n v : Nat) : State :=
  match tfind s.heats rec with
  | some h => homeWrite s h.ctx who h.leaf (some (h.va + off)) (rec + off) (toBytes n v)
  | none => s

/-- The home writes n bytes of runner i's slot. -/
def slotWrite (s : State) (rec who i off n v : Nat) : State := heatWrite s rec who (0x100 + 16 * i + off) n v

/-- A runner is settled (R282). -/
def settledAt (s : State) (rec i : Nat) : Bool := decide (2 ≤ rstat s rec i)

/-- The runners that hold a valid reward, in increasing index. -/
def presentRunners (s : State) (rec k : Nat) : List Nat :=
  (List.range k).filter fun i => bitAt (heatField s rec 0x20 8) i

/-- The FP32 sum of codes in order, from +0 (R283). -/
def sumF32 (l : List Nat) : Nat := l.foldl addF32 0

/-- What a close computes of the present rewards (R283): mean, variance, ZV, advantages. -/
def advantages (rewards : List Nat) (eps : Nat) : Nat × Nat × Bool × List Nat :=
  let n := rewards.length
  let mean := divInt32 (sumF32 rewards) n
  let d := rewards.map fun r => subF32 r mean
  let var := divInt32 (sumF32 (d.map fun x => mulF32 x x)) n
  if n = 1 ∨ var = 0 then (mean, var, true, rewards.map fun _ => 0)
  else
    let sd := sqrtF32 (addF32 var eps)
    (mean, var, false, d.map fun x => divF32 x sd)

/-- The advantage code of an absent slot (R284). -/
def absentCode (rs : Nat) : Nat := if rs = 4 then 0x7FC00002 else 0x7FC00001

/-- The waiters of a record leave with its status and flags, in home order (R281, R370); a saved one no longer waits, and issues its
HWAIT again at the restore, its popped address back in its FIFO (R371). -/
def wakeHeat (s : State) (rec w : Nat) : State :=
  let ws := s.heatWaiters.filter fun e => e.2 == rec
  let s1 := { s with heatWaiters := s.heatWaiters.filter fun e => e.2 != rec }
  ws.foldl (fun t e =>
    match (tfind t.gangs e.1.serial).map fun g => (g, g.away, g.image) with
    | some (g, true, some i) => updSaved t e.1.serial e.1.member g i unissued
    | _ =>
      updMember t e.1.serial e.1.member fun c =>
        genAdvance { c with replies := c.replies ++ [.ok (BitVec.ofNat 64 w)], blocked := false }) s1

/-- The mean, the variance and the advantages go into the record (R283, R284). -/
def writeAdvantages (s : State) (rec who k : Nat) (ps : List Nat) : State × Bool :=
  match advantages (ps.map fun i => memRead s (heatSlot rec i) 4) (heatField s rec 0x08 4) with
  | (mean, var, zv, adv) =>
    let s1 := heatWrite (heatWrite s rec who 0x0C 4 mean) rec who 0x28 4 var
    let s2 := (ps.zip adv).foldl (fun t e => slotWrite t rec who e.1 4 4 e.2) s1
    ((List.range k).foldl (fun t i =>
      if ps.contains i then t else slotWrite t rec who i 4 4 (absentCode (rstat t rec i))) s2, zv)

/-- The close (R283): one home step; the status is written last. -/
def closeHeat (s : State) (rec who : Nat) : State :=
  match tfind s.heats rec with
  | none => s
  | some h =>
    let k := heatField s rec 0x02 1
    let ps := presentRunners s rec k
    let s1 := heatWrite (heatWrite s rec who 0x05 1 ps.length) rec who 0x18 8 h.run
    if ps.length < heatField s rec 0x03 1 then
      let s2 := heatWrite s1 rec who 0x00 1 4
      wakeHeat { s2 with heats := tdel s2.heats rec } rec (4 + 256 * heatField s2 rec 0x01 1)
    else
      match writeAdvantages s1 rec who k ps with
      | (s2, zv) =>
        let fl := heatField s2 rec 0x01 1 / 2 * 2 + (if zv then 1 else 0)
        let st := if ps.length = k then 2 else 3
        let s3 := heatWrite (heatWrite s2 rec who 0x01 1 fl) rec who 0x00 1 st
        wakeHeat { s3 with heats := tdel s3.heats rec } rec (st + 256 * fl)

/-- The heat closes when its last runner has settled (R282). -/
def testClose (s : State) (rec who : Nat) : State :=
  if (List.range (heatField s rec 0x02 1)).all fun i => settledAt s rec i then closeHeat s rec who else s

/-! ### The runner of a slot (R366) -/

/-- The handle in the baton of a core's gang, 0 for a gang that is no runner. -/
def ownHandle (g : Gang) : Nat := if bRunner g.bytes then bHeat g.bytes else 0

/-- A gang is the runner of its slot: its handle is the record's and its serial the slot's (R366). -/
def isOwnSlot (s : State) (rec serial : Nat) (g : Gang) : Bool :=
  ownHandle g != 0 && ownHandle g == heatField s rec 0x04 1 && bits (memRead s (heatSlot rec g.runner + 0xC) 4) 0 24 == serial

/-! ### Cancelling (R280, R362) -/

/-- An entry is that of runner i of the record. -/
def isRunnerEntry (rec i : Nat) (e : Entry) : Bool := e.source == .runner rec i

/-- A queue without the entry of runner i, if it holds it and has not begun to place it. -/
def dropRunnerEntry (rec i : Nat) (r : Queue) : Queue :=
  match r.entries with
  | e :: rest =>
    if isRunnerEntry rec i e then { r with entries := rest, head := r.head + 1#32, current := none }
    else syncRing { r with entries := e :: rest.filter (fun f => !isRunnerEntry rec i f),
                           tail := r.tail - BitVec.ofNat 32 (rest.filter (isRunnerEntry rec i)).length }
  | [] => r

/-- The gang of a runner that has been cancelled is to be retired (R362). -/
def retireRunner (s : State) (serial : Nat) : State :=
  match tfind s.gangs serial with
  | some g => urgent (setGang s serial { g with cancelled := true }) [.event (.runnerRetire serial)]
  | none => s

/-- A cancelled runner leaves the queues; a placed or saved one is retired (R280, R362). The runner of an earlier heat on the same
record goes on. -/
def dropRunner (s : State) (rec i : Nat) : State :=
  match s.gangs.find? fun e => e.2.heat == some rec && e.2.runner == i && isOwnSlot s rec e.1 e.2 with
  | none =>
    let bs := s.starter.batons.filter fun e => !(e.2.runner == some (rec, i) && e.2.placed == 0)
    { s with starter := { s.starter with queues := s.starter.queues.map (fun e => (e.1, dropRunnerEntry rec i e.2)),
                                         batons := bs } }
  | some e => retireRunner s e.1

/-- Runner i is cancelled when it is pending or running. -/
def cancelRunner (s : State) (rec who i : Nat) : State :=
  if rstat s rec i < 2 then dropRunner (slotWrite s rec who i 8 1 4) rec i else s

/-- A runner settles with a state, and the heat is tested for its close. -/
def settleRunner (s : State) (rec who i rs : Nat) : State :=
  if (tfind s.heats rec).isSome && decide (rstat s rec i < 2) then testClose (slotWrite s rec who i 8 1 rs) rec who else s

/-- A gang's runner settles with a state, if the slot is still the gang's (R282). -/
def settleGang (s : State) (serial : Nat) (g : Gang) (who rs : Nat) : State :=
  match g.heat with
  | some rec => if isOwnSlot s rec serial g then settleRunner s rec who g.runner rs else s
  | none => s

/-! ### The instructions -/

/-- The checks of R277; then f with the record's entry and place. A miss is sent as a load's, or as an atomic's where the record is
written (log 168). -/
def withHeat (s : State) (k : CoreKind) (c : Core) (va : Word) (writes : Bool) (f : Leaf → Nat → Core → SRes) : SRes :=
  if !aligned va 256 then raiseS s .align va
  else
    match c.replies with
    | .fail t :: _ => (s, .trap t)
    | _ =>
      withPhys s k c { need := if writes then .rw else .r, kind := if writes then .atomic else .load } va
        (trapS s) fun e phys c1 =>
          if !leafM e || pkgOf phys != s.ownPkg then raiseS s .perm va
          else if openAt s (agentCode s.cur) phys 1280 then (s, .poll c1 .access)
          else f e phys c1

/-- A reserved field of a record is not zero (R276). -/
def heatReserved (s : State) (rec : Nat) : Bool :=
  heatField s rec 0x06 2 != 0 || heatField s rec 0x2C 20 != 0 || heatField s rec 0xC0 64 != 0

/-- eps is finite and not below zero (R276). -/
def epsOk (eps : Nat) : Bool :=
  match decodeF fp32 eps with
  | .fin neg m _ => !neg || m == 0
  | _ => false

/-- The record can be opened, but for its status and a handle (R278). -/
def heatValid (s : State) (rec : Nat) : Bool :=
  let k := heatField s rec 0x02 1
  let mp := heatField s rec 0x03 1
  let t : VWord := BitVec.ofNat 1024 (heatField s rec 0x40 128)
  decide (1 ≤ k ∧ k ≤ 64 ∧ 1 ≤ mp ∧ mp ≤ k) && epsOk (heatField s rec 0x08 4) && !heatReserved s rec &&
  bCount t == 1 && !bRunner t

/-- The lowest free handle (R278). -/
def freeHandle (s : State) : Option Nat := firstFrom (fun h => !s.heats.any fun e => e.2.handle == h) 1 255

/-- The home step of HFORK that opens a record with a handle; the reserved bytes and bits stay as they are (R7). -/
def openHeat (s : State) (rec va ctx h : Nat) (e : Leaf) (who : Nat) : State :=
  let r : Heat := { handle := h, ctx := ctx, va := va, leaf := e, run := 0, deadline := heatField s rec 0x10 8,
                    lap := (contextOf s ctx).lapId.toNat }
  let s1 := { s with heats := tput s.heats rec r }
  let k := heatField s rec 0x02 1
  let s2 := heatWrite (heatWrite (heatWrite s1 rec who 0x01 1 (heatField s rec 0x01 1 / 4 * 4)) rec who 0x04 2 h) rec who 0x0C 4 0
  let s3 := heatWrite (heatWrite s2 rec who 0x18 16 0) rec who 0x28 4 0
  let s4 := (List.range k).foldl (fun t i => slotWrite (slotWrite t rec who i 0 9 0) rec who i 0xC 3 0) s3
  heatWrite s4 rec who 0x00 1 1

/-- The inline entry of a runner (R278). -/
def runnerBytes (t : VWord) (h : Nat) : VWord :=
  let t1 := setBatonField (setBatonField t 0x0B 1 (bFlags t ||| 2)) 0x53 1 h
  setBatonField (setBatonField (setBatonField (setBatonField t1 0x18 8 0) 0x20 8 0) 0x28 8 0) 0x30 8 0

/-- Runner i of the heat with this handle is pending: it has been neither cancelled nor placed. -/
def runnerPending (s : State) (rec h i : Nat) : Bool := (tfind s.heats rec).any (fun x => x.handle == h) && rstat s rec i == 0

/-- Append the runners from i on while the Starter takes them: the state and the next runner. One that has been cancelled meanwhile is
not appended (R280). -/
def appendRunners (s : State) (q rec h i n : Nat) : State × Nat :=
  match n with
  | 0 => (s, i)
  | n + 1 =>
    if !runnerPending s rec h i then appendRunners s q rec h (i + 1) n
    else
      let t : VWord := BitVec.ofNat 1024 (heatField s rec 0x40 128)
      match programAppend s q (runnerBytes t h) (.runner rec i) with
      | some s1 => appendRunners s1 q rec h (i + 1) n
      | none => (s, i)

/-- The Starter goes on with the appends of an HFORK whose gang has been saved: what is left of it (R365). -/
def serveFork (s : State) (f : Fork) : State × Option Fork :=
  let n := heatField s f.record 0x02 1
  match appendRunners s f.queue f.record f.handle f.next (n - f.next) with
  | (s1, j) => (s1, if j < n then some { f with next := j } else none)

/-- The Starter goes on with every such HFORK. -/
def serveForks (s : State) : State :=
  s.starter.forks.foldl (fun t f =>
    match serveFork t f with
    | (t1, left) => { t1 with starter := { t1.starter with forks := t1.starter.forks ++ left.toList } })
    { s with starter := { s.starter with forks := [] } }

/-- The issuer's own dirty bytes of a line go home, before the hardware stores into it (R364). -/
def flushLine (s : State) (c : Core) (ctx va : Nat) : State × Core :=
  match findWay c ctx va with
  | some key =>
    let l := lineAt c key
    ((List.range 4).foldl (fun t i =>
        if sectorDirty l i = 0#32 then t
        else
          let sec := l.phys + 32 * i
          let t1 := if leafL l.leaf then logSector t ctx (agentCode s.cur) (BitVec.ofNat 64 (sec % 2 ^ 48)) sec (leafD l.leaf) else t
          maskedWrite t1 l.leaf sec (sectorDirty l i) (l.data.extractLsb' (256 * i) 256)) s,
     setLine c key {})
  | none => (s, c)

/-- The queue that held a gang's baton. -/
def queueOfGang (s : State) (g : Gang) : Nat :=
  match batonOf s g.baton with
  | some b => b.queue
  | none => 0

/-- The handle goes into xd; a push for which a full FIFO has no room is due in the tc of the completion, which it holds (R104, R365): the
home step and the appends have been performed. -/
def forkResult (k : CoreKind) (c : Core) (d : Reg) (h : Word) : Core :=
  match writeX k c d h with
  | .ok c1 => c1
  | .error _ => { c with inflight := c.inflight ++ [scalarLanding { reg := d, remaining := 1, value := h }] }

/-- The last part of HFORK: the runners that the queue has no room for yet, then xd (R278, R365). The handle and the next runner
stand in the core's replies. -/
def forkRunners (s : State) (k : CoreKind) (c : Core) (d : Reg) (q rec h i : Nat) : SRes :=
  let n := heatField s rec 0x02 1
  match appendRunners s q rec h i (n - i) with
  | (s1, j) =>
    if j < n then
      (s1, .poll { c with replies := [.ok (BitVec.ofNat 64 h), .ok (BitVec.ofNat 64 j), .ok (BitVec.ofNat 64 rec)] } .fork)
    else (s1, .done (forkResult k { c with replies := [] } d (BitVec.ofNat 64 h)))

/-- HFORK (R278, R363 to R365). -/
def execHfork (d a : Reg) (s : State) : Out :=
  runState s fun k c =>
    interlockS s k c [a] [d] (withXS s k c a fun va c1 =>
      match gangOf s c1 with
      | none => raiseS s .illegal
      | some g =>
        let q := queueOfGang s g
        match c1.replies with
        | .ok h :: .ok i :: .ok rec :: _ => forkRunners s k c1 d q rec.toNat h.toNat i.toNat
        | _ =>
          withHeat s k c1 va true fun e rec c2 =>
            let code := agentCode s.cur
            if g.heat.isSome then raiseS s .heatState va
            else if fenceOpen s code 2 then (s, .poll c2 .fence)
            else
              let arg : Word := BitVec.ofNat 64 (heatField s rec 0x50 8)
              if !aligned arg 8 then raiseS s .align arg
              else withPhys s k c2 { need := .w, kind := .store } arg (trapS s) fun ea pa c3 =>
                if writeBacksOpen s code (fun x => x / 128 == pa / 128) then (s, .poll c3 .fence)
                else if heatField s rec 0x00 1 != 0 then raiseS s .heatState va
                else if !heatValid s rec then raiseS s .illegal
                else
                  match freeHandle s with
                  | none => raiseS s .heatState va
                  | some h =>
                    let s1 := openHeat s rec va.toNat g.ctx h e code
                    match flushLine s1 c3 g.ctx arg.toNat with
                    | (s2, c4) =>
                      forkRunners (homeWrite s2 g.ctx code ea (some arg.toNat) pa (toBytes 8 va.toNat)) k c4 d q rec h 0)

/-- HREWARD (R279, R366). -/
def execHreward (a b : Reg) (s : State) : Out :=
  runState s fun k c =>
    interlockS s k c [a, b] [] (withXS s k c a fun va c1 => withXS s k c1 b fun w c2 =>
      withHeat s k c2 va false fun _ rec c3 =>
        match c3.gang, gangOf s c3 with
        | some serial, some g =>
          let code := agentCode s.cur
          if !isOwnSlot s rec serial g then raiseS s .heatState va
          else if rstat s rec g.runner = 4 then (retireRunner s serial, .poll c3 .retired)
          else if rstat s rec g.runner ≠ 1 then raiseS s .heatState va
          else
            let v := w.toNat % 2 ^ 32
            let s1 := slotWrite s rec code g.runner 0 4 v
            match decodeF fp32 v with
            | .fin _ _ _ =>
              let s2 := slotWrite s1 rec code g.runner 8 1 2
              let s3 := heatWrite s2 rec code 0x20 8 (heatField s2 rec 0x20 8 ||| 2 ^ g.runner)
              (testClose s3 rec code, .done c3)
            | _ => (testClose (slotWrite s1 rec code g.runner 8 1 5) rec code, .done c3)
        | _, _ => raiseS s .heatState va)

/-- HWAIT (R281, R370). -/
def execHwait (d a : Reg) (s : State) : Out :=
  runState s fun k c =>
    interlockS s k c [a] [d] (withXS s k c a fun va c1 =>
      match c1.replies with
      | .ok w :: _ => (s, doneX k c1 d w)
      | _ =>
        withHeat s k c1 va false fun _ rec c2 =>
          match c2.gang, gangOf s c2 with
          | some serial, some g =>
            if isOwnSlot s rec serial g then raiseS s .heatState va
            else
              let st := heatField s rec 0x00 1
              if st = 0 then raiseS s .heatState va
              else if st = 1 then
                ({ s with heatWaiters := s.heatWaiters ++ [({ serial := serial, member := memberNumber g s.cur }, rec)] },
                 .block c2 (.hwait rec))
              else (s, doneX k (genAdvance c2) d (BitVec.ofNat 64 (st + 256 * heatField s rec 0x01 1)))
          | _, _ => raiseS s .illegal)

/-- HCANCEL (R280, R361). -/
def execHcancel (a b : Reg) (s : State) : Out :=
  runState s fun k c =>
    interlockS s k c [a, b] [] (withXS s k c a fun va c1 => withXS s k c1 b fun i c2 =>
      withHeat s k c2 va true fun _ rec c3 =>
        let st := heatField s rec 0x00 1
        if st = 0 then raiseS s .heatState va
        else if heatField s rec 0x02 1 ≤ i.toNat then raiseS s .illegal
        else if st ≠ 1 ∨ 2 ≤ rstat s rec i.toNat then (s, .done c3)
        else (testClose (cancelRunner s rec (agentCode s.cur) i.toNat) rec (agentCode s.cur), .done c3))

/-- HEAT_DEADLINE (R282): at the deadline every unsettled runner is cancelled, the flag is set and the heat closes. -/
def execHeatDeadline (rec : Nat) (s : State) : Out :=
  match tfind s.heats rec with
  | some h =>
    if h.deadline ≠ 0 ∧ h.deadline ≤ h.run then
      let who := agentCode (.starter s.starter.active)
      let s1 := heatWrite s rec who 0x01 1 (heatField s rec 0x01 1 ||| 2)
      let s2 := (List.range (heatField s rec 0x02 1)).foldl (fun t i => cancelRunner t rec who i) s1
      .next (testClose s2 rec who)
    else .next s
  | none => .next s

/-- The heats of a context whose run stops advancing (R282). -/
def heatsOf (s : State) (ctx : Nat) : List Nat := (s.heats.filter fun e => e.2.ctx == ctx).map (·.1)

/-- The home writes a heat's run time into the record: when it stops advancing, and at a seal (R282). -/
def writeRun (s : State) (rec : Nat) : State :=
  match tfind s.heats rec with
  | some h => heatWrite s rec (agentCode (.starter s.starter.active)) 0x18 8 h.run
  | none => s

/-- The context leaves the running set: the run of its heats stops advancing (R282). -/
def leaveRunning (s : State) (ctx : Nat) : State :=
  (heatsOf s ctx).foldl writeRun (setContext s ctx { contextOf s ctx with running := false })

end Sys2Proof.Machine
end

