-- ==== Sys2Proof/Machine/Lease.lean ====
section
/-! DEFINITION. The lease of a quad's matrix block (R160 to R163, R390). -/

namespace Sys2Proof.Machine

/-- The state of a core of a quad becomes l. -/
def setLease (q : Quad) (t : Nat) (l : LeaseState) : Quad := { q with lease := q.lease.setIfInBounds t l }

/-- MREL, and FINISH of a core whose lease state is not none (R160). -/
def releaseLease (q : Quad) (t : Nat) : Quad :=
  match leaseOf q t with
  | .holding => { setLease q t .none with held := false }
  | .waiting => setLease q t .none
  | .none => q

/-- The first waiting core in the order q + 1, q + 2, q + 3, q from the last holder (R160). -/
def nextWaiting (q : Quad) : Option Nat :=
  [q.holder + 1, q.holder + 2, q.holder + 3, q.holder].map (· % 4) |>.find? fun t => leaseOf q t == .waiting

/-- The lease goes to the next waiting core, whose lease_run then applies. -/
def grantLease (s : State) (n : Nat) (q : Quad) : Quad :=
  match nextWaiting q with
  | some t =>
    { setLease q t .holding with holder := t, held := true, run := 0, runLimit := (coreOf s (.tile (quadTile n t))).leaseRun }
  | none => q

/-- LEASE_GRANT (R160). -/
def execLeaseGrant (quad : Nat) (s : State) : Out :=
  let q := quadOf s quad
  if q.held then .next s else .next (setQuad s quad (grantLease s quad q))

/-- The quad and the tile in quad of the core that steps. -/
def ownQuad (s : State) : Nat × Nat :=
  match s.cur with
  | .tile n => (tileQuad n, tileInQuad n)
  | _ => (0, 0)

/-- MLEASE (R160, R390). -/
def execMlease (s : State) : Out :=
  runState s fun _ c =>
    match ownQuad s with
    | (n, t) =>
      let q := quadOf s n
      if leaseOf q t = .holding then (s, .done c) else (setQuad s n (setLease q t .waiting), .poll c .mlease)

/-- MREL (R160, R390). -/
def execMrel (s : State) : Out :=
  runState s fun _ c =>
    match ownQuad s with
    | (n, t) => (setQuad s n (releaseLease (quadOf s n) t), .done c)

end Sys2Proof.Machine
end

