-- ==== Sys2Proof/Machine/Finish.lean ====
section
/-! DEFINITION. BATON, FINISH, the finish of a gang and of a baton, the steps that follow it (R32, R38 to R40, R45, R223, R227,
R230, R270, R326, R338, R339, R358, R359). -/

namespace Sys2Proof.Machine

/-! ### BATON (R338, R339) -/

/-- BATON. -/
def execBaton (a b : Reg) (s : State) : Out :=
  runState s fun k c =>
    interlockS s k c [a, b] [] (withXS s k c a fun va c1 => withXS s k c1 b fun qn c2 =>
      if qn.toNat / 256 ≠ 0 then raiseS s .illegal
      else if !aligned va 128 then raiseS s .align va
      else if fenceOpen s (agentCode s.cur) 2 then (s, .poll c2 .fence)
      else
        let q := qn.toNat
        let r := queueOf s q
        if !r.bound || (ctxOf s c2).any (· != r.ctx) then (count s, .done c2)
        else
          match programAppend s q (indirectEntry va.toNat) .program with
          | some s1 => (setPending s1 q false, .done c2)
          | none => (s, .freeze .starterQueue))

/-! ### Release and the steps behind it (R38, R39) -/

/-- The Starter core that acts. -/
def starterCode (s : State) : Nat := agentCode (.starter s.starter.active)

/-- An access of baton n's gangs that the release waits for is in flight (R38): a write-back wherever its home is, a store, stream
write or atomic to this package, with scope 2 to any. -/
def releaseOpen (s : State) (n : Nat) (b : Baton) : Bool :=
  let scope := bScope b.bytes
  s.net.any fun p => p.rel == some n && (
    (decide (1 ≤ scope) && match p.kind with
      | .writeBack _ _ _ => true
      | k => isWrite k && pkgOf p.addr == s.ownPkg) ||
    (decide (2 ≤ scope) && isWrite p.kind))

/-- A packet of a core in flight is one of baton n from the moment at which the lanes of its gangs are freed. -/
def claimPacket (n : Nat) (codes : List Nat) (p : Packet) : Packet :=
  if p.rel.isNone && codes.contains p.src then { p with rel := some n } else p

/-- What the cores of a baton's gangs have in flight is its release's when their lanes are freed; a failure on its way back as well
(R38, R39). -/
def claimPackets (s : State) (n : Nat) (codes : List Nat) : State :=
  let s1 := { s with net := s.net.map (claimPacket n codes) }
  (s1.net.filter fun p => p.rel == some n && match p.kind with
    | .lost _ _ => true
    | _ => false).foldl loseRelease s1

/-- The queues whose head waits for the counter at a physical address are examined again when the Starter decrements it (R33). -/
def markDep (s : State) (phys : Nat) : State :=
  s.starter.queues.foldl (fun t e =>
    match e.2.current.bind (batonOf s) with
    | some b =>
      match translateFor s b.ctx (bCfg b.bytes) { need := .r, memSide := true } (bDep b.bytes) with
      | .ok (_, p) => if p = phys then markQueue t e.1 else t
      | .error _ => t
    | none => t) s

/-- Step 2: the completion word; its failure (R39). -/
def completionStep (s : State) (b : Baton) : Except Cause State :=
  let va := bCword b.bytes
  if va = 0 then .ok s
  else if va % 8 ≠ 0 then .error .align
  else
    match translateFor s b.ctx (bCfg b.bytes) { need := .w } va with
    | .error c => .error c
    | .ok (e, phys) => .ok (homeWrite s b.ctx (starterCode s) e (some va) phys (toBytes 8 (bCval b.bytes)))

/-- A decrement of the dependency counter at va, performed at its home; whether it came to 0 (R38). -/
def decrement (s : State) (ctx : Nat) (cfg : BitVec 8) (va : Nat) : Except Cause (State × Bool) :=
  if va % 8 ≠ 0 then .error .align
  else
    match translateFor s ctx cfg { need := .rw, memSide := true } va with
    | .error c => .error c
    | .ok (e, phys) =>
      let v := (memRead s phys 8 + (2 ^ 64 - 1)) % 2 ^ 64
      .ok (markDep (homeWrite s ctx (starterCode s) e (some va) phys (toBytes 8 v)) phys, v == 0)

/-- Step 3 for one successor (R38, R39). -/
def successorStep (s : State) (b : Baton) (succ : Nat) : Except Cause State :=
  if succ = 0 then .ok s
  else if succ % 128 ≠ 0 then .error .align
  else
    match translateFor s b.ctx (bCfg b.bytes) { need := .r } succ with
    | .error c => .error c
    | .ok (_, phys) =>
      let dep := memRead s (phys + 0x18) 8
      if dep = 0 then .ok (pushEntry s b.queue succ)
      else
        match decrement s b.ctx (bCfg b.bytes) dep with
        | .error c => .error c
        | .ok (s1, zero) => .ok (if zero then pushEntry s1 b.queue succ else s1)

/-- A step's outcome, or the kind 7 record that names the step and the cause (R39, R230). -/
def orRecord (s : State) (b : Baton) (step : Nat) (r : Except Cause State) : State :=
  match r with
  | .ok s1 => s1
  | .error c => addRecord s b.ctx (mkRecord 7 c.code b.ctx step b.ident 0)

/-- Step 2 with its journal entry (R38, R234). -/
def cwordPart (s : State) (b : Baton) : State :=
  if bCword b.bytes = 0 then s
  else
    let s1 := journal s 7 0 b.queue (bCword b.bytes) (bCval b.bytes)
    orRecord s1 b 2 (completionStep s1 b)

/-- The dependency counter of a successor as it can be read, 0 otherwise. -/
def succDep (s : State) (b : Baton) (succ : Nat) : Nat :=
  match translateFor s b.ctx (bCfg b.bytes) { need := .r } succ with
  | .ok (_, phys) => memRead s (phys + 0x18) 8
  | .error _ => 0

/-- Step 3 for one successor with its journal entry: step is 3 for the first and 4 for the second (R39, R234). -/
def succPart (s : State) (b : Baton) (step succ : Nat) : State :=
  if succ = 0 then s
  else
    let s1 := journal s 8 (if step = 4 then 2 else 0) b.queue (succDep s b succ) succ
    orRecord s1 b step (successorStep s1 b succ)

/-- The steps of a finish wait for room in the push buffer: the step to go on with (R223). -/
def waitSteps (s : State) (n : Nat) (b : Baton) (step : Nat) : State :=
  let s1 := setBaton s n { b with stage := .steps }
  { s1 with starter := { s1.starter with waiting := s1.starter.waiting ++ [(n, step)] } }

/-- The steps of a finish from one on, each completing before the next: 2 the completion word, 3 and 4 the successors, then the
kind 2 record, with which the baton is done. A successor waits while the push buffer is full (R38, R39, R223, R230). -/
def finishFrom (s : State) (n step : Nat) : State :=
  match batonOf s n with
  | none => s
  | some b =>
    let s1 := if step ≤ 2 then cwordPart s b else s
    if step ≤ 3 ∧ bSucc0 b.bytes ≠ 0 ∧ pushFull s1 then waitSteps s1 n b 3
    else
      let s2 := if step ≤ 3 then succPart s1 b 3 (bSucc0 b.bytes) else s1
      if bSucc1 b.bytes ≠ 0 ∧ pushFull s2 then waitSteps s2 n b 4
      else
        let s3 := succPart s2 b 4 (bSucc1 b.bytes)
        dropBaton (addRecord s3 b.ctx (mkRecord 2 0#8 b.ctx 0 b.ident 0)) n

/-- Steps 2 and 3 and the kind 2 record (R38, R39, R230). -/
def finishSteps (s : State) (n : Nat) : State := finishFrom s n 2

/-- The finishes whose steps wait go on, in order, as far as the push buffer has room (R223). -/
def resumeWaiting (s : State) : State :=
  s.starter.waiting.foldl (fun t e => finishFrom t e.1 e.2) { s with starter := { s.starter with waiting := [] } }

/-- The next hurdle of every running gang of a job is sealing (R270). -/
def sealAll (s : State) (ctx : Nat) : State :=
  { s with gangs := s.gangs.map fun e =>
      (e.1, if e.2.ctx == ctx && e.2.state != .finished then { e.2 with sealNext := true } else e.2) }

/-- What follows a release, whose journal entry is done: a sealing baton of a context that runs laps holds its steps and requests a
seal (R234, R270). -/
def afterRelease (s0 : State) (n : Nat) : State :=
  match batonOf s0 n with
  | none => s0
  | some b =>
    let s := markSeq s0 b.relSeq
    let x := contextOf s b.ctx
    if x.laps && bSealing b.bytes then
      let s1 := setBaton s n { b with stage := .held, relSeq := none }
      sealAll (setContext s1 b.ctx { x with sealPending := true, heldSteps := x.heldSteps ++ [n] }) b.ctx
    else finishSteps s n

/-- The dirty sectors of the members of a baton's gangs are sent home (R38 step 1). -/
def releaseWrites (s : State) (n : Nat) (b : Baton) : State :=
  b.members.foldl (fun t code =>
    match writeBackAll (agentOf code) (coreOf t (agentOf code)) with
    | (ps, c) => setCore (sendAll t (ps.map fun p => { p with rel := some n })) (agentOf code) c) s

/-- A failed release is the job's: the steps after it are not performed (R39). -/
def failRelease (s : State) (n : Nat) (b : Baton) : State := lapTrigger (markSeq (dropBaton s n) b.relSeq) b.ctx .remoteLost

/-- Step 1 goes on: it fails, it waits for acknowledgements, or it is complete (R38, R39). -/
def settleRelease (s : State) (n : Nat) : State :=
  match batonOf s n with
  | none => s
  | some b => if b.lost then failRelease s n b else if releaseOpen s n b then s else afterRelease s n

/-- Step 1 of a finish, journalled (R38, R234); with scope 0 the Starter does not wait. -/
def startRelease (s : State) (n : Nat) : State :=
  match batonOf s n with
  | none => s
  | some b =>
    let seq := nextSeq s
    let s1 := journalOpen s 6 0 b.queue b.ident.toNat (bScope b.bytes)
    let b1 := { b with stage := .release, relSeq := seq }
    if bScope b.bytes = 0 then afterRelease (setBaton s1 n b1) n else settleRelease (releaseWrites (setBaton s1 n b1) n b1) n

/-- RELEASE_COMPLETE (R38, R39): every acknowledgement of the release has come, or its failure. Starter firmware goes on by itself
(R327). -/
def execReleaseComplete (n : Nat) (s : State) : Out :=
  match batonOf s n with
  | some b => .next (if b.stage == .release && !b.byFirmware && starterActs s then settleRelease s n else s)
  | none => .next s

/-! ### The finish of a gang (R38, R359) -/

/-- Words in the static and edge FIFOs of a core. -/
def wordsIn (c : Core) : Nat := (c.fifoA.map fun e => e.2.length).sum + (c.fifoB.map fun e => e.2.length).sum

/-- A member at its gang's finish: its switch halts, words and messages are discarded. -/
def closeMember (c : Core) : Core :=
  { dropFifos c with swHalted := true, swWaitH := false, recvq := [] }

/-- A member whose lanes are freed. -/
def freeMember (c : Core) : Core := { c with mode := .off, gang := none }

/-- The gangs of a baton leave their lanes and their save blocks (R38, R243). -/
def freeGangs (s : State) (gs : List (Nat × Gang)) : State :=
  gs.foldl (fun t e =>
    let as := laneAgents e.2.first e.2.lanes
    let t1 := claimPackets (as.foldl (fun u a => setCore u a (freeMember (coreOf u a))) t) e.2.baton (as.map agentCode)
    freeBlock { t1 with gangs := tdel t1.gangs e.1 } e.2.ctx e.2.saveBlock) s

/-- Every instance has been placed and has finished, or none will follow a failed load. -/
def allFinished (b : Baton) : Bool := b.stage == .placed && b.finished == b.placed

/-- The last instance has finished: lanes are freed, then the release begins (R38); a baton with a failed load ends (R227). -/
def endBaton (s : State) (n : Nat) : State :=
  match batonOf s n with
  | none => s
  | some b =>
    if allFinished b then
      let s1 := freeGangs s (batonGangs s n)
      if b.failed then dropBaton s1 n else startRelease s1 n
    else s

/-- The Starter performs a finish: the instance record, the runner's slot, the end of the baton (R38, R230, R282). -/
def performFinish (s : State) (serial disc : Nat) : State :=
  match tfind s.gangs serial with
  | none => s
  | some g =>
    match batonOf s g.baton with
    | none => s
    | some b =>
      let s1 := setBaton s g.baton { b with finished := b.finished + 1 }
      let s2 := journal s1 5 0 b.queue b.ident.toNat g.inst
      let s3 := addRecord s2 b.ctx (mkRecord 1 0#8 b.ctx g.inst b.ident disc)
      endBaton (settleGang s3 serial g (starterCode s) 3) g.baton

/-- The gang that finishes is the last of its baton: every other one has finished, its notice handled or still waiting. -/
def lastNotice (s : State) (g : Gang) (b : Baton) : Bool :=
  let waiting := (s.starter.notices.filter fun n =>
    n.kind == .finish && (tfind s.gangs n.serial).any fun h => h.baton == g.baton).length
  b.stage != .head && b.finished + waiting + 1 == b.placed

/-- The virtual address of a gang record, as the supervisor's pages or those of its context give it (R326). -/
def recordAddress (s : State) (g : Gang) : Nat :=
  match pageOfPhys s supervisorCtx g.saveBlock, pageOfPhys s g.ctx g.saveBlock with
  | some (_, va), _ => va
  | none, some (_, va) => va
  | none, none => 0

/-- The 32 bytes of a finish notice (R326). -/
def finishNotice (s : State) (g : Gang) (b : Baton) (disc : Nat) : BitVec 256 :=
  BitVec.ofNat 256 (recordAddress s g % 2 ^ 64 + (1 + b.queue * 2 ^ 8 + (if lastNotice s g b then 2 ^ 16 else 0) +
    g.inst * 2 ^ 32) * 2 ^ 64 + disc * 2 ^ 128 + b.ident.toNat * 2 ^ 192)

/-- The Starter handles finishes now: it runs, no take-over is in progress, no finish waits for the push buffer, and no program on its
core handles them (R223, R235). -/
def starterReady (s : State) : Bool :=
  starterActs s && s.starter.waiting.isEmpty && !pushFull s && !firmwareRuns s

/-- Every member of a gang has finished. -/
def membersDone (s : State) (g : Gang) : Bool := (laneAgents g.first g.lanes).all fun a => (coreOf s a).mode == .finished

/-- A gang whose members have all finished finishes: switches halt, words are counted and discarded (R38); the Starter performs
the finish, or keeps its notice until it can. With a full notice FIFO the finish waits (R235). -/
def gangFinish (s : State) (serial : Nat) : State :=
  match tfind s.gangs serial with
  | none => s
  | some g =>
    let now := starterReady s && s.starter.notices.isEmpty
    if !now && !noticeRoom s then s
    else
      let as := laneAgents g.first g.lanes
      let disc := (as.map fun a => wordsIn (coreOf s a)).sum
      let s1 := as.foldl (fun t a => setCore t a (closeMember (coreOf t a))) s
      let s2 := setGang s1 serial { g with state := .finished, hostWake := 0#64 }
      if now then performFinish s2 serial disc
      else
        match batonOf s2 g.baton with
        | some b =>
          { s2 with starter := { s2.starter with
              notices := s2.starter.notices ++ [{ serial := serial, bytes := finishNotice s2 g b disc }] } }
        | none => s2

/-- A member has finished; the gang finishes with the last one. -/
def memberFinished (s : State) (serial : Nat) : State :=
  match tfind s.gangs serial with
  | some g => if membersDone s g then gangFinish s serial else s
  | none => s

/-- Finishes that a full notice FIFO has kept out come in. -/
def lateFinishes (s : State) : State :=
  (s.gangs.filter fun e => e.2.state == .running && membersDone s e.2).foldl (fun t e => gangFinish t e.1) s

/-- A notice is handled: a finish is performed, a token goes to its gang, a kick sets its bit (R222, R235). -/
def handleNotice (s : State) (n : Notice) : State :=
  match n.kind with
  | .finish => performFinish s n.serial (bits n.bytes.toNat 128 32)
  | .token slot =>
    match tfind s.gangs n.serial with
    | some g => setGang s n.serial { g with tokens := g.tokens ++ [slot] }
    | none => s
  | .kick q app => setPending s q app

/-- The head notice can be handled: finishes when the Starter handles them, others unless it has stopped or is being taken over. -/
def noticeDue (s : State) (n : Notice) : Bool :=
  if n.kind = .finish then starterReady s else starterActs s

/-- Handle the notices that wait, in arrival order, while the Starter can. -/
def takeNotices (s : State) (fuel : Nat) : State :=
  match fuel, s.starter.notices with
  | fuel + 1, n :: r =>
    if noticeDue s n then takeNotices (handleNotice { s with starter := { s.starter with notices := r } } n) fuel else s
  | _, _ => s

/-! ### FINISH (R358) -/

/-- What FINISH still waits for, or raises; none when it takes effect. A multi-cycle scalar result is outstanding as a vector result
is (R38). -/
def finishCheck (s : State) (k : CoreKind) (c : Core) : Option Res :=
  if c.inHandler then some (raise .illegal)
  else if !c.holdings.isEmpty then some (raise .illegal)
  else if c.sigCtl && c.checker.armed && c.checker.crc != c.checker.expected then some (raise .sigFault (c.pc.setWidth 64))
  else if !c.inflight.isEmpty || !c.scalars.isEmpty then some (.hold .none)
  else
    let busy := match k with
      | .tile =>
        match ownQuad s with
        | (n, t) => decide (0 < queuedOf (quadOf s n) t) || remoteOpen s (agentCode s.cur) ||
            c.score.any fun e => match e.owner with
              | .cursor i => ((c.cursors[i]?).getD {}).left != 0#16
              | .matrix _ => false
      | _ => !streamsDone c
    if busy then some (.poll c (if k == .tile then .finish else .swait))
    else
      match deferredLost c with
      | some t => some (.trap t)
      | none => none

/-- The lease passes as by MREL (R358). -/
def finishLease (s : State) : State :=
  match s.cur with
  | .tile n => setQuad s (tileQuad n) (releaseLease (quadOf s (tileQuad n)) (tileInQuad n))
  | _ => s

/-- FINISH: a posted refusal that has arrived is raised at it. -/
def execFinish (s : State) : Out :=
  let c := coreOf s s.cur
  match finishCheck s (agentKind s.cur) c, c.pend.find? fun t => t.cause == .refused && t.posted with
  | some (.trap t), some p =>
    .next (if t.deferred then takeCause (setCore s s.cur { c with pend := c.pend.erase p }) s.cur p else takeCause s s.cur t)
  | some r, _ => .next (settle s s s.cur r)
  | none, some p => .next (takeCause (setCore s s.cur { c with pend := c.pend.erase p }) s.cur p)
  | none, none =>
    let s1 := setCore (finishLease s) s.cur { clearIssue c with mode := .finished }
    match c.gang with
    | some serial => .next (memberFinished s1 serial)
    | none => .next s1

/-- The Starter's own work goes on: finishes whose steps wait, notices, finishes that found the FIFO full. -/
def goOn (s : State) : State :=
  let s1 := if starterActs s then resumeWaiting s else s
  lateFinishes (takeNotices s1 s1.starter.notices.length)

/-- PUSH_BUFFER_APPEND (R223): the oldest buffered push whose queue has room is appended, unless the Starter has stopped (R236); what
waited goes on. A take-over or firmware away from its pass does not hold it, since an issued successor may wait for the room (R327). -/
def execPushBufferAppend (s : State) : Out :=
  if s.starter.stopped then .next s
  else
    match s.starter.pushBuf.find? fun e => hasRoom (queueOf s e.1) with
    | none => .next s
    | some (q, e) =>
      let s1 := { s with starter := { s.starter with pushBuf := s.starter.pushBuf.erase (q, e) } }
      match appendEntry s1 q e.bytes e.source with
      | some s2 => .next (goOn (journal s2 1 0 q 0 0))
      | none => .next s

end Sys2Proof.Machine
end

