-- ==== Sys2Proof/Machine/Units.lean ====
section
/-! DEFINITION. How the Starter and the hardware units reach memory by virtual addresses, through the pages that the supervisor
gave the context (R39, R206, R211). -/

namespace Sys2Proof.Machine

/-- The parts of n bytes from va that lie in one 4,096-byte piece each: address and length. -/
def pieces (va n fuel : Nat) : List (Nat × Nat) :=
  match fuel with
  | 0 => []
  | fuel + 1 =>
    let m := 4096 - va % 4096
    if n = 0 then [] else if n ≤ m then [(va, n)] else (va, m) :: pieces (va + m) (n - m) fuel

/-- The parts of a range. -/
def piecesOf (va n : Nat) : List (Nat × Nat) := pieces va n (n / 4096 + 2)

/-- Read the bytes of parts. -/
def readPieces (s : State) (ctx : Nat) (cfg : BitVec 8) (ac : AccessClass) (ps : List (Nat × Nat)) :
    Except Cause (List Byte) :=
  match ps with
  | [] => .ok []
  | (va, n) :: r =>
    match translateFor s ctx cfg ac va with
    | .error c => .error c
    | .ok (_, phys) =>
      match readPieces s ctx cfg ac r with
      | .error c => .error c
      | .ok bs => .ok (memBytes s phys n ++ bs)

/-- Read n bytes at a virtual address of a context. -/
def unitRead (s : State) (ctx : Nat) (cfg : BitVec 8) (ac : AccessClass) (va n : Nat) : Except Cause (List Byte) :=
  readPieces s ctx cfg ac (piecesOf va n)

/-- Write bytes to parts. -/
def writePieces (s : State) (ctx who : Nat) (cfg : BitVec 8) (ac : AccessClass) (ps : List (Nat × Nat)) (bs : List Byte) :
    Except Cause State :=
  match ps with
  | [] => .ok s
  | (va, n) :: r =>
    match translateFor s ctx cfg ac va with
    | .error c => .error c
    | .ok (e, phys) => writePieces (homeWrite s ctx who e (some va) phys (bs.take n)) ctx who cfg ac r (bs.drop n)

/-- Write bytes at a virtual address of a context. -/
def unitWrite (s : State) (ctx who : Nat) (cfg : BitVec 8) (ac : AccessClass) (va : Nat) (bs : List Byte) :
    Except Cause State :=
  writePieces s ctx who cfg ac (piecesOf va bs.length) bs

end Sys2Proof.Machine
end

