-- ==== Sys2Proof/Machine/Message.lean ====
section
/-! DEFINITION. Messages and collectives: DSEND, DRECV, DPOLL, XCOLL, XWAIT and the completion of a collective (R145, R212,
R213, R296 to R298, R350 to R354, R431, R432). -/

namespace Sys2Proof.Machine

/-! ### Agent addresses (R350) -/

/-- Class and index of an agent. -/
def agentClass (s : State) (a : Agent) (c : Core) : Nat :=
  match a with
  | .tile _ => memberOf (gangSpan s c).1 a
  | .mem _ => memberOf (gangSpan s c).1 a - 0x800 + 1 * 2 ^ 12
  | .svc t => t + 2 * 2 ^ 12
  | .starter _ => 3 * 2 ^ 12
  | .boot => 3 * 2 ^ 12

/-- The address under which a receiver sees an agent; far says that the receiver is on another package. -/
def senderAddress (s : State) (a : Agent) (c : Core) (far : Bool) : Word :=
  BitVec.ofNat 64 (agentClass s a c + if far then 2 ^ 15 + s.ownPkg * 2 ^ 16 else 0)

/-- The address of a miss message's sender: class 7, index 0. -/
def hardwareAddress : Word := 0x7000#64

/-- Index of an agent address. -/
def addrIndex (x : Word) : Nat := (x.extractLsb' 0 12).toNat
/-- Class of an agent address. -/
def addrClass (x : Word) : Nat := (x.extractLsb' 12 3).toNat
/-- Remote bit of an agent address. -/
def addrRemote (x : Word) : Bool := x.getLsbD 15
/-- Package of an agent address. -/
def addrPkg (x : Word) : Nat := (x.extractLsb' 16 11).toNat

/-- A reserved bit of an agent address is set, or its class is reserved. -/
def addrBad (x : Word) : Bool :=
  x.extractLsb' 27 37 != 0#37 || (!addrRemote x && addrPkg x != 0) || decide (4 ≤ addrClass x)

/-- The agent of this package that an address names. -/
def addrAgent (s : State) (c : Core) (x : Word) : Agent :=
  let f := (gangSpan s c).1
  match addrClass x with
  | 0 => .tile (64 * f + addrIndex x)
  | 1 => .mem (memOfOffset f (addrIndex x))
  | 2 => .svc (addrIndex x)
  | _ => .starter s.starter.active

/-- The index is out of its class's range (R351). -/
def addrBeyond (s : State) (c : Core) (x : Word) : Bool :=
  let w := (gangSpan s c).2
  match addrClass x with
  | 0 => decide (64 * w ≤ addrIndex x)
  | 1 => decide (12 * w ≤ addrIndex x)
  | 2 => decide (8 ≤ addrIndex x)
  | _ => addrIndex x != 0

/-- The first check of an agent address that fails (R351). -/
def agentCheck (s : State) (k : CoreKind) (c : Core) (x : Word) : Option Trap :=
  if addrBad x then some { cause := .illegal }
  else if decide (2 ≤ addrClass x) && k != .supervisor then some { cause := .priv }
  else if decide (addrClass x ≤ 1) && (gangOf s c).isNone then some { cause := .illegal }
  else if addrBeyond s c x then some { cause := .boundary, addr := x }
  else none

/-- The first check of a 32-byte scratch operand of DSEND or DRECV that fails (R351, R352). -/
def scratchCheck (s : State) (a : Agent) (k : CoreKind) (c : Core) (x : Word) : Option Trap :=
  let t := tileAddr x
  if tileOffset t % 32 != 0 then some { cause := .align, addr := zext t }
  else
    match tileDest s a c t with
    | .here o => (localBound s k c o 32).map fun tr => { tr with addr := zext t }
    | _ => some { cause := .boundary, addr := zext t }

/-! ### DSEND, DRECV, DPOLL -/

/-- The destination is on another package. -/
def addrFar (s : State) (x : Word) : Bool := addrRemote x && addrPkg x != s.ownPkg

/-- Send a message to another package: a package that no port leads to is lost; one that is not the job's has no corresponding
instance and refuses (R351). -/
def sendFar (s : State) (c : Core) (x : Word) (payload : BitVec 256) : SRes :=
  let inJob := match ctxOf s c with
    | some n => (contextOf s n).pkgs.contains (addrPkg x)
    | none => false
  if tget s.routes 0#24 (addrPkg x) = 0#24 then raiseS s .remoteLost x
  else if decide (addrClass x ≤ 1) && !inJob then raiseS s .refused x
  else
    askHome s c 0 (.message (farCode (addrPkg x)) { sender := senderAddress s s.cur c true, payload := payload }) .dsend

/-- Read n bytes of scratch for a message, when the scoreboard allows it: an error in them is consumed (R172, R176, R271). -/
def localReadS (s : State) (c : Core) (o n : Nat) (f : List Byte → SRes) : SRes :=
  if scoreConflict c.score (boundRanges c.bufs (fun b => b.vis) o n) [] then (s, .freeze .scoreboard)
  else consumeS (scratchError c (boundOffsets (visible c.bufs) o n)) (f (scratchRead c o n))

/-- A failure of a DSEND names the agent address. -/
def failAt (x : Word) (r : Reply) : Reply :=
  match r with
  | .fail t => .fail { t with addr := x }
  | .ok w => .ok w

/-- DSEND (R351). -/
def execDsend (a b : Reg) (s : State) : Out :=
  runState s fun k c =>
    interlockS s k c [a, b] [] (withXS s k c a fun x c1 => withXS s k c1 b fun y c2 => withAnswer s { c2 with replies := c2.replies.map (failAt x) } (
      match agentCheck s k c2 x with
      | some t => (s, .trap t)
      | none =>
        match scratchCheck s s.cur k c2 y with
        | some t => (s, .trap t)
        | none =>
          let far := addrFar s x
          let dst := agentCode (addrAgent s c2 x)
          if !far && dst == agentCode s.cur && decide (queueRoom k ≤ c2.recvq.length) then raiseS s .deadlock x
          else
            localReadS s c2 (tileOffset (tileAddr y)) 32 fun bs =>
              let m : BitVec 256 := BitVec.ofNat 256 (ofBytes bs)
              if far then sendFar s c2 x m
              else askHome s c2 0 (.message dst { sender := senderAddress s s.cur c2 false, payload := m }) .dsend))

/-- The code of a miss kind (R212). -/
def missCode (k : MissKind) : Nat :=
  match k with
  | .load => 0
  | .store => 1
  | .atomic => 2
  | .streamRead => 3
  | .streamWrite => 4
  | .jtab => 5

/-- The requester as a miss message names it (R212). -/
def missReq (s : State) (code : Nat) : Nat :=
  match agentOf code with
  | .mem k => 0x1000 + k
  | a => gangIndex s a

/-- The 32 bytes of a miss message (R212). -/
def missBytes (s : State) (m : Miss) : BitVec 256 :=
  BitVec.ofNat 256 (m.va % 2 ^ 56 + (m.ctx % 2 ^ 16) * 2 ^ 64 + m.cfg.toNat * 2 ^ 80 + missCode m.kind * 2 ^ 88 +
    missReq s m.req % 2 ^ 16 * 2 ^ 96 + m.tag % 2 ^ 8 * 2 ^ 112)

/-- Sender and payload of an entry of the receive queue. -/
def receivedParts (s : State) (r : Received) : Word × BitVec 256 :=
  match r with
  | .message m => (m.sender, m.payload)
  | .miss m => (hardwareAddress, missBytes s m)

/-- Taking a miss makes it the fill target (R213). -/
def takeTarget (c : Core) (r : Received) : Core :=
  match r with
  | .message _ => c
  | .miss m => { c with fillTarget := some m }

/-- DRECV (R352). -/
def execDrecv (d a : Reg) (s : State) : Out :=
  runState s fun k c =>
    interlockS s k c [a] [d] (withXS s k c a fun x c1 =>
      match scratchCheck s s.cur k c1 x with
      | some t => (s, .trap t)
      | none =>
        match c1.recvq with
        | [] => (s, .poll c1 .drecv)
        | r :: rest =>
          let (from', m) := receivedParts s r
          let o := tileOffset (tileAddr x)
          (s, localWrite s k (takeTarget { c1 with recvq := rest } r) ((List.range 32).map (o + ·)) (toBytes 32 m.toNat)
            fun c2 => doneX k c2 d from'))

/-- DPOLL (R353). -/
def execDpoll (d : Reg) (s : State) : Out :=
  runCore s fun k c => interlock k c [] [d] (doneX k c d (BitVec.ofNat 64 c.recvq.length))

/-! ### Collectives (R296 to R298, R431, R432) -/

/-- n bytes of a descriptor from an offset. -/
def collField (b : BitVec 512) (off n : Nat) : Nat := (b.extractLsb' (8 * off) (8 * n)).toNat

/-- Virtual address of the contribution. -/
def collSrc (b : BitVec 512) : Nat := collField b 0x00 8
/-- Virtual address of the result. -/
def collDst (b : BitVec 512) : Nat := collField b 0x08 8
/-- Elements. -/
def collCount (b : BitVec 512) : Nat := collField b 0x10 4
/-- Operation: 0 SUM, 1 MAX, 2 MIN, 3 BCAST, 4 GATHER. -/
def collOp (b : BitVec 512) : Nat := collField b 0x14 1
/-- Type: 0 FP32, 1 BF16, 2 S32, 3 S64. -/
def collType (b : BitVec 512) : Nat := collField b 0x15 1
/-- Source package of BCAST. -/
def collRoot (b : BitVec 512) : Nat := collField b 0x16 2
/-- Sequence number. -/
def collSeq (b : BitVec 512) : Nat := collField b 0x18 4

/-- Bytes of an element of a type. -/
def collSize (type : Nat) : Nat :=
  match type with
  | 0 => 4
  | 1 => 2
  | 2 => 4
  | _ => 8

/-- A field of a descriptor is reserved and not zero, or has a value that XCOLL refuses (R296, R297). -/
def collBad (b : BitVec 512) : Bool :=
  collField b 0x1C 4 != 0 || collField b 0x28 24 != 0 || decide (5 ≤ collOp b) || decide (4 ≤ collType b) ||
  collCount b == 0 || decide (2 ^ 24 / collSize (collType b) < collCount b)

/-- Bytes of a contribution. -/
def collBytes (b : BitVec 512) : Nat := collCount b * collSize (collType b)

/-- Source and destination overlap and differ; a GATHER's result holds n contributions. -/
def collOverlap (b : BitVec 512) (n : Nat) : Bool :=
  let d := if collOp b = 4 then n * collBytes b else collBytes b
  collSrc b != collDst b && decide (collSrc b < collDst b + d ∧ collDst b < collSrc b + collBytes b)

/-- The status of a collective is written to its descriptor (R296). -/
def collStatus (s : State) (x : Collective) (v : Nat) : State :=
  homeWrite s x.ctx (starterCode s) x.leaf (some (x.va + 0x20)) (x.descAt + 0x20) (toBytes 8 v)

/-- XCOLL past its checks: the fence, the engine's room, the start (R297). -/
def startCollective (s : State) (c : Core) (x : Collective) : SRes :=
  if s.collectives.any fun y => collSeq y.desc == collSeq x.desc then raiseS s .illegal
  else if fenceOpen s (agentCode s.cur) 2 then (s, .poll c .fence)
  else if decide (16 ≤ (s.collectives.filter fun y => y.ctx == x.ctx).length) then (s, .freeze .collectives)
  else (collStatus { s with collectives := s.collectives ++ [x] } x 1, .done c)

/-- Translate a page that XCOLL or XWAIT names: its right, and that it is no H page, but not the M check, which comes later (R211,
R297). XCOLL asks R and W of xa, R of src and W of dst, XWAIT R and W of xa (log 167). -/
def collPage (s : State) (k : CoreKind) (c : Core) (need : Need) (va : Word) (f : Leaf → Nat → Core → SRes) : SRes :=
  withPhys s k c { need := need, kind := .atomic } va (trapS s) fun e phys c1 =>
    if unroutable s phys then raiseS s .remoteLost va else f e phys c1

/-- XCOLL (R297, R431). -/
def execXcoll (a : Reg) (s : State) : Out :=
  runState s fun k c =>
    interlockS s k c [a] [] (withXS s k c a fun va c1 =>
      if !aligned va 64 then raiseS s .align va
      else
        match c1.replies, ctxOf s c1 with
        | .fail t :: _, _ => (s, .trap t)
        | _, none => raiseS s .illegal
        | _, some ctx =>
          collPage s k c1 .rw va fun e phys c2 =>
            if openAt s (agentCode s.cur) phys 64 then (s, .poll c2 .access)
            else
              let b : BitVec 512 := BitVec.ofNat 512 (memRead s phys 64)
              let src : Word := BitVec.ofNat 64 (collSrc b)
              let dst : Word := BitVec.ofNat 64 (collDst b)
              if !aligned src 8 then raiseS s .align src
              else if !aligned dst 8 then raiseS s .align dst
              else collPage s k c2 .r src fun es _ c3 => collPage s k c3 .w dst fun ed _ c4 =>
                if !leafM e then raiseS s .perm va
                else if !leafM es then raiseS s .perm src
                else if !leafM ed then raiseS s .perm dst
                else if collBad b then raiseS s .illegal
                else if collOverlap b (contextOf s ctx).pkgs.length then raiseS s .overlap va
                else startCollective s c4 { ctx := ctx, cfg := cfgOf s c4, desc := b, descAt := phys, va := va.toNat,
                                            leaf := e, lap := (contextOf s ctx).lapId.toNat, gang := c4.gang })

/-- The cause of a code (R237). -/
def causeOf (code : Nat) : Option Cause :=
  [Cause.illegal, .priv, .align, .page, .perm, .cid, .boundary, .lease, .refused, .remoteLost, .ue, .sigFault, .undoFull,
   .undoQuota, .stageQuota, .deadlock, .heatState, .overlap, .loadFail, .jtab, .brk].find? fun c => c.code.toNat == code

/-- The cause that XWAIT raises for a failed collective: a REMOTE_LOST as a deferred one (R298, R432). -/
def collTrap (st : Nat) (va : Word) : Trap :=
  let c := (causeOf (bits st 8 8)).getD .illegal
  { cause := c, addr := va, deferred := c == .remoteLost }

/-- XWAIT (R298, R432): it checks xa as XCOLL does. -/
def execXwait (a : Reg) (s : State) : Out :=
  runState s fun k c =>
    interlockS s k c [a] [] (withXS s k c a fun va c1 =>
      if !aligned va 64 then raiseS s .align va
      else
        match c1.replies with
        | .fail t :: _ => (s, .trap t)
        | _ =>
          collPage s k c1 .rw va fun e phys c2 =>
            if !leafM e then raiseS s .perm va
            else if openAt s (agentCode s.cur) phys 64 then (s, .poll c2 .access)
            else
              let st := memRead s (phys + 0x20) 8
              match st % 4 with
              | 0 => raiseS s .illegal
              | 1 => (s, .poll { c2 with replies := [] } (.xwait va))
              | 2 => (s, .done c2)
              | _ => (s, .trap (collTrap st va)))

/-! ### The engines (R145, R297) -/

/-- An element as it takes part in a combination: a BF16 code as the FP32 code of its value. -/
def collElem (type code : Nat) : Nat := if type = 1 then code * 2 ^ 16 else code

/-- Combine two elements (R297). -/
def collCombine (op type a b : Nat) : Nat :=
  match op, type with
  | 0, 2 => (a + b) % 2 ^ 32
  | 0, 3 => (a + b) % 2 ^ 64
  | 0, _ => addF32 a b
  | o, 2 => if (o == 1) == decide (sgn 32 a < sgn 32 b) then b else a
  | o, 3 => if (o == 1) == decide (sgn 64 a < sgn 64 b) then b else a
  | o, _ => minMaxF fp32 (o == 1) a b

/-- The result element as it is stored: a BF16 sum is rounded once more (R297), and a NaN is the default NaN, that of a single
contribution as well (R132). -/
def collStore (type v : Nat) : Nat :=
  match type with
  | 0 => if decodeF fp32 v = .nan then fp32.nan else v
  | 1 => roundF bf16 .rne false (decodeF fp32 v)
  | _ => v

/-- The elements of a contribution. -/
def collElems (type : Nat) (bs : List Byte) (n : Nat) : List Nat :=
  (List.range n).map fun i => collElem type (ofBytes ((bs.drop (i * collSize type)).take (collSize type)))

/-- Contributions combined in arrival order. -/
def collReduce (op type : Nat) (cs : List (List Nat)) : List Nat :=
  match cs with
  | [] => []
  | c :: r => r.foldl (fun acc x => (acc.zip x).map fun p => collCombine op type p.1 p.2) c

/-- The result bytes of a collective from the contributions by package, in the order of combination (R297). -/
def collResult (b : BitVec 512) (cs : List (Nat × List Byte)) (order : List Nat) : List Byte :=
  match collOp b with
  | 3 => (tfind cs (collRoot b)).getD []
  | 4 => (sortNat (cs.map (·.1))).flatMap fun p => (tfind cs p).getD []
  | op =>
    let n := collCount b
    let t := collType b
    (collReduce op t (order.map fun p => collElems t ((tfind cs p).getD []) n)).flatMap fun v =>
      toBytes (collSize t) (collStore t v)

/-- What the other packages sent is whole: one contribution of the right length for each, and an order of all. -/
def collWhole (b : BitVec 512) (own : Nat) (pkgs : List Nat) (others : List (Nat × List Byte)) (order : List Nat) : Bool :=
  let ps := sortNat (own :: pkgs)
  sortNat (own :: others.map (·.1)) == ps && others.length + 1 == ps.length &&
  (others.all fun o => o.1 != own && o.2.length == collBytes b) && sortNat order == ps && order.length == ps.length &&
  (collOp b != 3 || ps.contains (collRoot b))

/-- The collective is over: the data that came for it ahead of the rest are used up. -/
def dropData (s : State) (x : Collective) : State :=
  let c := contextOf s x.ctx
  setContext s x.ctx { c with received := c.received.filter fun e => e.1 != collSeq x.desc }

/-- The bytes that a package has sent ahead for a collective, in order. -/
def dataOf (s : State) (x : Collective) (pkg : Nat) : List Byte :=
  ((contextOf s x.ctx).received.filter fun e => e.1 == collSeq x.desc && e.2.1 == pkg).flatMap fun e => e.2.2

/-- Every contribution begins with what its package has sent ahead (R249, R250). -/
def dataAgrees (s : State) (x : Collective) (others : List (Nat × List Byte)) : Bool :=
  others.all fun o => (dataOf s x o.1).isPrefixOf o.2

/-- Data of the collective have been captured, or wait behind what was, and have not reached the engines (R250). -/
def dataCaptured (s : State) (x : Collective) : Bool :=
  let mine (f : Flit) : Bool := match f with
    | .data seq _ _ => seq == collSeq x.desc
    | _ => false
  (contextOf s x.ctx).capture.any (fun e => mine e.flit) || s.net.any fun p => match p.kind with
    | .notice g f => mine f && (tfind s.gangs g).any fun h => h.ctx == x.ctx
    | _ => false

/-- A failed collective: status 3 with the cause (R298). -/
def failCollective (s : State) (x : Collective) (c : Cause) : State := collStatus (dropData s x) x (3 + c.code.toNat * 256)

/-- A collective goes on: its context runs, and the gang that started it is not away (R249, R250, R298). -/
def collRuns (s : State) (x : Collective) : Bool :=
  contextRuns s x.ctx && !(x.gang.bind fun g => tfind s.gangs g).any (gangAway s)

/-- What the engines reach of a contribution and of a result: M pages (R297). -/
def engineAccess (need : Need) : AccessClass := { need := need, scalar := false, memSide := true }

/-- COLLECTIVE_COMPLETE (R249, R250, R297): the contributions, which the data that came ahead of them begin, are combined, the result
is written, then the status. The collectives of a suspended context or a saved gang pause. -/
def execCollectiveComplete (idx : Nat) (others : List (Nat × List Byte)) (order : List Nat) (s : State) : Out :=
  match s.collectives[idx]? with
  | some x =>
    if collRuns s x && !dataCaptured s x && dataAgrees s x others &&
        collWhole x.desc s.ownPkg (contextOf s x.ctx).pkgs others order then
      let s1 := { s with collectives := s.collectives.eraseIdx idx }
      match unitRead s x.ctx x.cfg (engineAccess .r) (collSrc x.desc) (collBytes x.desc) with
      | .error c => .next (failCollective s1 x c)
      | .ok bs =>
        match unitWrite s1 x.ctx (starterCode s) x.cfg (engineAccess .w) (collDst x.desc)
            (collResult x.desc ((s.ownPkg, bs) :: others) order) with
        | .error c => .next (failCollective s1 x c)
        | .ok s2 => .next (collStatus (dropData s2 x) x 2)
    else .next s
  | none => .next s

end Sys2Proof.Machine
end

