-- ==== Sys2Proof/Machine/Matrix.lean ====
section
/-! DEFINITION. The matrix block: MMA, MCELL, MZERO, MDRAIN, MWAIT and the begin and completion of their commands (R142, R143,
R146 to R160, R385 to R387, R391 to R396). -/

namespace Sys2Proof.Machine

/-! ### Descriptors (R152, R157, R159) -/

/-- A bit field of a 32-byte descriptor: word, low bit, width. -/
def dField (d : BitVec 256) (word lo n : Nat) : Nat := bits d.toNat (64 * word + lo) n

/-- Rows of an MMA. -/
def mmaM (d : BitVec 256) : Nat := dField d 2 0 8 + 1
/-- Columns of an MMA. -/
def mmaN (d : BitVec 256) : Nat := dField d 2 8 8 + 1
/-- Depth of an MMA. -/
def mmaK (d : BitVec 256) : Nat := dField d 2 16 16
/-- Format code of A. -/
def mmaA (d : BitVec 256) : Nat := dField d 2 32 3
/-- Format code of B. -/
def mmaB (d : BitVec 256) : Nat := dField d 2 35 3
/-- Bank of an MMA. -/
def mmaBank (d : BitVec 256) : Nat := dField d 2 38 1
/-- Start of an MMA: 0 the bank, 1 +0, 2 +∞, 3 −∞. -/
def mmaInit (d : BitVec 256) : Nat := dField d 2 39 2
/-- The MMA runs the cell program. -/
def mmaCell (d : BitVec 256) : Bool := dField d 2 41 1 == 1
/-- The B format is group-scaled. -/
def scaledFmt (b : Nat) : Bool := decide (3 ≤ b ∧ b ≤ 5)

/-- The group size of a pair of formats; none for a pair that is not accepted (R148, R154). -/
def pairGroup (cell : Bool) (a b : Nat) : Option Nat :=
  if cell then (if (a = 0 ∨ a = 3) ∧ (b = 0 ∨ b = 6) then some 1 else none)
  else
    match a with
    | 0 => if b ≤ 5 then some 1 else none
    | 1 | 2 => if b = 1 ∨ b = 2 then some 2 else if scaledFmt b then some 4 else none
    | _ => none

/-- Rows drained. -/
def drM (d : BitVec 256) : Nat := dField d 1 0 8 + 1
/-- Columns drained. -/
def drN (d : BitVec 256) : Nat := dField d 1 8 8 + 1
/-- Bank of a drain. -/
def drBank (d : BitVec 256) : Nat := dField d 1 16 1
/-- Format of a drain: 0 F32, 1 BF16, 2 E4M3, 3 E5M2. -/
def drFmt (d : BitVec 256) : Nat := dField d 1 17 2
/-- Layout of a drain: 0 ROW, 1 COL, 2 BLK16, 3 QSPLIT. -/
def drLayout (d : BitVec 256) : Nat := dField d 1 23 2
/-- Element size of a drain. -/
def drSize (d : BitVec 256) : Nat :=
  match drFmt d with
  | 0 => 4
  | 1 => 2
  | _ => 1

/-! ### Regions -/

/-- A row of a region: tile in quad, offset of its first byte without wrapping, bytes. -/
structure Row where
  tile : Nat
  start : Nat
  len : Nat
  deriving DecidableEq, Repr

/-- count rows of len bytes at a pitch. -/
def rowsOf (tile base stride len count : Nat) : List Row :=
  (List.range count).map fun i => { tile := tile, start := base + i * stride, len := len }

/-- Bytes of an element of A. -/
def sizeA (f : Nat) : Nat :=
  match f with
  | 0 => 2
  | 3 => 4
  | _ => 1

/-- Bytes of an element of B in a format that is not group-scaled. -/
def sizeB (f : Nat) : Nat :=
  match f with
  | 0 => 2
  | 6 => 4
  | _ => 1

/-- Bytes of a group string (R129, R186). -/
def stringBytes (f : Nat) : Nat := if f = 5 then 12 else 16
/-- Bytes of a group's scale. -/
def scaleBytes (f : Nat) : Nat := if f = 3 then 1 else 2

/-- The rows of A. -/
def regionA (d : BitVec 256) : List Row :=
  rowsOf (dField d 0 20 2) (dField d 0 0 20) (dField d 0 32 20) (mmaK d * sizeA (mmaA d)) (mmaM d)

/-- The rows of B: dense, or pairs of a scale row and an element row (R187). -/
def regionB (d : BitVec 256) : List Row :=
  let tile := dField d 1 20 2; let base := dField d 1 0 20; let p := dField d 1 32 20; let f := mmaB d
  if scaledFmt f then
    (List.range (mmaK d / 32)).flatMap fun b =>
      [{ tile := tile, start := base + 2 * b * p, len := mmaN d * scaleBytes f },
       { tile := tile, start := base + (2 * b + 1) * p, len := mmaN d * stringBytes f }]
  else rowsOf tile base p (mmaN d * sizeB f) (mmaK d)

/-- Tile and offset of element (i, j) of a drain (R157). -/
def drAddr (d : BitVec 256) (i j : Nat) : Nat × Nat :=
  let dst := dField d 0 0 20; let stride := dField d 0 32 20; let e := drSize d
  match drLayout d with
  | 0 => (dField d 0 20 2, dst + i * stride + j * e)
  | 1 => (dField d 0 20 2, dst + j * stride + i * e)
  | 2 => (dField d 0 20 2, dst + ((i / 16) * (drN d / 16) + j / 16) * 256 * e + ((i % 16) * 16 + j % 16) * e)
  | _ => (i % 4, dst + (i / 4) * stride + j * e)

/-- The rows that a drain writes. -/
def regionD (d : BitVec 256) : List Row :=
  let dst := dField d 0 0 20; let stride := dField d 0 32 20; let e := drSize d
  match drLayout d with
  | 0 => rowsOf (dField d 0 20 2) dst stride (drN d * e) (drM d)
  | 1 => rowsOf (dField d 0 20 2) dst stride (drM d * e) (drN d)
  | 2 => [{ tile := dField d 0 20 2, start := dst, len := drM d * drN d * e }]
  | _ => (List.range (drM d)).map fun i => { tile := i % 4, start := dst + (i / 4) * stride, len := drN d * e }

/-- The smallest range that holds the rows of a region in a tile: start and length. -/
def spanOf (rows : List Row) (tile : Nat) : Option (Nat × Nat) :=
  (rows.filter fun r => r.tile == tile).foldl (fun acc r =>
    match acc with
    | none => some (r.start, r.len)
    | some (s, n) => some (Nat.min s r.start, Nat.max (s + n) (r.start + r.len) - Nat.min s r.start)) none

/-! ### The lease, the queue and the run rule (R149, R160) -/

/-- What the lease says to a matrix command: none, the LEASE cause, or a freeze. -/
def leaseStep (q : Quad) (t : Nat) (r : SRes) (s : State) : SRes :=
  match leaseOf q t with
  | .none => raiseS s .lease
  | .waiting => (s, .freeze .commandLease)
  | .holding => r

/-- The descriptor operand of a matrix command: ALIGN, BOUNDARY, then its bytes, from the visible half (R154). -/
def withDescriptor (s : State) (k : CoreKind) (c : Core) (x : Word) (n : Nat) (f : Nat → SRes) : SRes :=
  let t := tileAddr x
  if tileOffset t % n != 0 then raiseS s .align (zext t)
  else
    match tileDest s s.cur c t with
    | .here o =>
      match localBound s k c o n with
      | some _ => raiseS s .boundary (zext t)
      | none => consumeS (scratchError c (boundOffsets (visible c.bufs) o n)) (f (ofBytes (scratchRead c o n)))
    | _ => raiseS s .boundary (zext t)

/-- The core of a tile in quad. -/
def quadCore (s : State) (q t : Nat) : Core := coreOf s (.tile (quadTile q t))

/-- Some other core of the quad waits for the lease. -/
def othersWait (q : Quad) (t : Nat) : Bool := (List.range 4).any fun i => i != t && leaseOf q i == .waiting

/-- The entries of a command fit the scoreboards they enter (R175, R176). -/
def admits (s : State) (q : Nat) (es : List (Nat × ScoreEntry)) : Bool :=
  es.all fun e =>
    let sc := (quadCore s q e.1).score
    decide (sc.length < scoreSize) && !scoreConflict sc e.2.reads e.2.write

/-- Enter the entries of a command in the scoreboards of other tiles than the issuer's. -/
def enterOthers (s : State) (q t : Nat) (es : List (Nat × ScoreEntry)) : State :=
  es.foldl (fun u e =>
    if e.1 = t then u
    else
      let c := quadCore u q e.1
      setCore u (.tile (quadTile q e.1)) { c with score := c.score ++ [e.2] }) s

/-- Accept a command, past its checks: the scoreboards, the queue, the run rule, then the queue takes it. -/
def accept (s : State) (c : Core) (kind : CommandKind) (desc : BitVec 256) (es : Nat → List (Nat × ScoreEntry)) : SRes :=
  match ownQuad s with
  | (n, t) =>
    let q := quadOf s n
    if !admits s n (es q.next) then (s, .freeze .scoreboard)
    else if 8 ≤ q.queue.length then (s, .freeze .commandQueue)
    else if q.runLimit ≤ q.run && othersWait q t then
      (setQuad s n { setLease q t .waiting with held := false }, .poll c .commandLease)
    else
      let cmd : Command := { serial := q.next, kind := kind, issuer := t, desc := desc,
                             bound := (List.range 4).map (fun i => (quadCore s n i).bufs),
                             cell := (q.cells[t]?).getD none }
      let run := if q.run < q.runLimit then q.run + 1 else 1
      let q1 := { q with queue := q.queue ++ [cmd], next := q.next + 1, run := run }
      let own := (es q.next).filter (fun e => e.1 == t) |>.map (·.2)
      (setQuad (enterOthers s n t (es q.next)) n q1, .done { c with score := c.score ++ own })

/-- The last offset that an engine command may touch, and one: the end of scratch, or the undo area of a leg with laps. -/
def engineLimit (s : State) (k : CoreKind) (c : Core) : Nat := if undoReserved s k c then undoBase else 2 ^ 20

/-! ### MMA (R152 to R155, R391, R392) -/

/-- A reserved field of an MMA descriptor is not zero. -/
def mmaReserved (d : BitVec 256) : Bool :=
  dField d 0 22 10 != 0 || dField d 0 52 12 != 0 || dField d 1 22 10 != 0 || dField d 1 52 12 != 0 ||
  dField d 2 42 22 != 0 || dField d 3 0 64 != 0

/-- The ILLEGAL rows of R154. -/
def mmaIllegal (d : BitVec 256) (hasCell : Bool) : Bool :=
  mmaReserved d || decide (128 < mmaM d) || decide (128 < mmaN d) || mmaK d == 0 ||
  (mmaCell d && !hasCell) ||
  match pairGroup (mmaCell d) (mmaA d) (mmaB d) with
  | none => true
  | some g => mmaK d % g != 0 || (scaledFmt (mmaB d) && mmaK d % 32 != 0)

/-- The first of the given fields that is no multiple of 16. -/
def firstUnaligned (fs : List Nat) : Option Word := (fs.find? fun f => f % 16 != 0).map (BitVec.ofNat 64)

/-- The checks of an MMA on the fields of its descriptor (R154). -/
def mmaCheck (d : BitVec 256) (hasCell : Bool) : Option Trap :=
  if mmaIllegal d hasCell then some { cause := .illegal }
  else
    (firstUnaligned [dField d 0 0 22, dField d 0 32 20, dField d 1 0 22, dField d 1 32 20]).map fun a => { cause := .align, addr := a }

/-- The first byte of a row at the limit or above. -/
def rowBeyond (limit : Nat) (r : Row) : Option Nat := if r.start + r.len ≤ limit then none else some (Nat.max r.start limit)

/-- The first byte of a row that the binding f of its tile's buffers takes into the scratch undo area (R262; log 33). -/
def rowUndo (s : State) (q : Nat) (f : Vector Buffer 8 → Nat → Nat) (r : Row) : Option Nat :=
  ((List.range r.len).find? fun i => decide (undoBase ≤ f (quadCore s q r.tile).bufs (r.start + i))).map (r.start + ·)

/-- The first byte of a row that an engine command may not touch: beyond the scratch, or in the undo area of a leg with laps, be it
through a buffer (R154, R262). -/
def rowFault (s : State) (k : CoreKind) (c : Core) (q : Nat) (f : Vector Buffer 8 → Nat → Nat) (r : Row) : Option Nat :=
  match rowBeyond (engineLimit s k c) r, (if undoReserved s k c then rowUndo s q f r else none) with
  | some a, some b => some (Nat.min a b)
  | a, b => a.or b

/-- BOUNDARY of a region: the first such byte of its rows, in their order, with its tile (R154, R157). -/
def regionFault (s : State) (k : CoreKind) (c : Core) (q : Nat) (f : Vector Buffer 8 → Nat → Nat) (rows : List Row) : Option Trap :=
  rows.findSome? fun r => (rowFault s k c q f r).map fun o =>
    { cause := .boundary, addr := BitVec.ofNat 64 (o % 2 ^ 32 + r.tile * 2 ^ 32) }

/-- The read ranges of a region in a tile, bound to visible halves (R155, R174). -/
def readRanges (s : State) (q : Nat) (rows : List Row) (tile : Nat) : List Range :=
  match spanOf rows tile with
  | some (o, n) => boundRanges (quadCore s q tile).bufs (fun b => b.vis) o n
  | none => []

/-- The scoreboard entries of an MMA, by tile in quad. -/
def mmaEntries (s : State) (q : Nat) (d : BitVec 256) (serial : Nat) : List (Nat × ScoreEntry) :=
  (List.range 4).filterMap fun i =>
    let as := readRanges s q (regionA d) i; let bs := readRanges s q (regionB d) i
    if (as ++ bs).isEmpty then none else some (i, { owner := .matrix serial, reads := as ++ bs, firstReads := as.length })

/-- MMA. -/
def execMma (a : Reg) (s : State) : Out :=
  runState s fun k c => interlockS s k c [a] [] (withXS s k c a fun x c1 =>
    match ownQuad s with
    | (n, t) =>
      leaseStep (quadOf s n) t (withDescriptor s k c1 x 32 fun v =>
        let d : BitVec 256 := BitVec.ofNat 256 v
        match (mmaCheck d ((((quadOf s n).cells[t]?).getD none).isSome)).or
            (regionFault s k c1 n visible (regionA d ++ regionB d)) with
        | some tr => (s, .trap tr)
        | none => accept s c1 .mma d (mmaEntries s n d)) s)

/-! ### MCELL, MZERO, MWAIT (R156, R159, R385, R395, R396) -/

/-- Operation entry i of a cell program. -/
def cellOp (d : BitVec 128) (i : Nat) : Nat := bits d.toNat (64 + 16 * i) 16
/-- Operations of a cell program. -/
def cellCount (d : BitVec 128) : Nat := bits d.toNat 0 3

/-- A cell descriptor that MCELL accepts (R159). -/
def cellOk (d : BitVec 128) : Bool :=
  let c := cellCount d
  decide (1 ≤ c ∧ c ≤ 4) && bits d.toNat 3 61 == 0 &&
  (List.range 4).all fun i =>
    let e := cellOp d i
    if c ≤ i then e == 0
    else decide (bits e 0 4 ≤ 4 ∧ bits e 4 3 ≤ 6 ∧ bits e 7 3 ≤ 6) && bits e 11 5 == 0 && (i + 1 != c || bits e 10 1 == 0)

/-- The issuer's cell program changes. -/
def loadCell (s : State) (d : BitVec 128) (r : SRes) : SRes :=
  match r with
  | (s1, .done c) =>
    match ownQuad s with
    | (n, t) =>
      let q := quadOf s1 n
      (setQuad s1 n { q with cells := q.cells.setIfInBounds t (some d) }, .done c)
  | r => r

/-- MCELL: a command accepted later finds the new program. -/
def execMcell (a : Reg) (s : State) : Out :=
  runState s fun k c => interlockS s k c [a] [] (withXS s k c a fun x c1 =>
    match ownQuad s with
    | (n, t) =>
      leaseStep (quadOf s n) t (withDescriptor s k c1 x 16 fun v =>
        let d : BitVec 128 := BitVec.ofNat 128 v
        if cellOk d then loadCell s d (accept s c1 .mcell (BitVec.ofNat 256 v) fun _ => []) else raiseS s .illegal) s)

/-- MZERO. -/
def execMzero (b : BitVec 1) (s : State) : Out :=
  runState s fun _ c =>
    match ownQuad s with
    | (n, t) => leaseStep (quadOf s n) t (accept s c .mzero (b.setWidth 256) fun _ => []) s

/-- MWAIT. -/
def execMwait (s : State) : Out :=
  runState s fun _ c =>
    match ownQuad s with
    | (n, t) => if queuedOf (quadOf s n) t = 0 then (s, .done c) else (s, .poll c .mwait)

/-! ### MDRAIN (R157, R158, R386, R387) -/

/-- The ILLEGAL cases of a drain. -/
def drIllegal (d : BitVec 256) : Bool :=
  dField d 0 22 10 != 0 || dField d 0 52 12 != 0 || dField d 1 26 6 != 0 || dField d 2 0 64 != 0 || dField d 3 0 64 != 0 ||
  decide (128 < drM d) || decide (128 < drN d) ||
  (drLayout d == 2 && (drM d % 16 != 0 || drN d % 16 != 0)) || (drLayout d == 3 && dField d 0 20 2 != 0)

/-- The checks of a drain after its descriptor is read. -/
def drCheck (d : BitVec 256) : Option Trap :=
  if drIllegal d then some { cause := .illegal }
  else (firstUnaligned [dField d 0 0 22, dField d 0 32 20]).map fun a => { cause := .align, addr := a }

/-- The scoreboard entries of a drain: one for each target, bound to shadow halves (R174, R175). -/
def drEntries (s : State) (q : Nat) (d : BitVec 256) (serial : Nat) : List (Nat × ScoreEntry) :=
  (List.range 4).filterMap fun i =>
    (spanOf (regionD d) i).map fun e =>
      (i, { owner := .matrix serial, reads := [], write := boundRanges (quadCore s q i).bufs (fun b => !b.vis) e.1 e.2 })

/-- MDRAIN. -/
def execMdrain (a : Reg) (s : State) : Out :=
  runState s fun k c => interlockS s k c [a] [] (withXS s k c a fun x c1 =>
    match ownQuad s with
    | (n, t) =>
      leaseStep (quadOf s n) t (withDescriptor s k c1 x 32 fun v =>
        let d : BitVec 256 := BitVec.ofNat 256 v
        match (drCheck d).or (regionFault s k c1 n shadow (regionD d)) with
        | some tr => (s, .trap tr)
        | none => accept s c1 .mdrain d (drEntries s n d)) s)

/-! ### The values of an MMA (R142, R153, R159) -/

/-- n bytes of a tile of the quad as a command reads them, in the halves bound at its acceptance. -/
def boundRead (s : State) (q : Nat) (cmd : Command) (tile o n : Nat) : Nat :=
  let bs := (cmd.bound[tile]?).getD (Vector.replicate 8 {})
  let c := quadCore s q tile
  ofBytes ((boundOffsets (visible bs) o n).map fun p => tget c.scratch 0#8 p)

/-- The value of a code of A. -/
def valueA (f code : Nat) : FVal :=
  match f with
  | 0 => decodeF bf16 code
  | 1 => decodeF e4m3 code
  | 2 => decodeF e5m2 code
  | _ => decodeF fp32 code

/-- The value of a code of B, before its scale. -/
def valueB (f code : Nat) : FVal :=
  match f with
  | 0 => decodeF bf16 code
  | 1 => decodeF e4m3 code
  | 2 => decodeF e5m2 code
  | 3 => decodeF e2m1 code
  | 4 => intVal (sgn 4 code)
  | 5 => intVal (sgn 3 code)
  | _ => decodeF fp32 code

/-- The value of a scale. -/
def valueScale (f code : Nat) : FVal := if f = 3 then decodeE8M0 code else decodeF bf16 code

/-- The codes of row i of A. -/
def codesA (s : State) (q : Nat) (cmd : Command) (i : Nat) : List Nat :=
  let d := cmd.desc; let e := sizeA (mmaA d)
  (List.range (mmaK d)).map fun k =>
    boundRead s q cmd (dField d 0 20 2) (dField d 0 0 20 + i * dField d 0 32 20 + k * e) e

/-- The codes of column j of B. -/
def codesB (s : State) (q : Nat) (cmd : Command) (j : Nat) : List Nat :=
  let d := cmd.desc; let f := mmaB d; let tile := dField d 1 20 2; let base := dField d 1 0 20; let p := dField d 1 32 20
  if scaledFmt f then
    let w := if f = 5 then 3 else 4
    (List.range (mmaK d / 32)).flatMap fun b =>
      let str := boundRead s q cmd tile (base + (2 * b + 1) * p + j * stringBytes f) (stringBytes f)
      (List.range 32).map fun i => bits str (w * i) w
  else (List.range (mmaK d)).map fun k => boundRead s q cmd tile (base + k * p + j * sizeB f) (sizeB f)

/-- The scales of column j of B, one for each group of 32; 1 for a format without scales. -/
def scalesB (s : State) (q : Nat) (cmd : Command) (j : Nat) : List FVal :=
  let d := cmd.desc; let f := mmaB d
  if scaledFmt f then
    (List.range (mmaK d / 32)).map fun b =>
      valueScale f (boundRead s q cmd (dField d 1 20 2) (dField d 1 0 20 + 2 * b * dField d 1 32 20 + j * scaleBytes f)
        (scaleBytes f))
  else []

/-- The group steps of one element (R142): n steps of g products, from step i. -/
def groupSteps (g : Nat) (scales : List FVal) (as bs : List FVal) (i n acc : Nat) : Nat :=
  match n with
  | 0 => acc
  | n + 1 =>
    let sum := FVal.sum (((as.take g).zip (bs.take g)).map fun e => e.1.mul e.2)
    let sc := scales.getD (i * g / 32) (.fin false 1 0)
    groupSteps g scales (as.drop g) (bs.drop g) (i + 1) n (f32 ((decodeF fp32 acc).add (sc.mul sum)))

/-- An operand of a cell operation. -/
def cellSource (a b s t0 t1 code : Nat) : Nat :=
  match code with
  | 0 => a
  | 1 => b
  | 2 => s
  | 3 => t0
  | 4 => t1
  | 5 => 0
  | _ => 0x3F800000

/-- A cell operation on FP32 codes. -/
def cellCompute (op x y : Nat) : Nat :=
  match op with
  | 0 => addF32 x y
  | 1 => subF32 x y
  | 2 => mulF32 x y
  | 3 => minMaxF fp32 false x y
  | _ => minMaxF fp32 true x y

/-- Operations i .. i + n − 1 of a cell program; the result of the last one is the new state. -/
def cellOps (d : BitVec 128) (a b s t0 t1 i n : Nat) : Nat :=
  match n with
  | 0 => s
  | n + 1 =>
    let e := cellOp d i
    let v := cellCompute (bits e 0 4) (cellSource a b s t0 t1 (bits e 4 3)) (cellSource a b s t0 t1 (bits e 7 3))
    if n = 0 then v
    else if bits e 10 1 = 1 then cellOps d a b s t0 v (i + 1) n
    else cellOps d a b s v t1 (i + 1) n

/-- One step of a cell program. -/
def cellStep (d : BitVec 128) (a b s : Nat) : Nat := cellOps d a b s 0 0 0 (cellCount d)

/-- A code of BF16 or FP32 widened to FP32. -/
def widenCode (bf : Bool) (code : Nat) : Nat := if bf then code * 2 ^ 16 else code

/-- The value that an element starts from. -/
def initValue (init acc : Nat) : Nat :=
  match init with
  | 0 => acc
  | 1 => 0
  | 2 => 0x7F800000
  | _ => 0xFF800000

/-- k consumed by a step of an MMA (R148). -/
def mmaGroup (d : BitVec 256) : Nat := if mmaCell d then 1 else (pairGroup false (mmaA d) (mmaB d)).getD 1

/-- Steps of an MMA (R149). -/
def mmaSteps (d : BitVec 256) : Nat := mmaK d / mmaGroup d

/-- An element of an MMA after n further steps, from the command's next unfed step on: its start is taken at step 0 (R153). -/
def mmaElement (cmd : Command) (as bs : List Nat) (scales : List FVal) (n acc : Nat) : Nat :=
  let d := cmd.desc
  let g := mmaGroup d
  let start := if cmd.step = 0 then initValue (mmaInit d) acc else acc
  let as1 := as.drop (g * cmd.step); let bs1 := bs.drop (g * cmd.step)
  if mmaCell d then
    ((as1.zip bs1).take n).foldl
      (fun s e => cellStep (cmd.cell.getD 0#128) (widenCode (mmaA d == 0) e.1) (widenCode (mmaB d == 0) e.2) s) start
  else groupSteps g scales (as1.map (valueA (mmaA d))) (bs1.map (valueB (mmaB d))) cmd.step n start

/-- Key of an accumulator element. -/
def accKey (bank i j : Nat) : Nat := bank * 16384 + i * 128 + j

/-- The accumulators after n further steps of an MMA (R153). -/
def mmaResult (s : State) (q : Nat) (cmd : Command) (n : Nat) : Tbl (BitVec 32) :=
  let d := cmd.desc
  let cols := (List.range (mmaN d)).map fun j => (codesB s q cmd j, scalesB s q cmd j)
  (List.range (mmaM d)).foldl (fun acc i =>
    let as := codesA s q cmd i
    tsetList acc 0#32 (accKey (mmaBank d) i 0) ((List.range (mmaN d)).map fun j =>
      let col := cols.getD j ([], [])
      BitVec.ofNat 32 (mmaElement cmd as col.1 col.2 n (tget acc 0#32 (accKey (mmaBank d) i j)).toNat)))
    (quadOf s q).acc

/-! ### The values of a drain (R143, R157) -/

/-- The format of a drain. -/
def drFormat (d : BitVec 256) : Fmt :=
  match drFmt d with
  | 0 => fp32
  | 1 => bf16
  | 2 => e4m3
  | _ => e5m2

/-- A rounding code (R86). -/
def rndCode (n : Nat) : Rnd :=
  match n with
  | 0 => .rne
  | 1 => .rtz
  | 2 => .rdn
  | _ => .rup

/-- The code that a drain writes for an accumulator element. -/
def drValue (d : BitVec 256) (a : Nat) : Nat :=
  let scaled := dField d 1 22 1 == 1
  if drFmt d = 0 && !scaled then a
  else
    let sc := if scaled then decodeF fp32 (dField d 1 32 32) else .fin false 1 0
    roundF (drFormat d) (rndCode (dField d 1 19 2)) (dField d 1 21 1 == 1) ((decodeF fp32 a).mul sc)

/-- The bytes of row i of a drain: physical offsets in its tile, bound to shadow halves, and values. -/
def drRow (s : State) (q : Nat) (cmd : Command) (i : Nat) : Nat × List Nat × List Byte :=
  let d := cmd.desc
  let tile := (drAddr d i 0).1
  let bs := (cmd.bound[tile]?).getD (Vector.replicate 8 {})
  let acc := (quadOf s q).acc
  (tile,
   (List.range (drN d)).flatMap (fun j => boundOffsets (shadow bs) (drAddr d i j).2 (drSize d)),
   (List.range (drN d)).flatMap fun j =>
     toBytes (drSize d) (drValue d (tget acc 0#32 (accKey (drBank d) i j)).toNat))

/-- Replace the command of a serial in a quad. -/
def updCommand (q : Quad) (serial : Nat) (f : Command → Command) : Quad :=
  { q with queue := q.queue.map fun c => if c.serial = serial then f c else c }

/-- Write rows of a drain from its next one on: all of them, or up to one that an undo area has no room for (R263). -/
def drainRows (s : State) (q : Nat) (cmd : Command) (i n : Nat) : State × Bool :=
  match n with
  | 0 => (s, true)
  | n + 1 =>
    match drRow s q cmd i with
    | (tile, ps, bs) =>
      match engineScratchWrite s .tile (quadCore s q tile) ps bs with
      | none => (s, false)
      | some c =>
        let s1 := setCore s (.tile (quadTile q tile)) c
        let r := quadOf s1 q
        let r1 := if dField cmd.desc 1 25 1 = 1 then
            { r with acc := tsetList r.acc 0#32 (accKey (drBank cmd.desc) i 0) (List.replicate (drN cmd.desc) 0#32) }
          else r
        drainRows (setQuad s1 q (updCommand r1 cmd.serial fun c => { c with step := i + 1 })) q cmd (i + 1) n

/-! ### Begin and completion (R149, R150) -/

/-- The bank that a command names; none for MCELL. -/
def bankOf (c : Command) : Option Nat :=
  match c.kind with
  | .mma => some (mmaBank c.desc)
  | .mzero => some (c.desc.toNat % 2)
  | .mdrain => some (drBank c.desc)
  | .mcell => none

/-- An earlier command p keeps c from beginning: a drain or clear of its bank that is incomplete, or, for a drain or clear, any
incomplete command of its bank; a preceding MMA that has not begun its feed. -/
def holdsBack (p c : Command) : Bool :=
  let same := (bankOf c).isSome && bankOf p == bankOf c
  match c.kind, p.kind with
  | .mcell, _ => false
  | .mma, .mma => !p.begun
  | .mma, _ => same
  | _, _ => same

/-- Steps of an MMA, or rows of a drain: what the block feeds one by one; none for a command of a single effect. -/
def stepsOf (c : Command) : Nat :=
  match c.kind with
  | .mma => mmaSteps c.desc
  | .mdrain => drM c.desc
  | _ => 0

/-- The gang of a command's issuer is stopped by a pre-emption: the block begins and feeds nothing (R164, R242). -/
def blockStopped (s : State) (quad : Nat) (c : Command) : Bool :=
  (gangOf s (quadCore s quad c.issuer)).any fun g => g.stopping

/-- Offsets of the bytes that a command reads in each tile, in the halves bound at its acceptance. -/
def commandReads (cmd : Command) : List (Nat × List Nat) :=
  if cmd.kind = .mma then
    (regionA cmd.desc ++ regionB cmd.desc).map fun r =>
      (r.tile, boundOffsets (visible ((cmd.bound[r.tile]?).getD (Vector.replicate 8 {}))) r.start r.len)
  else []

/-- Keys of the accumulator elements of a command's region. -/
def commandElements (cmd : Command) : List Nat :=
  let region (bank m n : Nat) : List Nat := (List.range m).flatMap fun i => (List.range n).map fun j => accKey bank i j
  match cmd.kind with
  | .mma => region (mmaBank cmd.desc) (mmaM cmd.desc) (mmaN cmd.desc)
  | .mdrain => region (drBank cmd.desc) (drM cmd.desc) (drN cmd.desc)
  | _ => []

/-- A command reads the elements of its region: an MMA that starts from the bank, or goes on, and a drain. -/
def readsBank (cmd : Command) : Bool := cmd.kind != .mma || mmaInit cmd.desc == 0 || cmd.step != 0

/-- The marks of a quad once a command has written every element of its region. -/
def marksAfter (q : Quad) (cmd : Command) : List Nat :=
  if q.marks = [] then [] else q.marks.filter fun x => !(commandElements cmd).contains x

/-- The uncorrectable errors in a command's operands (R271): in scratch with their offset; in an accumulator element, for which the
spec gives no trap address, with a free value. -/
def operandErrors (s : State) (quad : Nat) (cmd : Command) : List Trap :=
  ((commandReads cmd).filterMap fun e => scratchError (quadCore s quad e.1) e.2) ++
  (if (quadOf s quad).marks = [] then []
   else if readsBank cmd && (commandElements cmd).any fun x => (quadOf s quad).marks.contains x then
     [{ cause := .ue, addr := Config.freeValue s.fresh }] else [])

/-- The issuer of a command consumes the errors in its operands. -/
def consumeOperands (s : State) (quad : Nat) (cmd : Command) : State :=
  let ts := operandErrors s quad cmd
  let a := Agent.tile (quadTile quad cmd.issuer)
  if ts = [] then s
  else { setCore s a (ts.foldl addPend (coreOf s a)) with fresh := s.fresh + 1 }

/-- The block feeds n further steps of an MMA, or writes n further rows of a drain; false where an undo area has no room for a
row (R149, R153, R158, R263). -/
def feedCommand (s : State) (quad : Nat) (c : Command) (n : Nat) : State × Bool :=
  let n := Nat.min n (stepsOf c - c.step)
  let s := consumeOperands s quad c
  match c.kind with
  | .mma =>
    let q := quadOf s quad
    (setQuad s quad (updCommand { q with acc := mmaResult s quad c n, marks := marksAfter q c } c.serial fun d => { d with step := c.step + n }), true)
  | .mdrain => drainRows s quad c c.step n
  | _ => (s, true)

/-- MATRIX_CMD_BEGIN. -/
def execMatrixCmdBegin (quad idx : Nat) (s : State) : Out :=
  let q := quadOf s quad
  match q.queue[idx]? with
  | some c =>
    if c.begun || blockStopped s quad c || (q.queue.take idx).any fun p => holdsBack p c then .next s
    else .next (setQuad s quad (updCommand q c.serial fun d => { d with begun := true }))
  | none => .next s

/-- An MMA's feed waits for that of every MMA ahead of it (R149); MMAs and drains of one bank follow one another. -/
def feedWaits (p c : Command) : Bool :=
  (c.kind == .mma && p.kind == .mma && decide (p.step < stepsOf p)) || ((bankOf c).isSome && bankOf p == bankOf c)

/-- The turn of a block that feeds n steps of a begun command, or writes n rows of it: how many lie between two steps of other
agents is a matter of timing. -/
def feedTurn (s : State) (quad idx n : Nat) : State :=
  let q := quadOf s quad
  match q.queue[idx]? with
  | some c =>
    if !c.begun || blockStopped s quad c || (q.queue.take idx).any fun p => feedWaits p c then s else (feedCommand s quad c n).1
  | none => s

/-- A command leaves the queue and its entries the scoreboards (R149, R175). -/
def retireCommand (s : State) (quad : Nat) (c : Command) : State :=
  let q := quadOf s quad
  let s1 := setQuad s quad { q with queue := q.queue.filter fun d => d.serial != c.serial }
  (List.range 4).foldl (fun t i =>
    let u := quadCore t quad i
    setCore t (.tile (quadTile quad i)) { u with score := u.score.filter fun e => e.owner != .matrix c.serial }) s1

/-- Every element of a bank becomes +0. -/
def clearBank (q : Quad) (bank : Nat) : Quad :=
  { q with acc := q.acc.filter fun e => e.1 / 16384 != bank, marks := q.marks.filter fun e => e / 16384 != bank }

/-- MATRIX_CMD_COMPLETE: the rest of a begun command's effect; MMAs of one bank complete in order. A block that a pre-emption has
stopped finishes only what it has fed whole (R164). -/
def execMatrixCmdComplete (quad idx : Nat) (s : State) : Out :=
  let q := quadOf s quad
  match q.queue[idx]? with
  | some c =>
    if !c.begun || (q.queue.take idx).any (fun p => feedWaits p c) then .next s
    else if blockStopped s quad c && (stepsOf c == 0 || decide (c.step < stepsOf c)) then .next s
    else
      match c.kind with
      | .mzero => .next (retireCommand (setQuad s quad (clearBank q (c.desc.toNat % 2))) quad c)
      | .mcell => .next (retireCommand s quad c)
      | _ =>
        match feedCommand s quad c (stepsOf c - c.step) with
        | (s1, true) => .next (retireCommand s1 quad c)
        | (s1, false) => .next s1
  | none => .next s

/-- The block of a stopped gang has finished every command that it had fed whole (R164). -/
def blockQuiet (s : State) (quad : Nat) : Bool :=
  (quadOf s quad).queue.all fun c => !c.begun || stepsOf c == 0 || decide (c.step < stepsOf c)

end Sys2Proof.Machine
end

