-- ==== Sys2Proof/Machine/Buffers.lean ====
section
/-! DEFINITION. Buffers, waits on the scoreboard and cursors as a core issues them: BUFDEF, PUBLISH, EWAIT, SCUR, and the
retirement of a cursor's entry (R57, R116, R172 to R177, R342, R355, R398, R403). -/

namespace Sys2Proof.Machine

/-! ### BUFDEF, PUBLISH, EWAIT -/

/-- The buffer that a descriptor defines (R172). -/
def bufferOf (d : Nat) : Buffer :=
  { half0 := BitVec.ofNat 20 (bits d 0 20), half1 := BitVec.ofNat 20 (bits d 20 20), len := BitVec.ofNat 20 (bits d 40 20),
    vis := bitAt d 60 }

/-- The halves of a buffer as physical ranges; none for one that is not defined. -/
def halvesOf (b : Buffer) : List Range :=
  if b.len = 0#20 then []
  else [{ start := b.half0.toNat, len := b.len.toNat }, { start := b.half1.toNat, len := b.len.toNat }]

/-- The ILLEGAL row of R172, for buffer k. -/
def bufIllegal (c : Core) (k : Nat) (d : Nat) : Bool :=
  let b := bufferOf d
  let others := (List.range 8).flatMap fun j => if j = k then [] else halvesOf ((c.bufs[j]?).getD {})
  d / 2 ^ 61 != 0 ||
  (b.len != 0#20 &&
    (b.half0.toNat % 128 != 0 || b.half1.toNat % 128 != 0 || b.len.toNat % 128 != 0 ||
     overlap { start := b.half0.toNat, len := b.len.toNat } { start := b.half1.toNat, len := b.len.toNat } ||
     (halvesOf b).any fun h => others.any (overlap h)))

/-- The first half that ends above the scratch. -/
def bufBeyond (d : Nat) : Option Nat := ((halvesOf (bufferOf d)).find? fun h => decide (2 ^ 20 < h.start + h.len)).map (·.start)

/-- An outstanding entry touches a range. -/
def touches (sc : List ScoreEntry) (r : Range) : Bool := sc.any fun e => (e.reads ++ e.write).any (overlap r)

/-- BUFDEF (R172, R342). -/
def execBufdef (i : BitVec 3) (a : Reg) (s : State) : Out :=
  runState s fun k c => interlockS s k c [a] [] (withXS s k c a fun x c1 => withDescriptor s k c1 x 16 fun d =>
    if bufIllegal c1 i.toNat d then raiseS s .illegal
    else
      match bufBeyond d with
      | some o => raiseS s .boundary (BitVec.ofNat 64 o)
      | none =>
        if (halvesOf ((c1.bufs[i.toNat]?).getD {}) ++ halvesOf (bufferOf d)).any (touches c1.score) then
          (s, .freeze .scoreboard)
        else (s, .done { c1 with bufs := c1.bufs.setIfInBounds i.toNat (bufferOf d) }))

/-- The shadow half of a buffer. -/
def shadowHalf (b : Buffer) : Range := { start := if b.vis then b.half0.toNat else b.half1.toNat, len := b.len.toNat }

/-- PUBLISH (R173, R398). -/
def execPublish (i : BitVec 3) (s : State) : Out :=
  runCore s fun _ c =>
    let b := (c.bufs[i.toNat]?).getD {}
    if b.len = 0#20 then raise .illegal
    else if c.score.any fun e => e.write.any (overlap (shadowHalf b)) then .freeze .scoreboard
    else .done { c with bufs := c.bufs.setIfInBounds i.toNat { b with vis := !b.vis } }

/-- The physical ranges that EWAIT waits for: the range itself outside views, and both halves of every buffer whose view it
touches (R177). -/
def waitRanges (c : Core) (o n : Nat) : List Range :=
  boundRanges c.bufs (fun b => b.vis) o n ++
  (c.bufs.toList.filter fun b => overlap { start := o, len := n } { start := b.half0.toNat, len := b.len.toNat }).flatMap halvesOf

/-- EWAIT (R177, R355): a length of 0 waits for every entry. -/
def execEwait (a b : Reg) (s : State) : Out :=
  runCore s fun k c => interlock k c [a, b] [] (withX k c a fun x c1 => withX k c1 b fun y c2 =>
    let o := tileOffset (tileAddr x)
    if y = 0#64 then (if c2.score.isEmpty then .done c2 else .poll c2 .ewait)
    else if 2 ^ 20 < o + y.toNat then raise .boundary (BitVec.ofNat 64 o)
    else if (waitRanges c2 o y.toNat).any (touches c2.score) then .poll c2 .ewait
    else .done c2)

/-! ### Cursors (R57, R116, R403) -/

/-- The cursor that 8 bytes describe. -/
def cursorOf (d : Nat) (bs : Vector Buffer 8) : Cursor :=
  { addr := BitVec.ofNat 20 (bits d 0 20), step := BitVec.ofNat 20 (bits d 20 20), left := BitVec.ofNat 16 (bits d 40 16),
    dir := bitAt d 56, plane := bitAt d 57, bound := bs }

/-- Bytes of an access through a cursor. -/
def cursorSize (u : Cursor) : Nat := if u.plane then 128 else 8

/-- The range that the accesses left will touch: the whole scratch where they wrap (R116). -/
def cursorSpan (u : Cursor) : Nat × Nat :=
  let w := cursorSize u
  let first : Int := u.addr.toNat
  let last : Int := first + ((u.left.toNat : Int) - 1) * u.step.toInt
  if last < 0 ∨ 2 ^ 20 ≤ last then (0, 2 ^ 20)
  else
    let lo := Nat.min u.addr.toNat last.toNat / w * w
    let hi := Nat.max u.addr.toNat last.toNat / w * w + w
    (lo, hi - lo)

/-- The scoreboard entry of a cursor, bound to the halves of its buffers; none for a cursor with no access left (R116, R174, R175). -/
def cursorEntries (i : Nat) (u : Cursor) (sw : Bool) : List ScoreEntry :=
  if u.left = 0#16 then []
  else
    match cursorSpan u with
    | (o, n) =>
      if u.dir then [{ owner := .cursor i, reads := [], write := boundRanges u.bound (fun b => !b.vis) o n, bySwitch := sw }]
      else [{ owner := .cursor i, reads := boundRanges u.bound (fun b => b.vis) o n, bySwitch := sw }]

/-- Load cursor i: its old entry retires and the new one enters as the youngest; none while it is refused (R116, R118, R176). -/
def loadCursor (c : Core) (i : Nat) (u : Cursor) (sw : Bool) : Option Core :=
  let others := c.score.filter fun e => e.owner != .cursor i
  let es := cursorEntries i u sw
  if !es.isEmpty && decide (scoreSize ≤ others.length) then none
  else if es.any fun e => scoreConflict others e.reads e.write then none
  else some { c with cursors := c.cursors.setIfInBounds i u, score := others ++ es }

/-- SCUR of a core (R116, R403). -/
def execScur (i : BitVec 2) (a : Reg) (s : State) : Out :=
  runState s fun k c => interlockS s k c [a] [] (withXS s k c a fun x c1 => withDescriptor s k c1 x 8 fun d =>
    if d / 2 ^ 58 != 0 then raiseS s .illegal
    else
      match loadCursor c1 i.toNat (cursorOf d c1.bufs) false with
      | some c2 => (s, .done c2)
      | none => (s, .freeze .scoreboard))

/-- CURSOR_EXHAUSTED (R116): a cursor with no access left has its entry retired. -/
def execCursorExhausted (tile cur : Nat) (s : State) : Out :=
  let c := coreOf s (.tile tile)
  match c.cursors[cur]? with
  | some u =>
    if u.left = 0#16 then
      .next (setCore s (.tile tile) { c with score := c.score.filter fun e => e.owner != .cursor cur })
    else .next s
  | none => .next s

end Sys2Proof.Machine
end

