-- ==== Sys2Proof/Machine/Control.lean ====
section
/-! DEFINITION. Control: branches, jumps, hardware loops, TRAP, TRET, SIG, and the steps of the pipeline: landings, multi-cycle
scalar results, loop evaluation (R84, R94 to R111, R274, R340, R373, R374, R382, R383, R406, R414 to R416). JTAB stands with
the loads. -/

namespace Sys2Proof.Machine

/-- A conditional branch (R340): the target check, then the loop-end check of R107, then the operands. -/
def branch (cond : Word → Word → Bool) (a b : Reg) (off : BitVec 13) (k : CoreKind) (c : Core) : Res :=
  let t := target c.pc off
  if !inSlot t then raise .illegal (asWord t)
  else if armedEnd c c.pc then raise .illegal
  else
    interlock k c [a, b] []
      (withX k c a fun x c1 => withX k c1 b fun y c2 =>
        if cond x y then .jump c2 (asPc t) true else .jump c2 (c.pc + 4#14) false)

/-- BEQ (R340). -/
def execBeq (a b : Reg) (off : BitVec 13) (s : State) : Out := runCore s (branch (fun x y => x == y) a b off)
/-- BNE (R340). -/
def execBne (a b : Reg) (off : BitVec 13) (s : State) : Out := runCore s (branch (fun x y => x != y) a b off)
/-- BLT, signed (R340). -/
def execBlt (a b : Reg) (off : BitVec 13) (s : State) : Out := runCore s (branch ltSigned a b off)
/-- BGE, signed (R340). -/
def execBge (a b : Reg) (off : BitVec 13) (s : State) : Out := runCore s (branch (fun x y => !ltSigned x y) a b off)
/-- BLTN, natural (R340). -/
def execBltn (a b : Reg) (off : BitVec 13) (s : State) : Out := runCore s (branch ltNatural a b off)
/-- BGEN, natural (R340). -/
def execBgen (a b : Reg) (off : BitVec 13) (s : State) : Out := runCore s (branch (fun x y => !ltNatural x y) a b off)

/-- J (R373). -/
def execJ (off : BitVec 26) (s : State) : Out :=
  runCore s fun _ c =>
    let t := target c.pc off
    if !inSlot t then raise .illegal (asWord t)
    else if armedEnd c c.pc then raise .illegal
    else .jump c (asPc t) true

/-- JAL: x1 takes the address of the next instruction (R373). -/
def execJal (off : BitVec 26) (s : State) : Out :=
  runCore s fun k c =>
    let t := target c.pc off
    if !inSlot t then raise .illegal (asWord t)
    else if armedEnd c c.pc then raise .illegal
    else interlock k c [] [1#5] (.jump (putX c 1 ((c.pc.setWidth 64) + 4#64)) (asPc t) true)

/-- JALR (R374): ALIGN for a target that is no word address, ILLEGAL beyond the slot, then the loop-end check. -/
def execJalr (d a : Reg) (imm : BitVec 16) (s : State) : Out :=
  runCore s fun k c =>
    interlock k c [a] [d]
      (withX k c a fun x c1 =>
        let t := x + sext imm
        if t.extractLsb' 0 2 != 0#2 then raise .align t
        else if t.ult 0x4000#64 then
          if armedEnd c c.pc then raise .illegal
          else
            match writeX k c1 d ((c.pc.setWidth 64) + 4#64) with
            | .ok c2 => .jump c2 (t.setWidth 14) true
            | .error w => .freeze w
        else raise .illegal t)

/-- Arm or disarm slot k (R105, R383). -/
def setLoop (c : Core) (k : Bool) (l : LoopSlot) : Core := if k then { c with loop1 := l } else { c with loop0 := l }

/-- The slot k of a core. -/
def loopOf (c : Core) (k : Bool) : LoopSlot := if k then c.loop1 else c.loop0

/-- The checks of R383 that come before the count; none when they pass. -/
def loopCheck (c : Core) (fin : Nat) : Option Trap :=
  let e := c.pc.toNat + 4 * fin
  if c.inHandler then some { cause := .illegal }
  else if fin = 0 then some { cause := .illegal }
  else if 0x3FFC < e then some { cause := .illegal, addr := BitVec.ofNat 64 e }
  else if armedEnd c c.pc then some { cause := .illegal }
  else none

/-- Arm slot k with a count that is not 0; a count of 0 leaves it disarmed and goes on after the body (R105). -/
def armLoop (c : Core) (k : Bool) (fin : Nat) (cnt : BitVec 32) : Res :=
  let e : BitVec 14 := BitVec.ofNat 14 (c.pc.toNat + 4 * fin)
  if cnt = 0#32 then .goto (setLoop c k { loopOf c k with armed := false }) (e + 4#14)
  else .done (setLoop c k { armed := true, start := c.pc + 4#14, fin := e, count := cnt, initial := cnt })

/-- LOOP (R383): bits 32..63 of the count register must be zero. -/
def execLoop (slot : Bool) (a : Reg) (fin : BitVec 16) (s : State) : Out :=
  runCore s fun k c =>
    match loopCheck c fin.toNat with
    | some t => .trap t
    | none =>
      interlock k c [a] []
        (withX k c a fun x c1 =>
          if x.extractLsb' 32 32 != 0#32 then raise .illegal else armLoop c1 slot fin.toNat (x.setWidth 32))

/-- LOOPI (R383). -/
def execLoopi (slot : Bool) (cnt : BitVec 12) (fin : BitVec 13) (s : State) : Out :=
  runCore s fun _ c =>
    match loopCheck c fin.toNat with
    | some t => .trap t
    | none => armLoop c slot fin.toNat (cnt.setWidth 32)

/-- TRAP completes and raises BREAK at the next instruction's boundary (R414). -/
def execTrap (s : State) : Out :=
  runCore s fun _ c => if armedEnd c c.pc then raise .illegal else .done (addPend c { cause := .brk })

/-- TRET (R241, R415, R416): waits until the handler's own results have landed, then goes on at trap_pc. -/
def execTret (s : State) : Out :=
  runCore s fun _ c =>
    if !c.inHandler then raise .illegal
    else if armedEnd c c.pc then raise .illegal
    else if c.inflight.isEmpty then .goto (leaveHandler c) (pcOf c.trapPc)
    else .hold

/-- SIG (R274, R406): no effect while sig_ctl bit 0 is clear or a handler runs. -/
def execSig (sig : BitVec 16) (s : State) : Out :=
  runCore s fun _ c =>
    if !checking c then .done c
    else if c.checker.armed && c.checker.crc != c.checker.expected then raise .sigFault (c.pc.setWidth 64)
    else .done { c with checker := { crc := 0xFFFF#16, armed := true, expected := sig } }

/-! ### Steps of the pipeline -/

/-- The port of the oldest push that a full FIFO holds in the core's next tc. -/
def heldPort (k : CoreKind) (c : Core) : Nat := (((landTcHeld k c).inflight.find? fun l => l.remaining == 0).map (·.reg)).getD 28

/-- VECTOR_LANDING: the landings of the core's next tc (R95 to R99, R104, R111). While a push finds its FIFO full the tc does
not happen, and the core is frozen on it. -/
def execVectorLanding (s : State) : Out :=
  let c := settleLoop (coreOf s s.cur)
  if c.landing then
    match landTc (agentKind s.cur) c with
    | some c' => .next (setCore s s.cur c')
    | none => .next (setCore s s.cur { c with wait := .push (heldPort (agentKind s.cur) c) })
  else .next s

/-- A multi-cycle scalar result is due in the tc whose landings are to be made (R94). -/
def scalarDue (c : Core) : Bool := c.scalars.any fun e => decide (e.remaining ≤ 1)

/-- SCALAR_RESULT_WRITE: the landings of a tc in which a multi-cycle scalar result is due: it is written with them, and its
readers go on (R94); a port result waits for room (R52). -/
def execScalarResultWrite (s : State) : Out := if scalarDue (coreOf s s.cur) then execVectorLanding s else .next s

/-- LOOP_EVAL: the evaluation of the slots that end where the last instruction stood (R106). -/
def execLoopEval (s : State) : Out := .next (setCore s s.cur (settleLoop (coreOf s s.cur)))

end Sys2Proof.Machine
end

