-- ==== Sys2Proof/Machine/Switch.lean ====
section
/-! DEFINITION. The switch: how a word issues whole, and its nine control opcodes (R62, R91, R112 to R125, R401 to R404). The
switch that issues is that of the tile that steps. -/

namespace Sys2Proof.Machine

/-! ### FIFOs (R112, R121, R245) -/

/-- The memory core behind the link of tile n in direction d; none where the link leads to a neighbour (R121). -/
def edgeCore (n d : Nat) (r : Routes) : Option Agent :=
  if d = 0 ∧ tileRow n = 0 then some (.mem (memAt false (tileCol n) r.edge.toNat))
  else if d = 2 ∧ tileRow n = 31 then some (.mem (memAt true (tileCol n) r.edge.toNat))
  else none

/-- Where the words from link d of tile n stand: an agent and a FIFO number. -/
def linkIn (n d : Nat) (r : Routes) : Agent × Nat :=
  match edgeCore n d r with
  | some a => (a, 4)
  | none => (.tile n, 8 + d)

/-- Where words sent on link o of tile n go; none at a fabric edge. -/
def linkOut (n o : Nat) (r : Routes) : Option (Agent × Nat) :=
  match edgeCore n o r with
  | some a => some (a, 0)
  | none => (neighbour n o).map fun m => (.tile m, 8 + opposite o)

/-- A FIFO of a plane: its words as wide words. -/
def fifoOf (s : State) (planeB : Bool) (p : Agent × Nat) : List VWord :=
  if planeB then fifoB (coreOf s p.1) p.2 else (fifoA (coreOf s p.1) p.2).map fun w => w.setWidth 1024

/-- Write a FIFO of a plane. -/
def setFifo (s : State) (planeB : Bool) (p : Agent × Nat) (ws : List VWord) : State :=
  let c := coreOf s p.1
  setCore s p.1 (if planeB then setFifoB c p.2 ws else setFifoA c p.2 (ws.map fun w => w.setWidth 64))

/-- Remove the first word of a FIFO, with its mark. -/
def popFifo (s : State) (planeB : Bool) (p : Agent × Nat) : State :=
  let t := setFifo s planeB p ((fifoOf s planeB p).drop 1)
  setCore t p.1 (popMark (coreOf t p.1) planeB p.2).2

/-- The word at the head of a FIFO holds an uncorrectable error. -/
def headMarked (s : State) (planeB : Bool) (p : Agent × Nat) : Bool := (coreOf s p.1).marks.contains (.fifo planeB p.2 0)

/-- Append a word to a FIFO. -/
def pushFifo (s : State) (planeB : Bool) (p : Agent × Nat) (w : VWord) : State :=
  setFifo s planeB p (fifoOf s planeB p ++ [w])

/-! ### The route part -/

/-- Source codes of the outputs N, E, S, W of a plane. -/
def outCodes (r : Routes) (planeB : Bool) : List Nat :=
  if planeB then [r.bN.toNat, r.bE.toNat, r.bS.toNat, r.bW.toNat] else [r.aN.toNat, r.aE.toNat, r.aS.toNat, r.aW.toNat]

/-- Delivery mask of a plane. -/
def maskOf (r : Routes) (planeB : Bool) : BitVec 4 := if planeB then r.bMask else r.aMask
/-- M sink of a plane: 0 none, 1 to 4 a link. -/
def sinkOf (r : Routes) (planeB : Bool) : Nat := if planeB then r.bSink.toNat else r.aSink.toNat
/-- Cursor of a plane. -/
def curOf (r : Routes) (planeB : Bool) : Nat := if planeB then r.bCur.toNat else r.aCur.toNat

/-- A link or core source of a plane: codes 1 to 4 a link, 5 + o the core's outbound FIFO of direction o. -/
def sourceFifo (n : Nat) (r : Routes) (src : Nat) : Agent × Nat :=
  if src ≤ 4 then linkIn n (src - 1) r else (.tile n, 4 + (src - 5))

/-- The sources a plane's routes name, each once. -/
def routeSources (r : Routes) (planeB : Bool) : List Nat :=
  let outs := (List.range 4).filterMap fun o =>
    let code := (outCodes r planeB).getD o 0
    if code = 0 ∨ code = 6 then none else if code = 5 then some (5 + o) else some code
  let masks := (List.range 4).filterMap fun d => if (maskOf r planeB).getLsbD d then some (1 + d) else none
  let sink := if sinkOf r planeB = 0 then [] else [sinkOf r planeB]
  sortNat (outs ++ masks ++ sink)

/-- The plane's routes use M: as a source or as a sink. -/
def usesSource (r : Routes) (planeB : Bool) : Bool := (outCodes r planeB).contains 6

/-- The cursor uses of a word: cursor, used as sink, plane. -/
def cursorUses (r : Routes) : List (Nat × Bool × Bool) :=
  [false, true].flatMap fun b =>
    (if usesSource r b then [(curOf r b, false, b)] else []) ++ (if sinkOf r b ≠ 0 then [(curOf r b, true, b)] else [])

/-- The FIFOs that the routes of a plane push into. -/
def routeDests (n : Nat) (r : Routes) (planeB : Bool) : List (Option (Agent × Nat)) :=
  ((List.range 4).filterMap fun o => if (outCodes r planeB).getD o 0 = 0 then none else some (linkOut n o r)) ++
  ((List.range 4).filterMap fun d => if (maskOf r planeB).getLsbD d then some (some (.tile n, d)) else none)

/-- Words of a core inbound FIFO that an instruction which has not issued has popped: they still belong to it (R51, R245). -/
def poppedOf (c : Core) (planeB : Bool) (i : Nat) : Nat :=
  if 4 ≤ i then 0 else (c.pulled.filter fun e => e.1 == if planeB then 4 + i else i).length

/-- A destination has room: fewer than 4 words. -/
def destRoom (s : State) (planeB : Bool) (d : Option (Agent × Nat)) : Bool :=
  match d with
  | some p => decide ((fifoOf s planeB p).length + poppedOf (coreOf s p.1) planeB p.2 < 4)
  | none => false

/-! ### The M port (R116, R117, R119) -/

/-- Cursor i of the switch. -/
def cursorAt (c : Core) (i : Nat) : Cursor := (c.cursors[i]?).getD {}

/-- The first byte of the next access through a cursor. -/
def cursorAddr (u : Cursor) : Nat := u.addr.toNat / cursorSize u * cursorSize u

/-- A cursor after an access (R57). -/
def cursorStep (u : Cursor) : Cursor := { u with addr := u.addr + u.step, left := u.left - 1#16 }

/-- The cause that a cursor use meets, with its trap address: ILLEGAL where dir or plane disagrees (R119), BOUNDARY in the
scratch undo area of a leg with laps (R262). -/
def cursorFault (s : State) (c : Core) (use : Nat × Bool × Bool) : Option Trap :=
  let u := cursorAt c use.1
  let ta : Word := BitVec.ofNat 64 (c.spc.toNat + use.1 * 2 ^ 10 + 2 ^ 63)
  if u.dir != use.2.1 || u.plane != use.2.2 then some { cause := .illegal, addr := ta, switch := true }
  else if undoReserved s .tile c && (decide (undoBase < cursorAddr u + cursorSize u) ||
      reachesUndo (boundOffsets (if u.dir then shadow u.bound else visible u.bound) (cursorAddr u) (cursorSize u))) then
    some { cause := .boundary, addr := ta, switch := true }
  else none

/-- The word that a cursor reads. -/
def cursorRead (c : Core) (u : Cursor) : VWord :=
  BitVec.ofNat 1024 (ofBytes ((boundOffsets (visible u.bound) (cursorAddr u) (cursorSize u)).map fun p => tget c.scratch 0#8 p))

/-! ### Issue (R114, R115, R402) -/

/-- The conditions of R114 for the routes of a word and a further SN-A source. -/
def routesReady (s : State) (n : Nat) (r : Routes) (extra : List Nat) : Bool :=
  let c := coreOf s (.tile n)
  ([false, true].all fun b =>
    ((routeSources r b ++ (if b then [] else extra)).all fun src => !(fifoOf s b (sourceFifo n r src)).isEmpty) &&
    (routeDests n r b).all (destRoom s b)) &&
  (cursorUses r).all fun u => (cursorAt c u.1).left != 0#16

/-- The word at the head of a source before the issue. -/
def sourceWord (s : State) (n : Nat) (r : Routes) (planeB : Bool) (src : Nat) : VWord :=
  ((fifoOf s planeB (sourceFifo n r src)).head?).getD 0

/-- What output o of a plane sends: a source word, or the word that the plane's cursor reads. -/
def outputWord (s : State) (n : Nat) (r : Routes) (planeB : Bool) (o code : Nat) : VWord :=
  if code = 6 then
    let c := coreOf s (.tile n)
    cursorRead c (cursorAt c (curOf r planeB))
  else sourceWord s n r planeB (if code = 5 then 5 + o else code)

/-- The trap address of an error that the switch meets: spc, the direction and plane of the FIFO, bit 61 (R321). A core outbound
FIFO stands under its direction. -/
def switchIdent (c : Core) (src : Nat) (planeB : Bool) : Word :=
  BitVec.ofNat 64 (c.spc.toNat + (src - 1) % 4 * 2 ^ 10 + (if planeB then 2 ^ 12 else 0) + 2 ^ 61)

/-- The uncorrectable errors in the words that a switch word pops or reads from scratch: its core consumes them (R123, R271,
R321). -/
def switchErrors (s : State) (n : Nat) (r : Routes) (extra : List Nat) : List Trap :=
  let c := coreOf s (.tile n)
  ([false, true].flatMap fun b =>
    (sortNat (routeSources r b ++ (if b then [] else extra))).filterMap fun src =>
      if headMarked s b (sourceFifo n r src) then some { cause := .ue, addr := switchIdent c src b } else none) ++
  ((cursorUses r).filter fun u => !u.2.1).filterMap fun u =>
    let v := cursorAt c u.1
    scratchError c (boundOffsets (visible v.bound) (cursorAddr v) (cursorSize v))

/-- The core of a switch consumes what its switch met. -/
def consumeAt (s : State) (n : Nat) (ts : List Trap) : State :=
  if ts = [] then s else setCore s (.tile n) (ts.foldl addPend (coreOf s (.tile n)))

/-- Pop the sources of a plane. -/
def popSources (s : State) (n : Nat) (r : Routes) (planeB : Bool) (extra : List Nat) : State :=
  (sortNat (routeSources r planeB ++ (if planeB then [] else extra))).foldl (fun t src => popFifo t planeB (sourceFifo n r src)) s

/-- Send, deliver, from the words as they stood before the issue. -/
def sendWords (s0 : State) (s : State) (n : Nat) (r : Routes) (planeB : Bool) : State :=
  let s1 := (List.range 4).foldl (fun t o =>
    let code := (outCodes r planeB).getD o 0
    if code = 0 then t
    else
      match linkOut n o r with
      | some p => pushFifo t planeB p (outputWord s0 n r planeB o code)
      | none => t) s
  (List.range 4).foldl (fun t d =>
    if (maskOf r planeB).getLsbD d then pushFifo t planeB (.tile n, d) (sourceWord s0 n r planeB (1 + d)) else t) s1

/-- The write of a plane's M sink, in the shadow half; none while an undo area has no room (R117, R263). -/
def sinkWrite (s0 s : State) (n : Nat) (r : Routes) (planeB : Bool) : Option State :=
  if sinkOf r planeB = 0 then some s
  else
    let c := coreOf s (.tile n)
    let u := cursorAt c (curOf r planeB)
    let w := sourceWord s0 n r planeB (sinkOf r planeB)
    (engineScratchWrite s .tile c (boundOffsets (shadow u.bound) (cursorAddr u) (cursorSize u))
      (toBytes (cursorSize u) w.toNat)).map (setCore s (.tile n))

/-- Advance the cursors used; one with no access left retires its entry next (R116). -/
def advanceCursors (s : State) (n : Nat) (r : Routes) : State :=
  (cursorUses r).foldl (fun t use =>
    let c := coreOf t (.tile n)
    let u := cursorStep (cursorAt c use.1)
    let t1 := setCore t (.tile n) { c with cursors := c.cursors.setIfInBounds use.1 u }
    if u.left = 0#16 then urgent t1 [.event (.cursorExhausted n use.1)] else t1) s

/-- The routes of a word performed. -/
def performRoutes (s : State) (n : Nat) (r : Routes) (extra : List Nat) : Option State :=
  let s1 := popSources (popSources s n r false extra) n r true extra
  let s2 := sendWords s (sendWords s s1 n r false) n r true
  (sinkWrite s s2 n r false).bind fun s3 => (sinkWrite s s3 n r true).map fun s4 => advanceCursors s4 n r

/-- The tile whose switch issues. -/
def switchTile (s : State) : Nat :=
  match s.cur with
  | .tile n => n
  | _ => 0

/-- The switch halts and its core takes a cause at its next boundary (R119). -/
def haltSwitch (s : State) (n : Nat) (t : Trap) : State :=
  let c := coreOf s (.tile n)
  setCore s (.tile n) (addPend { c with swHalted := true } t)

/-- A word issues whole: its conditions, the cursor checks, the routes, then its control opcode. A switch that is halted or
waits for a hurdle issues nothing; a stall changes nothing. -/
def issueWord (s : State) (r : Routes) (extra : List Nat) (ready : Core → Bool) (control : State → State) : Out :=
  let n := switchTile s
  let c := coreOf s (.tile n)
  if c.swHalted || c.swWaitH then .next s
  else if routesReady s n r extra && ready c then
    match (cursorUses r).findSome? (cursorFault s c) with
    | some t => .next (haltSwitch s n t)
    | none =>
      match performRoutes s n r extra with
      | some s1 => .next (consumeAt (control s1) n (switchErrors s n r extra))
      | none => .next s
  else .next s

/-- Change the core record of a tile. -/
def onTile (n : Nat) (f : Core → Core) (s : State) : State := setCore s (.tile n) (f (coreOf s (.tile n)))

/-- spc := spc + 1. -/
def nextWord (c : Core) : Core := { c with spc := c.spc + 1#10 }

/-- Counter i. -/
def counter (c : Core) (i : BitVec 2) : BitVec 16 := (c.swCnt[i.toNat]?).getD 0#16

/-- Write counter i. -/
def setCounter (c : Core) (i : BitVec 2) (v : BitVec 16) : Core := { c with swCnt := c.swCnt.setIfInBounds i.toNat v }

/-- Nothing beside the routes to wait for. -/
def always (_ : Core) : Bool := true

/-- ROUTE (R402). -/
def execRoute (r : Routes) (s : State) : Out := issueWord s r [] always (onTile (switchTile s) nextWord)

/-- SJ (R120). -/
def execSj (r : Routes) (t : BitVec 10) (indexed : Bool) (n : BitVec 2) (s : State) : Out :=
  issueWord s r [] always (onTile (switchTile s) fun c =>
    { c with spc := if indexed then t + (counter c n).setWidth 10 else t })

/-- SLOOP (R120). -/
def execSloop (r : Routes) (n : BitVec 2) (cnt : BitVec 14) (s : State) : Out :=
  issueWord s r [] always (onTile (switchTile s) fun c => nextWord (setCounter c n (cnt.setWidth 16)))

/-- SDBNZ (R120). -/
def execSdbnz (r : Routes) (n : BitVec 2) (t : BitVec 10) (s : State) : Out :=
  issueWord s r [] always (onTile (switchTile s) fun c =>
    let v := counter c n - 1#16
    if v ≠ 0#16 then { setCounter c n v with spc := t } else nextWord (setCounter c n v))

/-- SMOV (R120): the popped word also feeds the routes that name its source. -/
def execSmov (r : Routes) (n : BitVec 2) (src : BitVec 3) (s : State) : Out :=
  let w := sourceWord s (switchTile s) r false src.toNat
  issueWord s r [src.toNat] always (onTile (switchTile s) fun c => nextWord (setCounter c n (w.setWidth 16)))

/-- The cursor as the switch's SCUR leaves it: its halves bound anew (R118, R174). -/
def reloaded (c : Core) (n : BitVec 2) (cnt : BitVec 14) : Cursor :=
  { cursorAt c n.toNat with left := cnt.setWidth 16, bound := c.bufs }

/-- A core with the cursors that a word uses advanced. -/
def advanced (r : Routes) (c : Core) : Core :=
  (cursorUses r).foldl (fun c u => { c with cursors := c.cursors.setIfInBounds u.1 (cursorStep (cursorAt c u.1)) }) c

/-- SCUR of the switch (R118). -/
def execScurSwitch (r : Routes) (n : BitVec 2) (cnt : BitVec 14) (s : State) : Out :=
  issueWord s r [] (fun c => (loadCursor (advanced r c) n.toNat (reloaded (advanced r c) n cnt) true).isSome)
    (onTile (switchTile s) fun c => nextWord ((loadCursor c n.toNat (reloaded c n cnt) true).getD c))

/-- STOK (R124): as DECIDE, it waits for room in the notice FIFO during a take-over (R235). -/
def execStok (r : Routes) (slot : BitVec 2) (s : State) : Out :=
  issueWord s r [] (fun _ => !s.starter.takingOver || noticeRoom s) fun t =>
    let c := coreOf t (.tile (switchTile s))
    let t1 := onTile (switchTile s) nextWord t
    match c.gang with
    | some g => sendToken t1 g slot
    | none => t1

/-- SWAITH (R124): the routes, then the wait for the gang hurdle, which advances spc. -/
def execSwaith (r : Routes) (s : State) : Out :=
  issueWord s r [] always (onTile (switchTile s) fun c => { c with swWaitH := true })

/-- SHALT (R124). -/
def execShalt (r : Routes) (s : State) : Out :=
  issueWord s r [] always (onTile (switchTile s) fun c => { c with swHalted := true })

end Sys2Proof.Machine
end

