-- ==== Sys2Proof/Machine/Streams.lean ====
section
/-! DEFINITION. Memory-core streams: SRD, SWR, SWAIT and the steps of a running stream; format windows; staged and host-bound
writes (R20, R183 to R187, R209, R212, R216, R266, R292, R408, R411). -/

namespace Sys2Proof.Machine

/-! ### The descriptor (R183) -/

/-- n bytes of a stream descriptor from an offset. -/
def sdField (d : BitVec 512) (off n : Nat) : Nat := (d.extractLsb' (8 * off) (8 * n)).toNat

/-- Virtual base address. -/
def sdAddr (d : BitVec 512) : Nat := sdField d 0x00 8
/-- Destination of a copy. -/
def sdDst (d : BitVec 512) : Nat := sdField d 0x08 8
/-- Bytes of a run. -/
def sdLen (d : BitVec 512) : Nat := sdField d 0x10 4
/-- Count of dimension i, 1 to 3. -/
def sdCount (d : BitVec 512) (i : Nat) : Nat := sdField d (0x12 + 2 * i) 2
/-- Stream number of the port table. -/
def sdStream (d : BitVec 512) : Nat := sdField d 0x1A 2
/-- SN-B. -/
def sdPlane (d : BitVec 512) : Bool := d.getLsbD 0xE0
/-- The gathered dimension; 0 none. -/
def sdGdim (d : BitVec 512) : Nat := (d.extractLsb' 0xE1 2).toNat
/-- Memory to memory. -/
def sdCopy (d : BitVec 512) : Bool := d.getLsbD 0xE3
/-- Stride of dimension i, signed. -/
def sdStride (d : BitVec 512) (i : Nat) : Word := BitVec.ofNat 64 (sdField d (0x18 + 8 * i) 8)
/-- Scratch offset of the index table. -/
def sdIndex (d : BitVec 512) : Nat := sdField d 0x38 4
/-- Bytes of a plane word. -/
def sdWord (d : BitVec 512) : Nat := if sdPlane d then 128 else 8
/-- Bytes of all runs. -/
def sdTotal (d : BitVec 512) : Nat := sdCount d 1 * sdCount d 2 * sdCount d 3 * sdLen d

/-- The displacement of index i of dimension n: gathered through the table in scratch where n is gdim. -/
def sdOffset (c : Core) (d : BitVec 512) (n i : Nat) : Word :=
  (if sdGdim d = n then BitVec.ofNat 64 (ofBytes (tgetList c.scratch 0#8 (sdIndex d + 4 * i) 4)) else BitVec.ofNat 64 i) *
    sdStride d n

/-- The virtual address of a run. -/
def sdRun (c : Core) (d : BitVec 512) (i1 i2 i3 : Nat) : Word :=
  BitVec.ofNat 64 (sdAddr d) + sdOffset c d 1 i1 + sdOffset c d 2 i2 + sdOffset c d 3 i3

/-! ### Issue (R184, R185, R266, R292) -/

/-- The port table binds the stream number to the memory core on the plane (R74). -/
def portBound (g : Gang) (k : Nat) (d : BitVec 512) : Bool :=
  g.ports.any fun p => p.south == memSouth k && p.column == memCol k - 2 * g.first && p.select == memSelect k &&
    p.stream == sdStream d && (if sdPlane d then p.planeB else p.planeA)

/-- The ILLEGAL row of R184. -/
def sdIllegal (g : Option Gang) (k : Nat) (swr : Bool) (d : BitVec 512) : Bool :=
  d.extractLsb' 0xE4 28 != 0#28 || sdField d 0x3C 4 != 0 || (!sdCopy d && sdDst d != 0) || sdLen d == 0 ||
  sdCount d 1 == 0 || sdCount d 2 == 0 || sdCount d 3 == 0 || (sdCopy d && (swr || sdGdim d != 0)) ||
  match g with
  | some g => !portBound g k d
  | none => true

/-- From the lowest to the highest byte a copy reads: its length less one. -/
def sdExtent (d : BitVec 512) : Nat :=
  ([1, 2, 3].map fun i => (sdCount d i - 1) * (sdStride d i).toInt.natAbs).sum + sdLen d - 1

/-- Source and destination ranges of a copy overlap. -/
def sdOverlap (d : BitVec 512) : Bool :=
  sdCopy d && decide (((sdAddr d : Int) - sdDst d).natAbs ≤ sdExtent d)

/-- The first byte written by a writing stream. -/
def sdFirst (c : Core) (d : BitVec 512) : Nat := if sdCopy d then sdDst d else (sdRun c d 0 0 0).toNat

/-- The entry of the supervisor's tables for an address of the core's context. -/
def tableLeaf (s : State) (c : Core) (va : Nat) : Option Leaf := pageFor (contextOf s ((ctxOf s c).getD 0)).pages va

/-- Where a writing stream writes a run. -/
def sdTarget (c : Core) (d : BitVec 512) (i1 i2 i3 : Nat) : Nat :=
  let a := sdRun c d i1 i2 i3
  (if sdCopy d then a + (BitVec.ofNat 64 (sdDst d) - BitVec.ofNat 64 (sdAddr d)) else a).toNat

/-- A page holds a byte of va .. va + n − 1. -/
def pageMeets (va n : Nat) (e : Leaf) : Bool :=
  decide (leafVtag e * 4096 < va + n ∧ va < leafVtag e * 4096 + 2 ^ pageBits (leafSize e))

/-- A byte that the stream writes lies on a host page. -/
def sdHost (s : State) (c : Core) (d : BitVec 512) : Bool :=
  let hs := (contextOf s ((ctxOf s c).getD 0)).pages.filter fun e => leafV e && leafH e
  !hs.isEmpty && (List.range (sdCount d 3)).any fun i3 => (List.range (sdCount d 2)).any fun i2 =>
    (List.range (sdCount d 1)).any fun i1 => hs.any (pageMeets (sdTarget c d i1 i2 i3) (sdLen d))

/-- The displacements of a dimension modulo 8. -/
def sdResidues (c : Core) (d : BitVec 512) (n : Nat) : List Nat :=
  if sdGdim d = n then sortNat ((List.range (sdCount d n)).map fun i => (sdOffset c d n i).toNat % 8)
  else sortNat ((List.range (Nat.min (sdCount d n) 8)).map fun i => (sdOffset c d n i).toNat % 8)

/-- Some run's start, or the run length, is no multiple of 8 (R292). -/
def sdUnaligned (c : Core) (d : BitVec 512) : Bool :=
  sdLen d % 8 != 0 || (sdResidues c d 1).any fun a => (sdResidues c d 2).any fun b => (sdResidues c d 3).any fun e =>
    ((if sdCopy d then sdDst d else sdAddr d) + a + b + e) % 8 != 0

/-- A copy's destination lies in the other half (R184): as the model finds it at issue, by the page of its first byte in the supervisor's
tables (log 156). -/
def sdOtherHalf (s : State) (c : Core) (k : Nat) (d : BitVec 512) : Bool :=
  sdCopy d && match tableLeaf s c (sdDst d) with
    | some e => leafV e && bitAt (leafPhys e (sdDst d)) 47 != memSouth k
    | none => false

/-- The checks of a descriptor that has been read. -/
def sdCheck (s : State) (c : Core) (k o : Nat) (swr : Bool) (d : BitVec 512) : Option Trap :=
  if sdIndex d % 4 != 0 then some { cause := .align, addr := BitVec.ofNat 64 (sdIndex d) }
  else if sdGdim d != 0 && decide (0x40000 < sdIndex d + 4 * sdCount d (sdGdim d)) then
    some { cause := .boundary, addr := BitVec.ofNat 64 (sdIndex d) }
  else if sdIllegal (gangOf s c) k swr d then some { cause := .illegal }
  else if sdOverlap d then some { cause := .overlap, addr := BitVec.ofNat 64 o }
  else if sdOtherHalf s c k d then some { cause := .boundary, addr := BitVec.ofNat 64 (sdDst d) }
  else if (swr || sdCopy d) && sdHost s c d && sdUnaligned c d then
    some { cause := .align, addr := BitVec.ofNat 64 (sdFirst c d) }
  else none

/-- The lowest free stream slot. -/
def freeSlot (c : Core) : Option Nat := firstFrom (fun i => (tfind c.streams i).isNone) 0 4

/-- A stream of a core's start order. -/
def nextOrder (c : Core) : Nat := c.streams.foldl (fun n e => Nat.max n (e.2.order + 1)) 0

/-- A stream starts: its slot, and for a writing stream its place among the package's writes (R266, R292). -/
def startStream (s : State) (c : Core) (slot : Nat) (swr : Bool) (d : BitVec 512) : SRes :=
  let st : Stream := { desc := d, write := swr, order := nextOrder c, serial := s.writes }
  let c1 := { c with streams := tput c.streams slot st }
  match ctxOf s c with
  | some x =>
    if !(swr || sdCopy d) then (s, .done c1)
    else
      let t := contextOf s x
      let s1 := { s with writes := s.writes + 1 }
      if t.laps then
        if sdHost s c d then
          (setContext s1 x { t with
            stageFill := t.stageFill + sdTotal d,
            stagedWrites := t.stagedWrites ++ [{ order := s.writes, base := t.stageFill, room := sdTotal d }] }, .done c1)
        else (s1, .done c1)
      else ({ s1 with outQ := s1.outQ ++ [{ ctx := x, serial := s.writes, ready := false }] }, .done c1)
  | none => raiseS s .illegal

/-- The staging quota refuses a stream (R266). -/
def overStage (s : State) (c : Core) (swr : Bool) (d : BitVec 512) : Bool :=
  match ctxOf s c with
  | some x =>
    let t := contextOf s x
    t.laps && (swr || sdCopy d) && sdHost s c d && decide (t.stageQuota < t.stageFill + sdTotal d)
  | none => false

/-- SRD and SWR (R184, R185, R408); an error in the descriptor is consumed (R271). Bits 20 and above of xa are ignored (log 162). -/
def stream (swr : Bool) (a : Reg) (s : State) : Out :=
  runState s fun k c => interlockS s k c [a] [] (withXS s k c a fun x c1 =>
    let o := tileOffset (tileAddr x)
    if o % 64 != 0 then raiseS s .align (BitVec.ofNat 64 o)
    else if 0x40000 < o + 64 then raiseS s .boundary (BitVec.ofNat 64 o)
    else
      let d : BitVec 512 := BitVec.ofNat 512 (ofBytes (tgetList c1.scratch 0#8 o 64))
      consumeS (scratchError c1 ((List.range 64).map (o + ·))) <| match s.cur with
      | .mem m =>
        match sdCheck s c1 m o swr d with
        | some t => (s, .trap t)
        | none =>
          if overStage s c1 swr d then raiseS s .stageQuota (BitVec.ofNat 64 (sdFirst c1 d))
          else
            match freeSlot c1 with
            | some slot => startStream s c1 slot swr d
            | none => (s, .freeze .streams)
      | _ => raiseS s .illegal)

/-- SRD. -/
def execSrd (a : Reg) (s : State) : Out := stream false a s
/-- SWR. -/
def execSwr (a : Reg) (s : State) : Out := stream true a s

/-- SWAIT (R411). -/
def execSwait (s : State) : Out := runCore s fun _ c => if streamsDone c then .done c else .poll c .swait

/-! ### A running stream -/

/-- The stream in a slot of a memory core. -/
def streamOf (s : State) (k slot : Nat) : Option Stream := tfind (coreOf s (.mem k)).streams slot

/-- Write a stream. -/
def putStream (s : State) (k slot : Nat) (st : Stream) : State :=
  let c := coreOf s (.mem k)
  setCore s (.mem k) { c with streams := tput c.streams slot st }

/-- A stream meets a fault before its run. -/
def faultStream (s : State) (k slot : Nat) (st : Stream) (t : Trap) : State :=
  urgent (putStream s k slot { st with fault := some t }) [.event (.streamFault k slot)]

/-- Every run has been read or written. -/
def runsOver (st : Stream) : Bool := decide (sdCount st.desc 3 ≤ st.i3)

/-- A stream at its next run. -/
def nextRun (st : Stream) : Stream :=
  let s0 := { st with run := none, pages := [], dpages := [], byte := 0 }
  if st.i1 + 1 < sdCount st.desc 1 then { s0 with i1 := st.i1 + 1 }
  else if st.i2 + 1 < sdCount st.desc 2 then { s0 with i1 := 0, i2 := st.i2 + 1 }
  else { s0 with i1 := 0, i2 := 0, i3 := st.i3 + 1 }

/-- The first address of va .. va + n − 1 that no entry of a list translates. -/
def uncovered (ps : List Leaf) (va n fuel : Nat) : Option Nat :=
  match fuel with
  | 0 => some va
  | fuel + 1 =>
    if n = 0 then none
    else
      match pageFor ps va with
      | none => some va
      | some e =>
        let m := 2 ^ pageBits (leafSize e) - va % 2 ^ pageBits (leafSize e)
        uncovered ps (va + m) (n - m) fuel

/-- Translate the pages of a run through the core's TLB, before any byte of it moves: whether all are translated. A miss asks
the translation service; a fault, or a page of the other half or another package, stops the stream (R20, R212, R216). -/
def translateRun (s : State) (k slot : Nat) (dest : Bool) (ac : AccessClass) (va runVa n fuel : Nat) : State × Bool :=
  match fuel with
  | 0 => (s, false)
  | fuel + 1 =>
    match streamOf s k slot with
    | none => (s, false)
    | some st =>
      let ps := if dest then st.dpages else st.pages
      match uncovered ps va n (ps.length + 1) with
      | none => (s, true)
      | some u =>
        let c := coreOf s (.mem k)
        let w : Word := BitVec.ofNat 64 u
        match translate s .mem c ac w with
        | .ok e phys c1 =>
          if pkgOf phys != s.ownPkg || bitAt phys 47 != memSouth k then
            (faultStream s k slot st { cause := .boundary, addr := BitVec.ofNat 64 runVa }, false)
          else if !installed phys then (faultStream s k slot st { cause := .page, addr := w }, false)
          else
            let st1 := if dest then { st with dpages := st.dpages ++ [e] } else { st with pages := st.pages ++ [e] }
            translateRun (putStream (setCore s (.mem k) c1) k slot st1) k slot dest ac va runVa n fuel
        | .miss =>
          (putStream (send s (missPacket s (.mem k) c ac.kind w slot)) k slot { st with missing := true }, false)
        | .fail .remoteLost => (faultStream s k slot st { cause := .boundary, addr := BitVec.ofNat 64 runVa }, false)
        | .fail x => (faultStream s k slot st { cause := x, addr := w }, false)

/-- Fuel for the pages of a run. -/
def pageFuel (n : Nat) : Nat := n / 4096 + 3

/-- Where the index stands in scratch that the current run of a gathered stream reads. -/
def indexBytes (st : Stream) : List Nat :=
  let i := match sdGdim st.desc with
    | 1 => st.i1
    | 2 => st.i2
    | _ => st.i3
  if sdGdim st.desc = 0 then [] else (List.range 4).map (sdIndex st.desc + 4 * i + ·)

/-- The read of a run's index consumes an error in it (R271). -/
def consumeIndex (s : State) (k : Nat) (st : Stream) : State :=
  let c := coreOf s (.mem k)
  if st.run.isSome then s else setCore s (.mem k) (consumeScratch c (indexBytes st))

/-- Begin the current run, if it has not begun, and translate it. -/
def beginRun (s : State) (k slot : Nat) : State × Bool :=
  match streamOf s k slot with
  | none => (s, false)
  | some st =>
    let d := st.desc
    let va := st.run.getD (sdRun (coreOf s (.mem k)) d st.i1 st.i2 st.i3).toNat
    let s1 := putStream (consumeIndex s k st) k slot { st with run := some va }
    let n := sdLen d
    if st.write then
      translateRun s1 k slot false { need := .w, scalar := false, run := true, kind := .streamWrite } va va n (pageFuel n)
    else
      match translateRun s1 k slot false { need := .r, scalar := false, run := true, kind := .streamRead } va va n (pageFuel n) with
      | (s2, false) => (s2, false)
      | (s2, true) =>
        if sdCopy d then
          let dv := (BitVec.ofNat 64 va + (BitVec.ofNat 64 (sdDst d) - BitVec.ofNat 64 (sdAddr d)) : Word).toNat
          translateRun s2 k slot true { need := .w, scalar := false, run := true, kind := .streamWrite } dv dv n (pageFuel n)
        else (s2, true)

/-- Read n bytes at a virtual address through translated entries. -/
def readPages (s : State) (ps : List Leaf) (va n fuel : Nat) : List Byte :=
  match fuel with
  | 0 => []
  | fuel + 1 =>
    if n = 0 then []
    else
      match pageFor ps va with
      | none => []
      | some e =>
        let m := Nat.min n (2 ^ pageBits (leafSize e) - va % 2 ^ pageBits (leafSize e))
        memBytes s (leafPhys e va) m ++ readPages s ps (va + m) (n - m) fuel

/-- The parts of a run as physical ranges. -/
def physParts (ps : List Leaf) (va n fuel : Nat) : List (Nat × Nat) :=
  match fuel with
  | 0 => []
  | fuel + 1 =>
    if n = 0 then []
    else
      match pageFor ps va with
      | none => []
      | some e =>
        let m := Nat.min n (2 ^ pageBits (leafSize e) - va % 2 ^ pageBits (leafSize e))
        (leafPhys e va, m) :: physParts ps (va + m) (n - m) fuel

/-- A reader of poisoned bytes consumes an uncorrectable error (R271, R275). -/
def consumePages (s : State) (code : Nat) (ps : List Leaf) (va n : Nat) : State :=
  (physParts ps va n (n / 4096 + 3)).foldl (fun u p => consume u code p.1 p.2) s

/-- What the memory core has posted to a range before is performed first (R193). -/
def settlePages (s : State) (k : Nat) (ps : List Leaf) (va n : Nat) : State :=
  (physParts ps va n (n / 4096 + 3)).foldl (fun u p => performOlder u (agentCode (.mem k)) p.1 p.2) s

/-- A write of a stream on a host page: where the context runs laps it goes into the room that its SWR has reserved in the staging
area, otherwise it is performed and noted for the host (R266, R292). -/
def hostWrite (s : State) (k slot x : Nat) (st : Stream) (e : Leaf) (va : Nat) (bs : List Byte) : State :=
  let phys := leafPhys e va
  let t := contextOf s x
  let l := (List.range bs.length).zip bs
  if t.laps then
    match t.stagedWrites.find? fun w => w.order == st.serial with
    | none => s
    | some w =>
      let s1 := memWrite s (s.ownPkg * 2 ^ 48 + t.stageBase + w.base + w.bytes.length) bs
      let es := l.map fun b => (va + b.1, phys + b.1, b.2)
      setContext s1 x { t with stagedWrites := t.stagedWrites.map fun v =>
        if v.order = st.serial then { v with bytes := v.bytes ++ es } else v }
  else
    let s1 := homeWrite s x (agentCode (.mem k)) e (some va) phys bs
    match streamOf s1 k slot with
    | some u => putStream s1 k slot { u with host := u.host ++ l.map fun b => (va + b.1, b.2) }
    | none => s1

/-- Write bytes at a virtual address through translated entries. -/
def writePages (s : State) (k slot x : Nat) (st : Stream) (ps : List Leaf) (va : Nat) (bs : List Byte) (fuel : Nat) : State :=
  match fuel with
  | 0 => s
  | fuel + 1 =>
    if bs.isEmpty then s
    else
      match pageFor ps va with
      | none => s
      | some e =>
        let m := Nat.min bs.length (2 ^ pageBits (leafSize e) - va % 2 ^ pageBits (leafSize e))
        let now := bs.take m
        let s1 := if leafH e then hostWrite s k slot x st e va now
          else homeWrite s x (agentCode (.mem k)) e (some va) (leafPhys e va) now
        writePages s1 k slot x st ps (va + m) (bs.drop m) fuel

/-! ### Format windows (R186, R187) -/

/-- Domain physical base of a window's element region. -/
def winBase (s : State) (w : Window) : Nat := s.ownPkg * 2 ^ 48 + w.ebase
/-- Its last byte. -/
def winLast (s : State) (w : Window) : Nat := s.ownPkg * 2 ^ 48 + w.elimit
/-- Bytes of a group string of a window's format: INT3 12, otherwise 16. -/
def winString (w : Window) : Nat := if w.fmt = 3 then 12 else 16
/-- Bytes of a scale of a window's format: E8M0 1, BF16 2. -/
def winScale (w : Window) : Nat := if w.fmt = 1 then 1 else 2

/-- The window whose element region holds a byte of the parts; of windows that overlap there, which the spec does not order, the model
takes the lowest-numbered (log 154). -/
def windowFor (s : State) (parts : List (Nat × Nat)) : Option Window :=
  (s.windows.find? fun e => decide (1 ≤ e.2.fmt ∧ e.2.fmt ≤ 3) && parts.any fun p =>
    decide (p.1 ≤ winLast s e.2 ∧ winBase s e.2 < p.1 + p.2)).map (·.2)

/-- The parts follow one another in memory. -/
def contiguous (parts : List (Nat × Nat)) : Bool :=
  match parts with
  | p :: q :: r => p.1 + p.2 == q.1 && contiguous (q :: r)
  | _ => true

/-- The first string's number from the region's base, and how many strings the run holds; none for a run that breaks the rule
of R187. -/
def windowRun (s : State) (w : Window) (parts : List (Nat × Nat)) (n : Nat) : Option (Nat × Nat) :=
  match parts with
  | [] => none
  | p :: _ =>
    let sb := winString w
    let off := p.1 - winBase s w
    if contiguous parts && decide (winBase s w ≤ p.1 ∧ p.1 + n ≤ winLast s w + 1) && off % sb == 0 && n % sb == 0 &&
        decide (off / sb % (w.ncol + 1) + n / sb ≤ w.ncol + 1) then some (off / sb, n / sb)
    else none

/-- Bytes with zeros up to a pitch. -/
def padTo (p : Nat) (bs : List Byte) : List Byte := bs ++ List.replicate (p - bs.length) 0#8

/-- Where the scales of a window's strings lie. -/
def scaleAddr (s : State) (w : Window) (first : Nat) : Nat := s.ownPkg * 2 ^ 48 + w.sbase + first * winScale w

/-- The scales of a window run are out of a memory core's reach: in the other half, or at no memory (R20). -/
def scalesBeyond (s : State) (k : Nat) (w : Window) (first count : Nat) : Option Cause :=
  let a := scaleAddr s w first
  let z := a + count * winScale w - 1
  if bitAt a 47 != memSouth k || bitAt z 47 != memSouth k then some .boundary
  else if !installed a || !installed z then some .page
  else none

/-- What a window run delivers: the scale row and the element row (R187). -/
def windowRows (s : State) (w : Window) (first count : Nat) (run : List Byte) : List Byte :=
  padTo w.pitch (memBytes s (scaleAddr s w first) (count * winScale w)) ++ padTo w.pitch run

/-! ### The steps -/

/-- The context of a memory core's gang. -/
def memCtx (s : State) (k : Nat) : Nat := (ctxOf s (coreOf s (.mem k))).getD 0

/-- Take bytes for a reading stream until a plane word is staged, the runs are over, or a run cannot begin: whether the stream
can go on. -/
def fillWord (s : State) (k slot fuel : Nat) : State × Bool :=
  match fuel with
  | 0 => (s, true)
  | fuel + 1 =>
    match streamOf s k slot with
    | none => (s, false)
    | some st =>
      if runsOver st || decide (sdWord st.desc ≤ st.staged.length) then (s, true)
      else
        match beginRun s k slot with
        | (s0, false) => (s0, false)
        | (s0, true) =>
          match streamOf s0 k slot with
          | none => (s0, false)
          | some u =>
            let va := u.run.getD 0
            let n := sdLen u.desc
            let s1 := settlePages s0 k u.pages va n
            let parts := physParts u.pages va n (pageFuel n)
            match (if u.byte = 0 then windowFor s1 parts else none) with
            | some w =>
              match windowRun s1 w parts n with
              | none => (faultStream s1 k slot u { cause := .illegal, addr := BitVec.ofNat 64 va }, false)
              | some (f, m) =>
                match scalesBeyond s1 k w f m with
                | some x => (faultStream s1 k slot u { cause := x, addr := BitVec.ofNat 64 va }, false)
                | none =>
                let s3 := performOlder s1 (agentCode (.mem k)) (scaleAddr s1 w f) (m * winScale w)
                let row := readPages s3 u.pages va n (pageFuel n)
                let s2 := consume (consumePages s3 (agentCode (.mem k)) u.pages va n) (agentCode (.mem k))
                  (scaleAddr s1 w f) (m * winScale w)
                let rows := windowRows s3 w f m row
                fillWord (putStream s2 k slot { nextRun { u with staged := u.staged ++ rows } with
                  rows := some (u.i1, u.i2, u.i3, rows.length) }) k slot fuel
            | none =>
              let m := Nat.min (n - u.byte) (sdWord u.desc - u.staged.length)
              let bs := readPages s1 u.pages (va + u.byte) m (pageFuel m)
              let s2 := consumePages s1 (agentCode (.mem k)) u.pages (va + u.byte) m
              let v := { u with staged := u.staged ++ bs, byte := u.byte + m }
              fillWord (putStream s2 k slot (if v.byte = n then nextRun v else v)) k slot fuel

/-- The FIFO of an edge port: 4 toward the tile, 0 toward the memory core. -/
def portFifo (s : State) (k : Nat) (d : BitVec 512) (toTile : Bool) : List VWord :=
  fifoOf s (sdPlane d) (.mem k, if toTile then 4 else 0)

/-- An older stream of the core uses the same port FIFO (R185). A reading and a writing stream use the two FIFOs of a port, and the
model does not order them with each other (log 155). -/
def olderStream (s : State) (k : Nat) (st : Stream) : Bool :=
  (coreOf s (.mem k)).streams.any fun e =>
    decide (e.2.order < st.order) && e.2.write == st.write && !sdCopy e.2.desc && !sdCopy st.desc && !e.2.done &&
    sdPlane e.2.desc == sdPlane st.desc

/-- A reading stream pushes its next word. -/
def readStep (s : State) (k slot : Nat) (st : Stream) : State :=
  if 4 ≤ (portFifo s k st.desc true).length then s
  else
    match fillWord s k slot (sdWord st.desc + 1) with
    | (s1, false) => s1
    | (s1, true) =>
      match streamOf s1 k slot with
      | none => s1
      | some u =>
        let n := sdWord u.desc
        let left := u.staged.drop n
        let s2 := putStream s1 k slot { u with
          staged := left, rows := if left.isEmpty then none else u.rows, done := runsOver u && left.isEmpty }
        pushFifo s2 (sdPlane u.desc) (.mem k, 4) (BitVec.ofNat 1024 (ofBytes (padTo n (u.staged.take n))))

/-- Write staged bytes into the runs, run after run, as far as their pages translate. -/
def drainWord (s : State) (k slot fuel : Nat) : State :=
  match fuel with
  | 0 => s
  | fuel + 1 =>
    match streamOf s k slot with
    | none => s
    | some st =>
      if runsOver st then putStream s k slot { st with staged := [], done := true }
      else if st.staged.isEmpty then s
      else
        match beginRun s k slot with
        | (s1, false) => s1
        | (s1, true) =>
          match streamOf s1 k slot with
          | none => s1
          | some u =>
            let n := sdLen u.desc
            let m := Nat.min (n - u.byte) u.staged.length
            let at' := u.run.getD 0 + u.byte
            let s2 := writePages (settlePages s1 k u.pages at' m) k slot (memCtx s k) u u.pages at' (u.staged.take m) (pageFuel m)
            match streamOf s2 k slot with
            | none => s2
            | some v =>
              let v1 := { v with staged := v.staged.drop m, byte := v.byte + m }
              drainWord (putStream s2 k slot (if v1.byte = n then nextRun v1 else v1)) k slot fuel

/-- A stream has popped a word with an uncorrectable error: its core consumes it; the spec gives no trap_addr for a memory core's FIFO
(R271). -/
def popError (s : State) (k : Nat) : State :=
  pendAt { s with fresh := s.fresh + 1 } (agentCode (.mem k)) { cause := .ue, addr := Config.freeValue s.fresh }

/-- A writing stream pops its next word, once the run it belongs to is translated. -/
def writeStep (s : State) (k slot : Nat) (st : Stream) : State :=
  if !st.staged.isEmpty then drainWord s k slot (st.staged.length + 1)
  else
    match portFifo s k st.desc false with
    | [] => s
    | w :: _ =>
      match beginRun s k slot with
      | (s1, false) => s1
      | (s1, true) =>
        match streamOf s1 k slot with
        | none => s1
        | some u =>
          let s2 := popFifo (putStream s1 k slot { u with staged := toBytes (sdWord u.desc) w.toNat }) (sdPlane u.desc) (.mem k, 0)
          drainWord (if headMarked s1 (sdPlane u.desc) (.mem k, 0) then popError s2 k else s2) k slot (sdWord u.desc + 1)

/-- A copy moves its next word. -/
def copyStep (s : State) (k slot : Nat) : State :=
  match beginRun s k slot with
  | (s0, false) => s0
  | (s0, true) =>
    match streamOf s0 k slot with
    | none => s0
    | some u =>
      let n := sdLen u.desc
      let m := Nat.min (n - u.byte) (sdWord u.desc)
      let va := u.run.getD 0
      let dv := (BitVec.ofNat 64 va + (BitVec.ofNat 64 (sdDst u.desc) - BitVec.ofNat 64 (sdAddr u.desc)) : Word).toNat
      let s1 := settlePages (settlePages s0 k u.pages (va + u.byte) m) k u.dpages (dv + u.byte) m
      let bs := readPages s1 u.pages (va + u.byte) m (pageFuel m)
      let s2 := consumePages s1 (agentCode (.mem k)) u.pages (va + u.byte) m
      let s3 := writePages s2 k slot (memCtx s k) u u.dpages (dv + u.byte) bs (pageFuel m)
      match streamOf s3 k slot with
      | none => s3
      | some v =>
        let v1 := { v with byte := v.byte + m }
        let v2 := if v1.byte = n then nextRun v1 else v1
        putStream s3 k slot { v2 with done := runsOver v2 }

/-- The stream is one that can move: its gang runs, and it is neither done, nor stalled, nor waiting for a fill. -/
def streamLive (s : State) (k : Nat) (st : Stream) : Bool :=
  !st.done && st.fault.isNone && st.stalled.isNone && !st.missing && !olderStream s k st &&
  (coreOf s (.mem k)).mode != .off && !(gangOf s (coreOf s (.mem k))).any fun g => g.stopping

/-- STREAM_WORD (R183, R408). -/
def execStreamWord (mc slot : Nat) (s : State) : Out :=
  match streamOf s mc slot with
  | some st =>
    if !streamLive s mc st then .next s
    else if sdCopy st.desc then .next (copyStep s mc slot)
    else if st.write then .next (writeStep s mc slot st)
    else .next (readStep s mc slot st)
  | none => .next s

/-! ### Host-bound bytes (R289, R290, R292) -/

/-- n bytes of an endpoint entry from an offset. -/
def epField (e : BitVec 256) (off n : Nat) : Nat := (e.extractLsb' (8 * off) (8 * n)).toNat

/-- Entry i of a context's endpoint table; zeros where it cannot be read. -/
def endpoint (s : State) (ctx i : Nat) : BitVec 256 :=
  match unitRead s ctx 0#8 { need := .r, scalar := false } ((contextOf s ctx).endpoints + 32 * i) 32 with
  | .ok bs => BitVec.ofNat 256 (ofBytes bs)
  | .error _ => 0#256

/-- An out endpoint: dir 2 or 3. -/
def epOut (e : BitVec 256) : Bool := decide (2 ≤ epField e 0x14 1 % 4)

/-- The host-bound bytes of writes to host pages: for each out endpoint, in increasing number, those in its staging range. -/
def outBytes (s : State) (ctx : Nat) (ws : List (Nat × Byte)) : List (Nat × Byte) :=
  if ws.isEmpty then []
  else
    (List.range 4096).flatMap fun i =>
      let e := endpoint s ctx i
      if epOut e then
        let stage := epField e 0x08 8
        (ws.filter fun w => decide (stage ≤ w.1 ∧ w.1 < stage + epField e 0x10 4)).map fun w =>
          ((epField e 0x00 8 + (w.1 - stage)) % 2 ^ 64, w.2)
      else []

/-- The place of a writing stream in the host stream engine's queue: its bytes are known, or it has none. -/
def settleOut (s : State) (serial : Nat) (bs : List (Nat × Byte)) : State :=
  { s with outQ := s.outQ.filterMap fun o =>
      if o.vector.isNone && o.serial == serial then
        (if bs.isEmpty then none else some { o with bytes := bs, ready := true })
      else some o }

/-- A stream leaves its slot. -/
def dropStream (s : State) (k slot : Nat) : State :=
  let c := coreOf s (.mem k)
  setCore s (.mem k) { c with streams := tdel c.streams slot }

/-- STREAM_COMPLETE (R185): the slot is freed; a writing stream's host-bound bytes go to the host stream engine, or its staged
write is whole (R266, R292). -/
def execStreamComplete (mc slot : Nat) (s : State) : Out :=
  match streamOf s mc slot with
  | some st =>
    if !st.done then .next s
    else
      let x := memCtx s mc
      let s1 := dropStream s mc slot
      if !(st.write || sdCopy st.desc) then .next s1
      else if (contextOf s x).laps then
        let t := contextOf s1 x
        .next (setContext s1 x { t with stagedWrites := t.stagedWrites.map fun w =>
          if w.order = st.serial then { w with complete := true } else w })
      else .next (settleOut s1 st.serial (outBytes s1 x st.host))
  | none => .next s

/-- STREAM_FAULT (R216): PAGE, PERM and CID stop the stream with a notice, PERM and CID fault the job as well; BOUNDARY and
ILLEGAL end it, and the memory core takes the cause at its next boundary. -/
def execStreamFault (mc slot : Nat) (s : State) : Out :=
  match streamOf s mc slot with
  | some st =>
    match st.fault with
    | none => .next s
    | some t =>
      if t.cause = .boundary ∨ t.cause = .illegal then
        let s1 := dropStream s mc slot
        let s2 := if st.write || sdCopy st.desc then settleOut s1 st.serial [] else s1
        .next (pendAt s2 (agentCode (.mem mc)) t)
      else
        let s1 := notify (putStream s mc slot { st with fault := none, stalled := some t }) (.stream mc slot t)
        if t.cause = .page then .next s1 else .next (stopJob s1 (memCtx s mc) t.cause)
  | none => .next s

end Sys2Proof.Machine
end

