-- ==== Sys2Proof/Machine/Image.lean ====
section
/-! DEFINITION. The IBX container and the load of a leg: what the Starter reads and checks before an image is written into a
slot (R24, R36, R63, R70 to R76, R226, R227). -/

namespace Sys2Proof.Machine

/-! ### Reading (R208, R227) -/

/-- Why a load fails: a defect, or an uncorrectable error, which a duplicate may repair (R76, R227). -/
inductive LoadError where
  | defect | uncorrectable
  deriving DecidableEq, Repr

/-- Translate an address of a leg image: readable, and executable (R32, R208). -/
def codeFor (s : State) (ctx : Nat) (cfg : BitVec 8) (va : Nat) : Except Cause (Leaf × Nat) :=
  match translateFor s ctx cfg { need := .r } va with
  | .error c => .error c
  | .ok (e, phys) => if leafX e then .ok (e, phys) else .error .perm

/-- Read the pieces of a range for a load, from the duplicates where dup is set and the page keeps one. -/
def loadPieces (s : State) (ctx : Nat) (cfg : BitVec 8) (exec dup : Bool) (ps : List (Nat × Nat)) : Except LoadError (List Byte) :=
  match ps with
  | [] => .ok []
  | (va, n) :: r =>
    match (if exec then codeFor s ctx cfg va else translateFor s ctx cfg { need := .r } va) with
    | .error _ => .error .defect
    | .ok (e, phys) =>
      let at' := if dup && leafD e then dupAddr phys else phys
      if poisonedAt s at' n then .error .uncorrectable
      else (loadPieces s ctx cfg exec dup r).map fun bs => memBytes s at' n ++ bs

/-- Where a load reads: the context and identity of the baton, the container's address and whether the duplicates are read. -/
structure LoadSource where
  ctx : Nat
  cfg : BitVec 8
  base : Nat
  dup : Bool

/-- n bytes at an offset of the container. -/
def loadBytes (s : State) (l : LoadSource) (exec : Bool) (off n : Nat) : Except LoadError (List Byte) :=
  loadPieces s l.ctx l.cfg exec l.dup (piecesOf (l.base + off) n)

/-- n bytes of a byte string from an offset, as a number. -/
def leAt (bs : List Byte) (off n : Nat) : Nat := ofBytes ((bs.drop off).take n)

/-- A test that a load makes. -/
def ensure (p : Bool) : Except LoadError Unit := if p then .ok () else .error .defect

/-! ### The headers (R70 to R72) -/

/-- The 64 bytes of a leg header (R72). -/
abbrev LegHeader := List Byte

/-- Lane count of a header. -/
def hLanes (h : LegHeader) : Nat := leAt h 0x04 1
/-- Configuration identity of a header. -/
def hCfg (h : LegHeader) : BitVec 8 := BitVec.ofNat 8 (leAt h 0x05 1)
/-- Hurdle scope of a header. -/
def hScope (h : LegHeader) : Nat := leAt h 0x06 1 / 4 % 4
/-- The magic, the reserved fields and configuration 0 of a header, as R32 checks them. -/
def headerOk (h : LegHeader) : Bool :=
  leAt h 0x00 4 == 0x3147454C && decide (leAt h 0x06 1 < 16) && decide (leAt h 0x07 1 < 16) &&
  leAt h 0x07 1 % 2 == 1 && leAt h 0x18 40 == 0

/-- What a header and a port table say of the leg. -/
def legFacts (h : LegHeader) (ports : List PortEntry) : LegFacts :=
  { laps := bitAt (leAt h 0x06 1) 0, sig := bitAt (leAt h 0x06 1) 1, scope := hScope h,
    configs := BitVec.ofNat 4 (leAt h 0x07 1), ports := ports }

/-- A section of a container (R71). -/
structure Section where
  type : Nat
  config : Nat
  leg : Nat
  offset : Nat
  size : Nat
  deriving DecidableEq, Repr

/-- A section table entry; none where its type is none of R71's or the section leaves the container. Reserved areas are ignored (R7). -/
def sectionOf (total : Nat) (bs : List Byte) : Option Section :=
  let t := leAt bs 0 2
  let x : Section := { type := t, config := leAt bs 2 2 % 4, leg := leAt bs 4 4, offset := leAt bs 8 8, size := leAt bs 16 8 }
  if ((1 ≤ t ∧ t ≤ 10) ∨ t = 15) ∧ x.offset + x.size ≤ total then some x else none

/-- The entries of a section table. -/
def sectionsOf (total : Nat) (bs : List Byte) (n : Nat) : Option (List Section) :=
  (List.range n).mapM fun i => sectionOf total ((bs.drop (32 * i)).take 32)

/-- Exactly one signature block, last in the container and where the header says (R71). -/
def oneSignature (ss : List Section) (sigblk : Nat) : Bool :=
  match ss.filter fun x => x.type == 15 with
  | [x] => x.offset == sigblk && ss.all fun y => y == x || decide (y.offset + y.size ≤ x.offset)
  | _ => false

/-- The container header, and its sections (R70, R71). -/
def loadContainer (s : State) (l : LoadSource) : Except LoadError (List Byte × List Section) := do
  let h ← loadBytes s l false 0 64
  ensure (leAt h 0 4 == 0x31584249 && leAt h 4 2 == 1)
  let n := leAt h 6 2
  let t ← loadBytes s l false (leAt h 0x10 8) (32 * n)
  match sectionsOf (leAt h 8 8) t n with
  | none => .error .defect
  | some ss =>
    ensure (oneSignature ss (leAt h 0x18 8) && decide (leAt h 0x10 8 + 32 * n ≤ leAt h 8 8))
    .ok (h, ss)

/-! ### The signatures (R75) -/

/-- The block's digest and signatures hold for a digest, under the key pair registered for the context. -/
def signatureOk (keys : Option (Nat × Nat)) (digest : BitVec 384) (b : List Byte) : Bool :=
  let part (o n : Nat) := (b.drop o).take n
  leAt b 0 4 == 0x31474953 && leAt b 8 48 == digest.toNat &&
  Config.ed25519Verify (part 0x38 32) (part 0x58 64) digest && Config.mlDsa65Verify (part 0x98 1952) (part 0x838 3309) digest &&
  keys == some ((Config.sha384 (part 0x38 32)).toNat, (Config.sha384 (part 0x98 1952)).toNat)

/-- The container's digest, when it is to be checked: it is checked once per context. -/
def checkSignature (s : State) (l : LoadSource) (h : List Byte) : Except LoadError (Option (BitVec 384)) := do
  let x := contextOf s l.ctx
  if x.checked.any fun e => e.1 == l.base then .ok none
  else
    let sigblk := leAt h 0x18 8
    let all ← loadBytes s l false 0 sigblk
    let b ← loadBytes s l false sigblk 5413
    ensure (signatureOk x.keys (Config.sha384 all) b)
    .ok (some (Config.sha384 all))

/-! ### The images (R63, R73) -/

/-- A record of an image section: first member, count, words. -/
structure ImageRecord where
  first : Nat
  count : Nat
  words : List Nat
  deriving DecidableEq, Repr

/-- Cut a byte string into words of k bytes. -/
def wordsOf (k n : Nat) (bs : List Byte) : List Nat := (List.range n).map fun i => leAt bs (k * i) k

/-- The records of an image section of words of k bytes; none where one is not whole, names a member that the gang lacks, or
holds more words than an instruction memory. -/
def recordsOf (k members most : Nat) (bs : List Byte) (fuel : Nat) : Option (List ImageRecord) :=
  match fuel with
  | 0 => none
  | fuel + 1 =>
    if bs.isEmpty then some []
    else
      let n := leAt bs 4 4
      let r : ImageRecord := { first := leAt bs 0 2, count := leAt bs 2 2, words := wordsOf k n (bs.drop 8) }
      if bs.length < 8 + k * n ∨ most < n ∨ members < r.first + r.count then none
      else (recordsOf k members most (bs.drop (8 + k * n)) fuel).map fun rs => r :: rs

/-- The directions of the links that a switch word uses on a plane (b: SN-B). -/
def linksOn (b : Bool) (i : Instr) : List Nat :=
  let ofRoutes (r : Routes) : List Nat :=
    ((routeSources r b).filter (· ≤ 4)).map (· - 1) ++ (List.range 4).filter fun o => (outCodes r b).getD o 0 != 0
  match i with
  | .route r | .sj r _ _ _ | .sloop r _ _ | .sdbnz r _ _ | .scurSwitch r _ _ | .stok r _ | .swaith r | .shalt r => ofRoutes r
  | .smov r _ src => ofRoutes r ++ if !b && src.toNat ≤ 4 then [src.toNat - 1] else []
  | _ => []

/-- The directions of the links that a switch word uses. -/
def linksUsed (i : Instr) : List Nat := linksOn false i ++ linksOn true i

/-- The edge-port select of a switch word. -/
def edgeSelect (w : SwWord) : Nat := (swRoutes w).edge.toNat

/-- The port table binds a plane of an edge port of a column behind a select. -/
def edgeBound (ps : List PortEntry) (south : Bool) (column select : Nat) (b : Bool) : Bool :=
  ps.any fun p => p.south == south && p.column == column && p.select == select && (if b then p.planeB else p.planeA)

/-- Every edge link that a word of the tile at this column and row uses is bound on its plane (R121). -/
def edgesBound (ps : List PortEntry) (col row select : Nat) (i : Instr) : Bool :=
  [false, true].all fun b =>
    !((linksOn b i).contains 0 && row == 0 && !edgeBound ps false col select b) &&
    !((linksOn b i).contains 2 && row == 31 && !edgeBound ps true col select b)

/-- A switch word may be loaded into the tile with this index of a gang of W lanes (R24, R63, R121). -/
def switchWordOk (ps : List PortEntry) (lanes tile : Nat) (w : SwWord) : Bool :=
  match decodeSwitch w with
  | .error _ => false
  | .ok i =>
    let col := 2 * (tile / 64) + tile % 64 / 32
    let row := tile % 32
    (edgeSelect w == 0 || row == 0 || row == 31) && edgesBound ps col row (edgeSelect w) i &&
    !((linksUsed i).contains 3 && col == 0) && !((linksUsed i).contains 1 && col + 1 == 2 * lanes)

/-- The images of one configuration of a leg. -/
structure LegImage where
  cores : List ImageRecord
  switches : List ImageRecord
  mems : List ImageRecord
  facts : LegFacts
  deriving DecidableEq, Repr

/-- The records of every section of a type for a leg and configuration. -/
def loadRecords (s : State) (l : LoadSource) (ss : List Section) (type leg config k members most : Nat) :
    Except LoadError (List ImageRecord) :=
  match ss with
  | [] => .ok []
  | x :: r =>
    if x.type == type && x.leg == leg && x.config == config then do
      let bs ← loadBytes s l true x.offset x.size
      match recordsOf k members most bs (x.size + 1) with
      | none => .error .defect
      | some rs =>
        let rest ← loadRecords s l r type leg config k members most
        .ok (rs ++ rest)
    else loadRecords s l r type leg config k members most

/-- A port-table entry of 8 bytes; none for a field outside its range (R74). -/
def portOf (lanes : Nat) (bs : List Byte) : Option PortEntry :=
  let planes := leAt bs 3 1
  if leAt bs 0 1 ≤ 1 ∧ leAt bs 1 1 < 2 * lanes ∧ leAt bs 2 1 < 3 then
    some { south := leAt bs 0 1 == 1, column := leAt bs 1 1, select := leAt bs 2 1, planeA := bitAt planes 0,
           planeB := bitAt planes 1, stream := leAt bs 4 2 }
  else none

/-- The port table of a leg. -/
def loadPorts (s : State) (l : LoadSource) (ss : List Section) (leg lanes : Nat) : Except LoadError (List PortEntry) :=
  match ss with
  | [] => .ok []
  | x :: r =>
    if x.type == 5 && x.leg == leg then do
      let bs ← loadBytes s l false x.offset x.size
      ensure (x.size % 8 == 0)
      match (List.range (x.size / 8)).mapM fun i => portOf lanes ((bs.drop (8 * i)).take 8) with
      | none => .error .defect
      | some ps =>
        let rest ← loadPorts s l r leg lanes
        .ok (ps ++ rest)
    else loadPorts s l r leg lanes

/-- Two entries name one port. -/
def samePort (a b : PortEntry) : Bool := a.south == b.south && a.column == b.column && a.select == b.select

/-- No port is named twice. -/
def portsDistinct (ps : List PortEntry) : Bool :=
  match ps with
  | [] => true
  | p :: r => !r.any (samePort p) && portsDistinct r

/-- Every switch word of the records may stand in its tiles. -/
def switchesOk (ps : List PortEntry) (lanes : Nat) (rs : List ImageRecord) : Bool :=
  rs.all fun r => (List.range r.count).all fun i => r.words.all fun w => switchWordOk ps lanes (r.first + i) (BitVec.ofNat 64 w)

/-- What a load gives: the images, and the container's digest when it has been checked now. -/
structure Loaded where
  image : LegImage
  container : Nat
  digest : Option (BitVec 384)

/-- Load configuration config of the leg whose header stands at a virtual address (R70 to R76, R256). -/
def loadLeg (s : State) (ctx : Nat) (cfg : BitVec 8) (va config : Nat) (dup : Bool) : Except LoadError Loaded := do
  let h ← loadPieces s ctx cfg true dup (piecesOf va 64)
  let base := leAt h 0x10 8
  let lanes := hLanes h
  ensure (headerOk h && decide (hScope h ≤ 2) && decide (base ≤ va) && hCfg h == cfg && bitAt (leAt h 0x07 1) config &&
    (!(contextOf s ctx).laps || bitAt (leAt h 0x06 1) 0))
  let l : LoadSource := { ctx := ctx, cfg := cfg, base := va - base, dup := dup }
  let (ch, ss) ← loadContainer s l
  let digest ← checkSignature s l ch
  let leg := leAt h 0x0C 4
  ensure (ss.any fun x => x.type == 1 && x.leg == leg && x.offset == base && x.offset % 4096 == 0)
  let cores ← loadRecords s l ss 2 leg config 4 (64 * lanes) 4096
  let switches ← loadRecords s l ss 3 leg config 8 (64 * lanes) 1024
  let mems ← loadRecords s l ss 4 leg config 4 (12 * lanes) 4096
  let ports ← loadPorts s l ss leg lanes
  ensure (switchesOk ports lanes switches && portsDistinct ports)
  .ok { image := { cores := cores, switches := switches, mems := mems, facts := legFacts h ports }, container := va - base,
        digest := digest }

/-! ### Writing a slot (R73, R226) -/

/-- The words that records give a member; none for a member that no record covers. -/
def wordsFor (rs : List ImageRecord) (m : Nat) : Option (List Nat) :=
  (rs.findSome? fun r => if r.first ≤ m ∧ m < r.first + r.count then some r.words else none)

/-- FINISH as a word: what a core without an image is loaded with (R73). -/
def finishWord : IWord := 0x01000020#32
/-- SHALT as a word. -/
def shaltWord : SwWord := 0x0000200000000000#64

/-- A core's instruction memory with a slot written. -/
def writeCode (code : Tbl IWord) (slot : Nat) (ws : Option (List Nat)) : Tbl IWord :=
  tsetList (code.filter fun e => e.1 / 4096 != slot) 0#32 (slot * 4096)
    (match ws with
     | some l => l.map (BitVec.ofNat 32)
     | none => [finishWord])

/-- A switch's instruction memory with a slot written. An unlisted word reads as SHALT. -/
def writeSwcode (code : Tbl SwWord) (slot : Nat) (ws : Option (List Nat)) : Tbl SwWord :=
  tsetList (code.filter fun e => e.1 / 1024 != slot) shaltWord (slot * 1024)
    (match ws with
     | some l => l.map (BitVec.ofNat 64)
     | none => [])

/-- The error does not lie in a word of a slot, which is written anew. -/
def notInSlot (slot : Nat) (m : ErrorMark) : Bool :=
  match m with
  | .code k => k / 4096 != slot
  | .swcode k => k / 1024 != slot
  | _ => true

/-- A member with a slot of its core and switch written. -/
def writeSlot (img : LegImage) (first : Nat) (a : Agent) (slot : Nat) (c : Core) : Core :=
  let m := memberOf first a
  match a with
  | .mem _ => { c with code := writeCode c.code slot (wordsFor img.mems (m - 0x800)), marks := c.marks.filter (notInSlot slot) }
  | _ => { c with
    code := writeCode c.code slot (wordsFor img.cores m), swcode := writeSwcode c.swcode slot (wordsFor img.switches m),
    marks := c.marks.filter (notInSlot slot) }

/-- The key of a member's slot in the Starter's tables (R226). -/
def slotKey (a : Agent) (slot : Nat) : Nat := agentCode a * 4 + slot

/-- A member's slot carries the tag of an image. -/
def tagged (s : State) (image ctx config : Nat) (a : Agent) (slot : Nat) : Bool :=
  match tfind s.starter.slotTags (slotKey a slot) with
  | some t => t.image == image && t.ctx == ctx && t.cfg == config
  | none => false

/-- The slot in which an image is resident for every member of W lanes from f; none where there is no such slot (R226). -/
def residentSlot (s : State) (image ctx config f w : Nat) : Option Nat :=
  (List.range 4).find? fun i => (laneAgents f w).all fun a => tagged s image ctx config a i

/-- The latest launch into a slot among the members, 0 for none (R226). -/
def latestLaunch (s : State) (f w slot : Nat) : Nat :=
  (laneAgents f w).foldl (fun n a => Nat.max n (tget s.starter.launches 0 (slotKey a slot))) 0

/-- The slot whose latest launch is the oldest, the lowest of equals (R226). -/
def oldestSlot (s : State) (f w : Nat) : Nat :=
  (List.range 4).foldl (fun best i => if latestLaunch s f w i < latestLaunch s f w best then i else best) 0

/-- The slot a load goes to (R72, R226). -/
def targetSlot (s : State) (configs : BitVec 4) (config f w : Nat) : Nat :=
  if configs = 1#4 then oldestSlot s f w else config

/-- Tag a slot of every member, or clear its tags (R226, R227). -/
def setTags (s : State) (f w slot : Nat) (t : Option SlotTag) : State :=
  let put (m : Tbl SlotTag) (a : Agent) : Tbl SlotTag :=
    match t with
    | some x => tput m (slotKey a slot) x
    | none => tdel m (slotKey a slot)
  { s with starter := { s.starter with slotTags := (laneAgents f w).foldl put s.starter.slotTags } }

/-- A loaded image is written into a slot of every member, its tags are set, and a container checked now is noted. -/
def writeImage (s : State) (ctx image config f w slot : Nat) (l : Loaded) : State :=
  let s1 := (laneAgents f w).foldl (fun t a => setCore t a (writeSlot l.image f a slot (coreOf t a))) s
  let s2 := setTags s1 f w slot (some { image := image, ctx := ctx, cfg := config, leg := l.image.facts })
  match l.digest with
  | some d => setContext s2 ctx { contextOf s2 ctx with checked := (contextOf s2 ctx).checked ++ [(l.container, d)] }
  | none => s2

/-- The image page keeps a duplicate (R227). -/
def imageDuplicated (s : State) (ctx va : Nat) : Bool :=
  match pageFor (contextOf s ctx).pages va with
  | some e => leafV e && leafD e
  | none => false

/-- What an attempt at a load comes to (R227). -/
inductive LoadEnd where
  /-- The image stands in the slot of every member. -/
  | committed (s : State)
  /-- The commit is refused, and the load is retried from the duplicate. -/
  | retried (s : State)
  /-- The load has failed. -/
  | failed (s : State)

/-- An attempt to load configuration config of a gang's leg into a slot of the members on its lanes: clean says that every member has
written its part without an error. A refused commit clears the slot's tags; an uncorrectable error or a failed write is retried once
from a duplicate (R227). -/
def loadInto (s : State) (serial : Nat) (g : Gang) (config slot : Nat) (clean : Bool) : LoadEnd :=
  let refused := setTags s g.first g.lanes slot none
  let again : LoadEnd :=
    if !g.retried && imageDuplicated s g.ctx (bImage g.bytes) then .retried (setGang refused serial { g with retried := true })
    else .failed refused
  match loadLeg s g.ctx g.cfg (bImage g.bytes) config g.retried with
  | .error .defect => .failed refused
  | .error .uncorrectable => again
  | .ok l => if clean then .committed (writeImage s g.ctx (bImage g.bytes) config g.first g.lanes slot l) else again

end Sys2Proof.Machine
end

