-- ==== Sys2Proof/Machine/Place.lean ====
section
/-! DEFINITION. Placing an instance, loading its leg, launching its gang (R34 to R37, R147, R192, R226, R227, R243, R247). -/

namespace Sys2Proof.Machine

/-! ### Caches at a change of gang (R192, R242) -/

/-- A sector write-back of a unit fails: a deferred report to the core, for the context that it works for, otherwise one of the line's
context (R192, R218). -/
def loseSector (s : State) (code ctx va : Nat) : State :=
  let a := agentOf code
  let c := coreOf s a
  if ctxOf s c == some ctx then setCore s a { c with lost := c.lost ++ [BitVec.ofNat 64 va] } else lapTrigger s ctx .remoteLost

/-- The dirty sectors of a line are performed at their homes, behind what the core has posted to them (R193, R218). -/
def flushSectors (s : State) (code : Nat) (l : Line) : State :=
  (List.range 4).foldl (fun t i =>
    if sectorDirty l i = 0#32 then t
    else if leafLost t l.leaf then loseSector t code l.ctx (l.va + 32 * i)
    else
      let sec := l.phys + 32 * i
      writeSector (performOlder t code sec 32) l.ctx code l.leaf sec (sectorDirty l i) (l.data.extractLsb' (256 * i) 256)) s

/-- Every dirty sector of a member goes home, and its cache is invalidated. -/
def flushCache (s : State) (a : Agent) : State :=
  let s1 := (coreOf s a).lines.foldl (fun t e => flushSectors t (agentCode a) e.2) s
  setCore s1 a (invalidateAll (coreOf s1 a))

/-- A core that has worked for another context, or for one since created anew, is rid of its TLB entries (R209). -/
def passTlb (ctx : Nat) (c : Core) : Core := if c.lastCtx = some ctx then c else { c with tlb := [] }

/-- A core passes to a gang of a context: unless it has worked for that context last, its sectors go home and its cache is
invalidated (R192), and so is its TLB (R209). -/
def passTile (s : State) (ctx : Nat) (a : Agent) : State :=
  let s1 := if (coreOf s a).lastCtx = some ctx then s else flushCache s a
  setCore s1 a (passTlb ctx (coreOf s1 a))

/-! ### Launch (R36, R37) -/

/-- A member right after launch: x2 holds args, everything else of its gang's state is zero or empty; what belongs to the place
itself stays: scratch, caches, instruction memories, lease_run and err_inject. -/
def launchCore (serial ctx args slot : Nat) (laps : Bool) (k : CoreKind) (c : Core) : Core :=
  let own := c.logCtx == some ctx
  let new : Core :=
    { mode := .running, gang := some serial, x := (Vector.replicate 32 (0 : Word)).setIfInBounds 2 (BitVec.ofNat 64 args),
      slot := BitVec.ofNat 2 slot, gen := c.gen, leaseRun := c.leaseRun, errInject := c.errInject, tlb := c.tlb, lines := c.lines,
      plru := c.plru, scratch := c.scratch, logged := if own then c.logged else [], undoFill := if own then c.undoFill else 0,
      logCtx := if laps then some ctx else none, code := c.code, swcode := c.swcode, swHalted := k != .tile, lastCtx := some ctx,
      marks := c.marks.filter fun m => m.inCode || m.inScratch }
  if k == .tile then genAdvance new else new

/-- A launch into a slot of every member counts (R226). -/
def countLaunch (s : State) (f w slot : Nat) : State :=
  let n := s.starter.launchCount + 1
  { s with starter := { s.starter with
      launchCount := n, launches := (laneAgents f w).foldl (fun m a => tput m (slotKey a slot) n) s.starter.launches } }

/-- The quads of W lanes as at launch (R147). -/
def launchQuads (s : State) (f w : Nat) : State :=
  { s with quads := (laneQuads f w).foldl (fun m q => tput m q {}) s.quads }

/-- Every member of a gang starts at word 0 of a slot in one tc (R36); what has come for it meanwhile is delivered (R250). -/
def launchGang (s : State) (serial slot : Nat) (facts : LegFacts) : State :=
  match tfind s.gangs serial with
  | none => s
  | some g =>
    let laps := (contextOf s g.ctx).laps
    let s1 := (laneAgents g.first g.lanes).foldl (fun t a =>
      setCore t a (launchCore serial g.ctx (bArgs g.bytes) slot laps (agentKind a) (coreOf t a))) s
    deliverCaptured (setGang (countLaunch (launchQuads s1 g.first g.lanes) g.first g.lanes slot) serial
      { g with state := .running, slot := BitVec.ofNat 2 slot, laps := facts.laps, sig := facts.sig, scope := facts.scope,
               configs := facts.configs, ports := facts.ports, retried := false }) g.ctx serial

/-! ### Placement (R34, R243) -/

/-- The first lane that an instance of a baton takes: its fixed place, or the lowest free run (R34). -/
def laneChoice (s : State) (b : Baton) : Option Nat :=
  let w := bLanes b.bytes
  if bPlace b.bytes = 0xFF then lowestRun s w
  else if runFree s (bPlace b.bytes) w then some (bPlace b.bytes) else none

/-- The serial after a serial: 24 bits, never 0. -/
def serialAfter (n : Nat) : Nat := if n + 1 < 2 ^ 24 then n + 1 else 1

/-- The runner's slot at its placement (R278). -/
def markRunner (s : State) (r : Option (Nat × Nat)) (serial : Nat) : State :=
  match r with
  | some (rec, i) =>
    if (tfind s.heats rec).isSome && rstat s rec i == 0 then
      slotWrite (slotWrite s rec (starterCode s) i 8 1 1) rec (starterCode s) i 0xC 3 serial
    else s
  | none => s

/-- The gang of the next instance of baton n. -/
def newGang (s : State) (n : Nat) (b : Baton) (f off : Nat) : Gang :=
  let x := contextOf s b.ctx
  { baton := n, bytes := b.bytes, inst := b.placed, first := f, lanes := bLanes b.bytes, ctx := b.ctx, cfg := bCfg b.bytes,
    runner := (b.runner.map (·.2)).getD 0, heat := b.runner.map (·.1), saveBlock := saveAddr s x off, lap := x.lapId.toNat }

/-- The next instance of baton n takes lanes from f and the save block at off: its gang record is written, its tiles pass to it,
and it starts at once when its image is resident; otherwise its load begins (R34, R36, R192, R227, R247). -/
def claim (s : State) (n : Nat) (b : Baton) (f off : Nat) : State :=
  let serial := s.starter.nextSerial
  let w := bLanes b.bytes
  let g := newGang s n b f off
  let x := contextOf s b.ctx
  let s1 := setContext s b.ctx { x with blocks := x.blocks ++ [(off, blockSize w)] }
  let s2 := putRecord (setGang s1 serial g) g.saveBlock 0x10000 (gangFields serial g)
  let s3 := setBaton { s2 with starter := { s2.starter with nextSerial := serialAfter serial } } n
    { b with placed := b.placed + 1, members := b.members ++ (laneAgents f w).map agentCode }
  let s4 := journal s3 3 0 b.queue b.ident.toNat (b.placed % 2 ^ 32 + f * 2 ^ 32)
  let s5 := markRunner ((laneAgents f w).foldl (fun t a => passTile t b.ctx a) s4) b.runner serial
  match residentSlot s5 (bImage b.bytes) b.ctx 0 f w with
  | some slot =>
    match tfind s5.starter.slotTags (slotKey (.tile (64 * f)) slot) with
    | some t => launchGang s5 serial slot t.leg
    | none => s5
  | none => s5

/-- Place the next instance of baton n; none when it finds no lanes or no save block (R34, R224, R243). -/
def placeInstance (s : State) (n : Nat) : Option State :=
  match batonOf s n with
  | none => none
  | some b =>
    match laneChoice s b, findBlock (contextOf s b.ctx) (blockSize (bLanes b.bytes)) with
    | some f, some off => some (claim s n b f off)
    | _, _ => none

/-- A queue's head baton has been dealt with: the queue advances to its next baton (R32, R34). -/
def advanceQueue (s : State) (n q : Nat) : State :=
  let r := queueOf s q
  if r.current = some n then markQueue (setQueue s q { r with current := none }) q else s

/-- Every instance of baton n has been placed: its queue advances. -/
def placedAll (s : State) (n : Nat) : State :=
  match batonOf s n with
  | some b =>
    if bCount b.bytes ≤ b.placed then advanceQueue (setBaton s n { b with stage := .placed }) n b.queue else s
  | none => s

/-! ### A load and its end (R227) -/

/-- The load of a gang has failed: its lanes are freed, a record is written, no further instance follows, and the queue
advances; a runner's slot settles as cancelled. -/
def loadFailed (s : State) (serial : Nat) (g : Gang) : State :=
  match batonOf s g.baton with
  | none => s
  | some b =>
    let s1 := freeBlock { settleGang s serial g (starterCode s) 4 with gangs := tdel s.gangs serial } g.ctx g.saveBlock
    let s2 := setBaton s1 g.baton { b with placed := b.placed - 1, failed := true, stage := .placed }
    let s4 := addRecord s2 g.ctx (mkRecord 4 Cause.loadFail.code g.ctx g.inst b.ident 0)
    endBaton (advanceQueue s4 g.baton b.queue) g.baton

/-- What the tag of a slot says of the leg in it. -/
def factsAt (s : State) (g : Gang) (slot : Nat) : LegFacts :=
  match tfind s.starter.slotTags (slotKey (.tile (64 * g.first)) slot) with
  | some t => t.leg
  | none => { laps := g.laps, sig := g.sig, scope := g.scope, configs := g.configs, ports := g.ports }

/-- The journal entry of a load commit (R234). -/
def journalCommit (s : State) (g : Gang) : State :=
  journal s 4 0 ((batonOf s g.baton).map (·.queue) |>.getD 0) ((batonOf s g.baton).map (·.ident.toNat) |>.getD 0) g.inst

/-- The slot that the load of a gang goes to, by its leg header as it can be read (R72, R226). -/
def loadSlot (s : State) (g : Gang) : Nat :=
  match loadPieces s g.ctx g.cfg true g.retried (piecesOf (bImage g.bytes) 64) with
  | .ok h => targetSlot s (BitVec.ofNat 4 (leAt h 0x07 1)) 0 g.first g.lanes
  | .error _ => oldestSlot s g.first g.lanes

/-- An attempt to load a placed gang's leg: with its commit the gang starts (R36, R227). -/
def loadPlaced (s : State) (serial : Nat) (g : Gang) (clean : Bool) : State :=
  let slot := loadSlot s g
  match loadInto s serial g 0 slot clean with
  | .committed s1 => launchGang (journalCommit s1 g) serial slot (factsAt s1 g slot)
  | .retried s1 => s1
  | .failed s1 => loadFailed s1 serial g

end Sys2Proof.Machine
end

