-- ==== Sys2Proof/Machine/Save.lean ====
section
/-! DEFINITION. Pre-emption, restore and retirement of a gang (R44, R45, R162, R164, R242 to R248, R254, R280, R285, R362, R434). -/

namespace Sys2Proof.Machine

/-! ### Requests at homes (R434) -/

/-- A member's node leaves the queue of an object (R253, R434). -/
def unlinkWaiter (s : State) (serial m obj : Nat) : State :=
  match tfind s.gangs serial with
  | none => s
  | some g =>
    match pageOfPhys s g.ctx obj with
    | none => s
    | some (e, va) =>
      unlinkNode s g.ctx (agentCode (memberAgent g.first m)) e va obj 0 (memRead s (obj + 0x10) 8) (nodeAt g m) 0x10000

/-- A DSEND of a core that has not been accepted leaves the network; so does the answer that it has been refused. -/
def withdrawSend (s : State) (code : Nat) : State :=
  { s with net := s.net.filter fun p => !(p.src == code && match p.kind with
      | .message _ _ | .reply _ _ => true
      | _ => false) }

/-- The requests of a member leave the homes and the network: ACQ, WAITQ, HWAIT, a DSEND that has not been accepted. -/
def withdrawRequest (s : State) (serial m : Nat) (w : Wait) : State :=
  let who : Waiter := { serial := serial, member := m }
  match w with
  | .acq _ => { s with acqQ := s.acqQ.filter fun r => r.who != who }
  | .waitq obj => unlinkWaiter s serial m obj
  | .hwait _ => { s with heatWaiters := s.heatWaiters.filter fun e => e.1 != who }
  | .dsend => withdrawSend s (memberCode s serial m)
  | _ => s

/-- A core that waits for the acceptance of a DSEND is taken back to before it. -/
def withdrawDsend (s : State) (serial : Nat) (g : Gang) (a : Agent) : State :=
  let c := coreOf s a
  if c.blocked && c.wait == .dsend then setCore (withdrawRequest s serial (memberNumber g a) .dsend) a (unissued c) else s

/-! ### Stopping and draining (R242 steps 1 and 2) -/

/-- Agent numbers of the members of a gang. -/
def gangCodes (g : Gang) : List Nat := (laneAgents g.first g.lanes).map agentCode

/-- HFORK past its home step, at a core whose gang is pre-empted: it completes, and the Starter goes on with the runners that are left
(R365). -/
def completeFork (s : State) (g : Gang) (a : Agent) : State :=
  let c := coreOf s a
  match c.wait, c.replies, decode (wordAt c c.pc) with
  | .fork, .ok h :: .ok i :: .ok rec :: _, .ok (.hfork d _) =>
    let f : Fork := { queue := queueOfGang s g, record := rec.toNat, handle := h.toNat, next := i.toNat }
    setCore { s with starter := { s.starter with forks := s.starter.forks ++ [f] } } a (retire (forkResult (agentKind a) c d h))
  | _, _, _ => s

/-- A gang stops: no member issues from now on. -/
def stopGang (s : State) (serial : Nat) (g : Gang) : State :=
  let s1 := (laneAgents g.first g.lanes).foldl (fun t a => completeFork (withdrawDsend t serial g a) g a) s
  setGang s1 serial { g with stopping := true }

/-- A packet keeps the members of a stopped gang from being saved: something that one sent, or an answer, a report or a message
on its way to one. -/
def holdsSave (s : State) (codes : List Nat) (p : Packet) : Bool :=
  match p.kind with
  | .reply dst _ | .fillReply dst _ _ _ _ | .refusal dst | .lost dst _ => codes.contains dst
  | .tlbFill m _ => codes.contains m.req && !streamMiss m && !m.dead
  | .miss _ m => codes.contains p.src && !streamMiss m && !m.dead
  | .incoming _ _ _ | .notice _ _ => false
  | .wake _ _ => false
  | .message dst _ =>
    codes.contains dst && decide ((coreOf s (agentOf dst)).recvq.length < queueRoom (agentKind (agentOf dst)))
  | _ => codes.contains p.src

/-- The core waits at a home and has not been answered. -/
def atHomeWait (c : Core) : Bool :=
  c.blocked && match c.wait with
    | .acq _ | .waitq _ | .hwait _ => true
    | _ => false

/-- CFLUSH waits for the homes. -/
def flushing (c : Core) : Bool :=
  match c.wait with
  | .flush _ => true
  | _ => false

/-- The core has an access or a step in progress, which completes before the gang is saved. -/
def inProgress (c : Core) : Bool :=
  !atHomeWait c && (c.blocked || !c.replies.isEmpty || flushing c || c.wait == .step || c.wait == .access || c.wait == .tlbMiss)

/-- Everything that the members of a stopped gang have in flight has landed. -/
def netDrained (s : State) (g : Gang) : Bool := !s.net.any (holdsSave s (gangCodes g))

/-- What the members of a stopped gang have in progress or in flight has come to its end. -/
def quietMembers (s : State) (g : Gang) : Bool :=
  netDrained s g && (laneAgents g.first g.lanes).all fun a => !inProgress (coreOf s a)

/-- A stopped gang can be saved. -/
def drained (s : State) (g : Gang) : Bool :=
  quietMembers s g && (laneQuads g.first g.lanes).all (blockQuiet s)

/-! ### Saving (R242 steps 3 to 5, R243 to R247) -/

/-- What a core keeps of its wait when it is saved: a hurdle arrival and a request at a home stay; every other instruction that
has not completed is issued again. -/
def parked (k : CoreKind) (c : Core) : Core :=
  let keep := atHomeWait c || match c.wait with
    | .hurdle _ _ => true
    | _ => false
  if keep then c else { atBoundary k c with wait := c.wait }

/-- A member as it stands in its image: what belongs to the place is left behind, but for the word of an instruction that an answer
from a home completes meanwhile. A switch that has performed SWAITH's routes keeps its wait (R124; log 165). -/
def savedCore (k : CoreKind) (c : Core) : Core :=
  { settleScalars k (parked k c) with
    tlb := [], lines := [], plru := [],
    code := if atHomeWait c then tset [] 0#32 (c.slot.toNat * 4096 + c.pc.toNat / 4) (wordAt c c.pc) else [],
    swcode := [], gang := none, landing := false,
    streams := c.streams.map fun e => (e.1, { e.2 with missing := false }) }

/-- What a core keeps when its gang leaves it. -/
def vacated (c : Core) : Core :=
  { gen := c.gen, leaseRun := c.leaseRun, errInject := c.errInject, tlb := c.tlb, lines := c.lines, plru := c.plru,
    lastCtx := c.lastCtx, scratch := c.scratch, code := c.code, swcode := c.swcode, marks := c.marks.filter fun m => m.inCode || m.inScratch }

/-- The image of a gang's members where they stand. -/
def imageOf (s : State) (g : Gang) : Image :=
  { cores := (membersOf g.lanes).map fun m =>
      (m, savedCore (agentKind (memberAgent g.first m)) (coreOf s (memberAgent g.first m))),
    quads := numbered ((laneQuads g.first g.lanes).map fun q => quadOf s q) }

/-- Misses of streams of the members are forgotten: a restored stream asks again (R212). -/
def forgetStreamMisses (s : State) (codes : List Nat) : State := buryMisses s fun m => streamMiss m && codes.contains m.req

/-- A gang's members leave their lanes. -/
def vacate (s : State) (g : Gang) : State :=
  (laneAgents g.first g.lanes).foldl (fun t a => setCore t a (vacated (coreOf t a))) s

/-- The gang is a runner of the heat that is open on its record (R282, R366). -/
def ownHeat (s : State) (g : Gang) : Option Nat :=
  g.heat.bind fun rec => if (tfind s.heats rec).any (fun h => h.handle == ownHandle g) then some rec else none

/-- The progress of a gang's collectives goes into its gang record: the spec gives no format of it, so its words are free values (R247,
R298). -/
def writeProgress (s : State) (serial : Nat) (g : Gang) : State :=
  if s.collectives.any fun x => x.gang == some serial then
    let fs : List Field := (List.range 128).map fun i => (0x0300 + 8 * i, 8, (Config.freeValue (s.fresh + i)).toNat)
    { putFields s g.saveBlock fs with fresh := s.fresh + 128 }
  else s

/-- The token that a notice brings a gang (R235). -/
def tokenFor (serial : Nat) (n : Notice) : Option (BitVec 2) :=
  match n.kind with
  | .token slot => if n.serial = serial then some slot else none
  | _ => none

/-- The tokens of a gang that wait in the notice FIFO are pending tokens of the gang, which its save takes along (R247, R348). -/
def claimTokens (s : State) (serial : Nat) (g : Gang) : State × Gang :=
  ({ s with starter := { s.starter with notices := s.starter.notices.filter fun n => (tokenFor serial n).isNone } },
   { g with tokens := g.tokens ++ s.starter.notices.filterMap (tokenFor serial) })

/-- Steps 3 to 5 of R242 for a gang that has drained. -/
def saveGang (s0 : State) (serial : Nat) (g0 : Gang) : State :=
  let g := (claimTokens s0 serial g0).2
  let s := (claimTokens s0 serial g0).1
  let s1 := (laneAgents g.first g.lanes).foldl (fun t a => flushCache t a) (forgetStreamMisses s (gangCodes g))
  let img := imageOf s1 g
  let n := s1.starter.saves + 1
  let g1 := { g with state := .saved, recorded := true, image := some img, stopping := false, atSeal := false, scanned := none, savedAt := n }
  let s2 := setGang { s1 with starter := { s1.starter with saves := n } } serial g1
  let s3 := match ownHeat s2 g1 with
    | some rec => writeRun s2 rec
    | none => s2
  launchQuads (vacate (writeProgress (writeSave s3 g1 img) serial g1) g) g.first g.lanes

/-- A gang whose load is not over is saved as it would start; its restore loads the image (R242, R248). -/
def saveLoading (s : State) (serial : Nat) (g : Gang) : State :=
  let laps := (contextOf s g.ctx).laps
  let s1 := (laneAgents g.first g.lanes).foldl (fun t a =>
    setCore t a (launchCore serial g.ctx (bArgs g.bytes) 0 laps (agentKind a) (coreOf t a))) (launchQuads s g.first g.lanes)
  saveGang s1 serial { g with unloaded := true }

/-- One attempt at a pre-emption: the gang stops, and is saved once it has drained. -/
def preemptGang (s : State) (serial : Nat) : State :=
  match tfind s.gangs serial with
  | none => s
  | some g =>
    match g.state with
    | .loading => saveLoading s serial g
    | .restoring => setGang s serial { g with state := .saved }
    | .running =>
      let s1 := if g.stopping then s else stopGang s serial g
      match tfind s1.gangs serial with
      | some h => if drained s1 h then saveGang s1 serial h else s1
      | none => s1
    | _ => s

/-- Two gangs are runners of one heat (R44, R366). -/
def sameHeat (a b : Gang) : Bool := a.heat.isSome && a.heat == b.heat && ownHandle a == ownHandle b

/-- The gangs of the other runners of a heat that stand on lanes: they are pre-empted with one of them (R44, R285). -/
def siblings (s : State) (serial : Nat) (g : Gang) : List Nat :=
  (s.gangs.filter fun e => e.1 != serial && sameHeat e.2 g && e.2.state != .saved && e.2.state != .finished).map (·.1)

/-- A gang is pre-empted, with the runners of its heat (R44). -/
def preemptGroup (s : State) (serial : Nat) : State :=
  match tfind s.gangs serial with
  | none => s
  | some g => (siblings s serial g).foldl preemptGang (preemptGang s serial)

/-- PREEMPT (R242). -/
def execPreempt (serial : Nat) (s : State) : Out := .next (preemptGroup s serial)

/-! ### Restore (R248) -/

/-- The configuration of its leg that a gang runs (R72). -/
def configOf (g : Gang) : Nat := if g.configs = 1#4 then 0 else g.slot.toNat

/-- A stream of a restored gang goes on at its recorded run, whose pages it translates again (R216, R248). -/
def resumedStream (st : Stream) : Stream := { st with fault := none, stalled := none, pages := [], dpages := [] }

/-- A member of a saved gang of a context on the core that takes it; a TLB with entries of another context is invalidated (R209). -/
def restoredCore (serial ctx : Nat) (saved place : Core) : Core :=
  { resumedCore saved with
    gang := some serial, errInject := place.errInject, leaseRun := place.leaseRun, tlb := (passTlb ctx place).tlb,
    lastCtx := some ctx, stirred := true, lines := place.lines, plru := place.plru, code := place.code, swcode := place.swcode,
    marks := saved.marks.filter (fun m => !m.inCode) ++ place.marks.filter ErrorMark.inCode,
    streams := saved.streams.map fun e => (e.1, resumedStream e.2) }

/-- A sealed gang's place follows the gang. -/
def moveSealed (x : Context) (serial f : Nat) : Context :=
  { x with current := x.current.map fun c => { c with gangs := c.gangs.map fun e =>
      if e.serial = serial then { e with gang := { e.gang with first := f } } else e } }

/-- The slot that a saved gang runs in on the lanes from f: the one that it ran in; for a gang saved before it had started the one in
which its image is resident, or the one that its load goes to (R226). -/
def restoreSlot (s : State) (g : Gang) (f : Nat) : Nat :=
  if g.unloaded then (residentSlot s (bImage g.bytes) g.ctx 0 f g.lanes).getD (loadSlot s { g with first := f, retried := false })
  else g.slot.toNat

/-- The leg of a gang on its lanes is in its slot of every member (R226). -/
def resident (s : State) (g : Gang) : Bool :=
  (laneAgents g.first g.lanes).all fun a => tagged s (bImage g.bytes) g.ctx (configOf g) a g.slot.toNat

/-- The cores that a restored gang runs on are those its baton's release covers as well (R38, R44). -/
def joinMembers (s : State) (g : Gang) : State :=
  match batonOf s g.baton with
  | some b => setBaton s g.baton { b with members := (b.members ++ gangCodes g).eraseDups }
  | none => s

/-- Where a member's record stands in the save block of its gang (R243). -/
def recordOf (g : Gang) (m : Nat) : Nat := g.saveBlock + (((memberPlaces g.lanes).find? fun e => e.1 == m).map (·.2.2)).getD 0

/-- A member of a saved gang as its restore writes it back: from its record, where it has one (R248). -/
def memberRecord (s : State) (g : Gang) (img : Image) (m : Nat) : Core :=
  let c := tget img.cores {} m
  let d := if g.recorded then recordedCore s (recordOf g m) (agentKind (memberAgent g.first m)) c else c
  if g.unloaded then { d with slot := g.slot } else d

/-- A quad of a saved gang as its restore writes it back. -/
def quadRecord (s : State) (g : Gang) (img : Image) (i : Nat) : Quad :=
  let q := tget img.quads {} i
  if g.recorded then recordedQuad s (g.saveBlock + quadPlace g.lanes i) q else q

/-- Reinstate a gang on the lanes that it has taken, its image being in place: its records are written back, every member is released,
and what has come for it meanwhile is delivered (R248, R250). -/
def reinstate (s : State) (serial : Nat) (g : Gang) (img : Image) : State :=
  let as := laneAgents g.first g.lanes
  let s1 := as.foldl flushCache s
  let s2 := as.foldl (fun t a =>
    setCore t a (restoredCore serial g.ctx (memberRecord s1 g img (memberOf g.first a)) (coreOf t a))) s1
  let s3 := { s2 with
    quads := ((numbered (laneQuads g.first g.lanes)).foldl (fun m e => tput m e.2 (quadRecord s1 g img e.1)) s2.quads) }
  let s4 := if g.unloaded then countLaunch s3 g.first g.lanes g.slot.toNat else s3
  let x := factsAt s4 g g.slot.toNat
  let h : Gang := { g with state := .running, recorded := false, image := none, resume := false, unloaded := false, retried := false,
                           laps := x.laps, sig := x.sig, scope := x.scope, configs := x.configs, ports := x.ports }
  joinMembers (deliverCaptured
    (setGang (setContext s4 g.ctx (moveSealed (contextOf s4 g.ctx) serial g.first)) serial h) g.ctx serial) h

/-- A restore on the lanes from f: with its leg in place the gang is reinstated at once, otherwise it keeps the lanes while the image is
loaded (R226, R227, R248). -/
def restoreGang (s : State) (serial : Nat) (g : Gang) (f : Nat) : State :=
  let h : Gang := { g with first := f, slot := BitVec.ofNat 2 (restoreSlot s g f), retried := false }
  match g.image with
  | some img => if resident s h then reinstate s serial h img else setGang s serial { h with state := .restoring }
  | none => s

/-- An attempt at the load of a restore; where it fails the gang stays saved and a record is written (R227, R248). -/
def loadRestored (s : State) (serial : Nat) (g : Gang) (clean : Bool) : State :=
  match loadInto s serial g (configOf g) g.slot.toNat clean, g.image with
  | .committed s1, some img => reinstate (journalCommit s1 g) serial g img
  | .retried s1, _ => s1
  | .failed s1, _ | .committed s1, none =>
    let ident := ((batonOf s1 g.baton).map (·.ident)).getD 0
    addRecord (setGang s1 serial { g with state := .saved, resume := false }) g.ctx
      (mkRecord 4 Cause.loadFail.code g.ctx g.inst ident 0)

/-- Another runner of the gang's heat is still being pre-empted: the runners resume together (R44). -/
def groupStopping (s : State) (serial : Nat) (g : Gang) : Bool :=
  s.gangs.any fun e => e.1 != serial && sameHeat e.2 g && e.2.stopping && !e.2.cancelled

/-- A saved gang waits for lanes, and may have them. -/
def wantsLanes (s : State) (serial : Nat) (g : Gang) : Bool :=
  g.state == .saved && g.resume && contextRuns s g.ctx && !groupStopping s serial g

/-- A saved gang that waits for lanes gets the lowest free run, when there is one (R44, R248). -/
def tryRestore (s : State) (serial : Nat) : State :=
  match tfind s.gangs serial with
  | some g =>
    if wantsLanes s serial g then
      match lowestRun s g.lanes with
      | some f => restoreGang s serial g f
      | none => s
    else s
  | none => s

/-- Effective priority of what waits with a priority since a time (R46, R224). -/
def effPrio (s : State) (since prio : Nat) : Nat := Nat.min 3 (prio + (s.trackTime.toNat - since) / 2000000)

/-- How a gang waits for lanes once it is asked to wait with a priority, none for a pressing head: a runner presses at once, and a gang
that waits already is never lowered (R46, R254, R285). -/
def waitAs (s : State) (g : Gang) (prio : Option Nat) : Nat × Option Nat :=
  let now := (s.trackTime.toNat, if g.heat.isSome then none else prio)
  if !g.resume then now
  else
    match g.waitPrio, now.2 with
    | none, _ => (g.since, none)
    | some _, none => now
    | some k, some p => if p ≤ effPrio s g.since k then (g.since, some k) else now

/-- A gang that is saved, or about to be, waits for lanes from now on: with a priority as a head of that priority, otherwise as a
pressing head (R233, R254, R285). -/
def wantLanes (s : State) (serial : Nat) (prio : Option Nat) : State :=
  match tfind s.gangs serial with
  | some g => setGang s serial { g with resume := true, since := (waitAs s g prio).1, waitPrio := (waitAs s g prio).2 }
  | none => s

/-! ### The order in which saved gangs resume (R233, R285) -/

/-- When the first runner of a gang's heat was pre-empted; the gang itself, when it is no runner. -/
def groupSaved (gs : List (Nat × Gang)) (g : Gang) : Nat :=
  (gs.filter fun e => sameHeat e.2 g).foldl (fun n e => Nat.min n e.2.savedAt) g.savedAt

/-- A gang resumes before another: in the order of pre-emption, the runners of one heat together in increasing runner index. -/
def resumesBefore (gs : List (Nat × Gang)) (a b : Gang) : Bool :=
  if sameHeat a b then decide (a.runner < b.runner) else decide (groupSaved gs a < groupSaved gs b)

/-- Insert a gang into a list in that order. -/
def insertSaved (gs : List (Nat × Gang)) (e : Nat × Gang) (l : List (Nat × Gang)) : List (Nat × Gang) :=
  match l with
  | [] => [e]
  | f :: r => if resumesBefore gs e.2 f.2 then e :: f :: r else f :: insertSaved gs e r

/-- Saved gangs in the order in which they resume. -/
def resumeOrder (gs : List (Nat × Gang)) : List Nat := (gs.foldl (fun l e => insertSaved gs e l) []).map (·.1)

/-- A saved gang and the runners of its heat that are saved or about to be, in the order in which they resume (R44, R285). -/
def savedGroup (s : State) (serial : Nat) (g : Gang) : List Nat :=
  resumeOrder (s.gangs.filter fun e => (e.2.state == .saved || e.2.stopping && !e.2.cancelled) && (e.1 == serial || sameHeat e.2 g))

/-- A saved gang and its siblings wait for lanes, and get them where there are some. -/
def resumeGroup (s : State) (serial : Nat) (prio : Option Nat) : State :=
  match tfind s.gangs serial with
  | some g =>
    let gs := savedGroup s serial g
    gs.foldl tryRestore (gs.foldl (fun t n => wantLanes t n prio) s)
  | none => s

/-- RESTORE (R248): where no run of lanes is free, a saved gang waits as a pressing head. -/
def execRestore (serial : Nat) (s : State) : Out :=
  match tfind s.gangs serial with
  | some g => .next (if g.state = .saved then resumeGroup s serial none else s)
  | none => .next s

/-! ### Retirement of a cancelled runner (R280, R362) -/

/-- A member's holds are freed at their homes and their queues granted. -/
def dropHolds (s : State) (ctx who : Nat) (hs : List Holding) : State :=
  hs.foldl (fun t h =>
    match pageOfPhys t ctx h.phys with
    | none => t
    | some (e, va) =>
      let w := memRead t h.phys 8
      let t1 := if h.shared then objectWrite t ctx who e va h.phys 8 (w - 1)
        else objectWrite (objectWrite t ctx who e va h.phys 8 (w - w / 2 ^ 16 % 2 * 2 ^ 16)) ctx who e (va + 8) (h.phys + 8) 8 0
      grantHead t1 h.phys) s

/-- What a member of a discarded gang holds and waits for is given up. -/
def releaseMember (s : State) (serial : Nat) (g : Gang) (m : Nat) : State :=
  let c := memberCore s serial m
  dropHolds (withdrawRequest s serial m c.wait) g.ctx (agentCode (memberAgent g.first m)) c.holdings

/-- The writing streams of a gang's members that have not completed leave the queue of the host stream engine (R292). -/
def settleStreams (s : State) (serial : Nat) (g : Gang) : State :=
  (membersOf g.lanes).foldl (fun t m => (memberCore s serial m).streams.foldl (fun u e =>
    if e.2.write || sdCopy e.2.desc then settleOut u e.2.serial [] else u) t) s

/-- A gang leaves the package without a finish: its baton is dropped with it when it was the only instance. -/
def retireGang (s : State) (serial : Nat) (g : Gang) : State :=
  let s1 := settleStreams ((membersOf g.lanes).foldl (fun t m => releaseMember t serial g m) s) serial g
  let s2 := if g.away then s1 else
    launchQuads (vacate ((laneAgents g.first g.lanes).foldl flushCache (forgetStreamMisses s1 (gangCodes g))) g) g.first g.lanes
  dropBaton (freeBlock { s2 with gangs := tdel s2.gangs serial } g.ctx g.saveBlock) g.baton

/-- RUNNER_RETIRE (R362): the gang of a cancelled runner stops, drains and is retired. -/
def execRunnerRetire (serial : Nat) (s : State) : Out :=
  match tfind s.gangs serial with
  | none => .next s
  | some g =>
    if !g.cancelled then .next s
    else
      match g.state with
      | .running =>
        let s1 := if g.stopping then s else stopGang s serial g
        match tfind s1.gangs serial with
        | some h => .next (if quietMembers s1 h then retireGang s1 serial h else s1)
        | none => .next s1
      | .finished => .next s
      | _ => .next (retireGang s serial g)

end Sys2Proof.Machine
end

