-- ==== Sys2Proof/Machine/Laps.lean ====
section
/-! DEFINITION. Laps: UNDOSPILL, LAPQ, reaching a seal, its commit, reclamation, rollback (R255 to R273, R286, R377, R417). -/

namespace Sys2Proof.Machine

/-! ### LAPQ and UNDOSPILL -/

/-- A seal of the context is pending: requested, or some gang is at or on its way to a sealing hurdle (R267, R268, R270). -/
def sealWaits (s : State) (ctx : Nat) : Bool :=
  (contextOf s ctx).sealPending || s.gangs.any fun e => e.2.ctx == ctx && e.2.hurdleOn && e.2.sealing

/-- The value of LAPQ (R85, R265, R377). -/
def lapWord (s : State) (ctx : Nat) : Word :=
  let x := contextOf s ctx
  if x.laps then
    BitVec.ofNat 64 (x.lapId.toNat + (if sealWaits s ctx then 2 ^ 32 else 0) + Nat.min x.rollbacks 255 * 2 ^ 40)
  else x.lapId.setWidth 64

/-- LAPQ (R265, R377). -/
def execLapq (d : Reg) (s : State) : Out :=
  runCore s fun k c =>
    interlock k c [] [d] (doneX k c d (match ctxOf s c with
      | some x => lapWord s x
      | none => 0#64))

/-- Record i of a scratch undo area: offset, lap, old bytes (R262). -/
def areaRecord (c : Core) (i : Nat) : Nat × Nat × List Byte :=
  let bs := tgetList c.scratch 0#8 (undoBase + 64 * i) 64
  (leAt bs 0 4, leAt bs 4 4, bs.drop 32)

/-- An undo record can be written: the writer's chunk has room, or a chunk of the half is free (R259, R261). -/
def undoRoom (s : State) (x mc : Nat) (south : Bool) : Bool :=
  (chunkOf (contextOf s x) mc south).isSome || (freeChunk (contextOf s x) south).isSome

/-- Spill record i of a tile's area into the undo area of the north half (R264). The tile fills chunks of its own. -/
def spillRecord (s : State) (x tile serial idx : Nat) (r : Nat × Nat × List Byte) : State :=
  appendUndo s x (384 + tile) false (agentCode (.tile tile)) (BitVec.ofNat 64 r.1)
    { addr := r.1, lap := r.2.1, tile := some (serial, idx), old := BitVec.ofNat 256 (ofBytes r.2.2) }

/-- Spill the records of a tile's area in order: whether every one has been written; with no chunk left the job has been stopped, and
the records stay where they are (R261, R264). -/
def spillAll (s : State) (x tile serial idx : Nat) (rs : List (Nat × Nat × List Byte)) : State × Bool :=
  match rs with
  | [] => (s, true)
  | r :: rest =>
    let s1 := spillRecord s x tile serial idx r
    if undoRoom s x (384 + tile) false then spillAll s1 x tile serial idx rest else (s1, false)

/-- UNDOSPILL (R264, R417): undo_fill becomes 0 once the records are written. -/
def execUndospill (s : State) : Out :=
  runState s fun _ c =>
    match s.cur, c.gang, gangOf s c with
    | .tile n, some serial, some g =>
      if !(contextOf s g.ctx).laps then raiseS s .illegal
      else
        let rs := (List.range (c.undoFill / 64)).map (areaRecord c)
        match spillAll s g.ctx n serial (n - 64 * g.first) rs with
        | (s1, true) => (s1, .done { c with undoFill := 0 })
        | (s1, false) => (s1, .poll c .fence)
    | _, _, _ => raiseS s .illegal

/-! ### Reaching the seal (R267) -/

/-- The hurdle of a gang is sealing: a member of a gang it joins has made it so. -/
def sealingHurdle (s : State) (serial : Nat) (g : Gang) : Bool := (hurdleGroup s serial g).any fun e => e.2.sealing

/-- Every gang that the hurdle joins has arrived and landed, and a job hurdle has its arrivals. -/
def sealArrived (s : State) (serial : Nat) (g : Gang) : Bool :=
  (hurdleGroup s serial g).all (fun e => e.2.hurdleOn && allArrived e.2 && gangLanded s e.2) &&
  (g.hurdleScope != 2#2 || (contextOf s g.ctx).pkgs.all fun p => p == s.ownPkg || g.jobArrived.contains p)

/-- Some member of a gang holds a dirty sector. -/
def gangDirty (s : State) (g : Gang) : Bool :=
  (laneAgents g.first g.lanes).any fun a => (coreOf s a).lines.any fun e => e.2.dirty != 0#128

/-- The dirty sectors of a gang go on their way home, as by WBALL. -/
def sendDirty (s : State) (g : Gang) : State :=
  (laneAgents g.first g.lanes).foldl (fun t a =>
    match writeBackAll a (coreOf t a) with
    | (ps, c) => setCore (sendAll t ps) a c) s

/-- Nothing of a gang that a seal waits for is left: write-backs, matrix commands, words in FIFOs. -/
def gangQuiet (s : State) (g : Gang) : Bool :=
  (laneAgents g.first g.lanes).all (fun a =>
    !writeBacksOpen s (agentCode a) (fun _ => true) && wordsIn (coreOf s a) == 0) &&
  (laneQuads g.first g.lanes).all fun q => (quadOf s q).queue.isEmpty

/-- The area that the seal of the current lap writes (R269). -/
def sealArea (s : State) (x : Context) : Nat := s.ownPkg * 2 ^ 48 + (if x.lapId.toNat % 2 = 0 then x.seal0 else x.seal1)

/-- The seal records that a seal area holds: offset and length. -/
def sealBlocks (s : State) (ctx : Nat) : List (Nat × Nat) :=
  (s.gangs.filter fun e => e.2.ctx == ctx && e.2.atSeal).map fun e => (e.2.sealAt, blockSize e.2.lanes)

/-- Where the seal record of a gang of W lanes goes: the lowest offset in the seal area at which it overlaps no other record. -/
def sealPlace (s : State) (ctx w : Nat) : Nat :=
  let bs := sealBlocks s ctx
  let fits (o : Nat) : Bool := !bs.any fun b => decide (b.1 < o + blockSize w ∧ o < b.1 + b.2)
  ((sortNat (0 :: bs.map fun b => b.1 + b.2)).find? fits).getD 0

/-- The members of a gang as a seal keeps them: behind the hurdle, tiles without their scratch (R267, R368). -/
def sealImage (s : State) (serial : Nat) (g : Gang) : Image :=
  let img := imageOf (releaseGang s serial) g
  { img with cores := img.cores.map fun e => (e.1, if e.1 < 0x800 then { e.2 with scratch := [], logged := [], undoFill := 0 } else e.2),
             quads := img.quads.map fun e => (e.1, { e.2 with acc := [], marks := [] }) }

/-- An area that a context has had is remembered (R307). -/
def noteArea (x : Context) (r : Nat × Nat) : Context :=
  if r.2 = 0 ∨ x.oldAreas.contains r = true then x else { x with oldAreas := r :: x.oldAreas }

/-- The gang is at the seal: its seal record is written. -/
def reachSeal (s : State) (serial : Nat) (g : Gang) : State :=
  let img := sealImage s serial g
  let x := contextOf s g.ctx
  let off := sealPlace s g.ctx g.lanes
  let at' := sealArea s x + off
  let s1 := setContext s g.ctx (noteArea x (at', blockSize g.lanes))
  setGang (writeSeal s1 at' serial g img) serial
    { g with atSeal := true, sealAt := off, sealing := true, image := some img }

/-- GANG_AT_SEAL (R267). -/
def execGangAtSeal (serial : Nat) (s : State) : Out :=
  match tfind s.gangs serial with
  | none => .next s
  | some g =>
    if g.state != .running || g.stopping || g.atSeal || !g.hurdleOn || !sealingHurdle s serial g || !sealArrived s serial g then .next s
    else if gangDirty s g then .next (sendDirty s g)
    else if gangQuiet s g then .next (reachSeal s serial g)
    else .next s

/-! ### The commit (R260, R266, R268, R270) -/

/-- A seal can commit: it is pending here, or on another package of the job; every gang of the context on this package is at the seal
or finished, and reclamation of the previous lap is over (R268). -/
def sealReady (s : State) (ctx : Nat) : Bool :=
  let x := contextOf s ctx
  x.laps && (sealWaits s ctx || x.pkgs.any (· != s.ownPkg)) && x.reclaiming.isEmpty && x.trigger.isNone &&
  s.gangs.all fun e => e.2.ctx != ctx || e.2.state == .finished || (e.2.state == .running && e.2.atSeal)

/-- The queues of a context. -/
def contextQueues (s : State) (ctx : Nat) : Tbl Queue := s.starter.queues.filter fun e => e.2.bound && e.2.ctx == ctx

/-- Buffered pushes of a context. -/
def contextPushes (s : State) (ctx : Nat) : List (Nat × Entry) := s.starter.pushBuf.filter fun e => (queueOf s e.1).ctx == ctx

/-- A gang as its seal record holds it. -/
def sealedGang (s : State) (e : Nat × Gang) : SealedGang :=
  { serial := e.1, gang := { (tget (releaseGang s e.1).gangs e.2 e.1) with image := none }, image := e.2.image.getD {} }

/-- What the seal of a context keeps (R267 to R272). -/
def sealOf (s : State) (ctx : Nat) : Seal :=
  { gangs := (s.gangs.filter fun e => e.2.ctx == ctx && e.2.atSeal).map (sealedGang s),
    queues := contextQueues s ctx, batons := s.starter.batons.filter fun e => e.2.ctx == ctx, pushes := contextPushes s ctx,
    heats := s.heats.filter fun e => e.2.ctx == ctx, collectives := s.collectives.filter fun c => c.ctx == ctx,
    received := (contextOf s ctx).received,
    held := (contextOf s ctx).heldSteps, forks := s.starter.forks.filter fun f => (queueOf s f.queue).ctx == ctx,
    waiting := s.starter.waiting.filter fun e => (batonOf s e.1).any fun b => b.ctx == ctx }

/-- The members' logged bits and undo areas of a context are clear (R262). -/
def clearLogged (s : State) (ctx : Nat) : State :=
  { s with cores := s.cores.map fun e => (e.1, if e.2.logCtx == some ctx then { e.2 with logged := [], undoFill := 0 } else e.2) }

/-- The lap of a context ends: the written seal becomes the current one, lap_id advances, undo use, staging and rollback count
start again, reclamation begins; chunks of spilled records hold no tag to clear and are free at once (R257, R260, R262, R266,
R268). -/
def advanceLap (s : State) (ctx : Nat) : State :=
  let x := contextOf s ctx
  clearLogged (setContext s ctx { x with
    current := some (sealOf s ctx), lapId := x.lapId + 1#32, undoUse := 0, rollbacks := 0, stageFill := 0, stagedWrites := [],
    stagedRecords := [], appends := [], sealPending := false, heldSteps := [],
    chunks := x.chunks.filter fun h => h.lap != x.lapId.toNat || decide (h.mc < 384),
    reclaiming := sortNat ((x.chunks.filter fun h => h.lap == x.lapId.toNat && decide (h.mc < 384)).map (·.mc)) }) ctx

/-- A staged write is performed at its own addresses as in a context that does not run laps: nothing is logged. The out bytes of an SWR
that has completed go to the host stream engine (R266, R292). -/
def releaseWrite (s : State) (ctx : Nat) (w : StagedWrite) : State :=
  let s1 := w.bytes.foldl (fun t b =>
    match pageFor (contextOf t ctx).pages b.1 with
    | some e => memWriteDup t e b.2.1 [b.2.2]
    | none => memWrite t b.2.1 [b.2.2]) s
  let out := outBytes s1 ctx (w.bytes.map fun b => (b.1, b.2.2))
  if out.isEmpty || !w.complete then s1 else { s1 with outQ := s1.outQ ++ [{ ctx := ctx, bytes := out, serial := w.order }] }

/-- The records of a sealed lap go to the ring in their own order (R231, R266). -/
def releaseRecords (s : State) (ctx : Nat) (rs : List HeldRecord) : State := ringWrites s ctx ((contextOf s ctx).heldRecords ++ rs)

/-- The commit of a context's seal on this package; the steps that were held until it are performed in the new lap. -/
def commitSeal (s : State) (ctx : Nat) : State :=
  let s1 := (s.heats.filter fun e => e.2.ctx == ctx).foldl (fun t e => writeRun t e.1) s
  let x := contextOf s1 ctx
  let gs := (s1.gangs.filter fun e => e.2.ctx == ctx && e.2.atSeal).map (·.1)
  let s2 := x.stagedWrites.foldl (fun t w => releaseWrite t ctx w) (advanceLap s1 ctx)
  let s3 := releaseRecords s2 ctx x.stagedRecords
  x.heldSteps.foldl finishSteps (gs.foldl (fun t g => updGang (releaseGang t g) g fun h => { h with image := none }) s3)
where
  /-- Change the record of a gang. -/
  updGang (s : State) (serial : Nat) (f : Gang → Gang) : State :=
    match tfind s.gangs serial with
    | some g => setGang s serial (f g)
    | none => s

/-- SEAL_COMMIT (R268): the votes of the other packages of the job have come with the event. -/
def execSealCommit (ctx : Nat) (s : State) : Out := .next (if sealReady s ctx then commitSeal s ctx else s)

/-- The job is idle on this package (R268). -/
def jobIdle (s : State) (ctx : Nat) : Bool :=
  (s.gangs.all fun e => e.2.ctx != ctx) && ((contextQueues s ctx).all fun e => e.2.entries.isEmpty && e.2.current.isNone) &&
  (contextPushes s ctx).isEmpty

/-- IDLE_SEAL (R268): once for each idle period. -/
def execIdleSeal (ctx : Nat) (s : State) : Out :=
  let x := contextOf s ctx
  .next (if x.laps && x.resident && jobIdle s ctx && !x.idleSealed && !x.sealPending then
    setContext s ctx { x with sealPending := true, idleSealed := true }
  else s)

/-- A sector's tag after the reclamation of a lap. -/
def reclaimTag (s : State) (r : UndoRecord) : State :=
  let sec := (s.ownPkg * 2 ^ 48 + r.addr) / 32
  if r.tile.isNone && tget s.lapTags 0#2 sec == lapTag (BitVec.ofNat 32 r.lap) then
    { s with lapTags := tdel s.lapTags sec }
  else s

/-- RECLAMATION_DONE (R260): the tags of the lap that a memory core logged are cleared where they still name it, and its chunks
are free. -/
def execReclamationDone (ctx mc : Nat) (s : State) : Out :=
  let x := contextOf s ctx
  if x.reclaiming.contains mc then
    let old (h : Chunk) : Bool := h.mc == mc && h.lap != x.lapId.toNat
    let s1 := ((x.chunks.filter old).flatMap (·.records)).foldl reclaimTag s
    .next (setContext s1 ctx { x with chunks := x.chunks.filter fun h => !old h, reclaiming := x.reclaiming.filter (· != mc) })
  else .next s

/-! ### Rollback (R269, R271 to R273, R286) -/

/-- What a posted packet of a halted member does at its home or owner (R272). -/
def performHalted (s : State) (p : Packet) : State :=
  match p.kind with
  | .store _ _ e _ | .atomic _ _ _ _ _ e _ | .writeBack _ _ e => if leafLost s e then s else performPosted s p
  | .remote dst true n v =>
    let a := agentOf dst
    let c := coreOf s a
    let o := p.addr % 2 ^ 20
    let ps := boundOffsets (visible c.bufs) o n
    if admitted c true o n (gangIndex s (agentOf p.src)) && !(undoReserved s (agentKind a) c && reachesUndo ps) then
      match engineScratchWrite s (agentKind a) c ps (toBytes n v.toNat) with
      | some c1 => setCore s a c1
      | none => s
    else s
  | _ => s

/-- A packet comes from one of the agents or is on its way to one; misses and fills go on to where they go (R212). -/
def boundFor (codes : List Nat) (p : Packet) : Bool :=
  match p.kind with
  | .tlbFill _ _ | .miss _ _ => false
  | .reply dst _ | .fillReply dst _ _ _ _ | .refusal dst | .lost dst _ | .message dst _ => codes.contains dst || codes.contains p.src
  | _ => codes.contains p.src

/-- Misses of the agents are forgotten. -/
def forgetMisses (s : State) (codes : List Nat) : State := buryMisses s fun m => codes.contains m.req

/-- A packet of the job: one that a core of the fabric sent for the context, a gang of which may have left its lanes since, or one that
another package sent to a gang of it. -/
def packetOf (s : State) (ctx : Nat) (p : Packet) : Bool :=
  match p.kind with
  | .incoming g _ _ | .notice g _ => gangCtx s g == ctx && (tfind s.gangs g).isSome
  | .lost _ _ => p.ctx == ctx && agentKind (agentOf p.src) != .supervisor
  | k => isWrite k && p.ctx == ctx && agentKind (agentOf p.src) != .supervisor

/-- The gangs of a context that stand on lanes. -/
def placedGangs (s : State) (ctx : Nat) : List (Nat × Gang) := s.gangs.filter fun e => e.2.ctx == ctx && e.2.state != .saved

/-- Step 1, halt: posted accesses are performed, everything else in flight is dropped, requests leave the homes, caches are
invalidated without write-back. -/
def haltJob (s : State) (ctx : Nat) : State :=
  let codes := (placedGangs s ctx).flatMap fun e => gangCodes e.2
  let mine (w : Waiter) : Bool := gangCtx s w.serial == ctx && (tfind s.gangs w.serial).isSome
  let gone (p : Packet) : Bool := boundFor codes p || packetOf s ctx p
  let s1 := (s.net.filter gone).foldl performHalted s
  let s2 := forgetMisses { s1 with net := s1.net.filter fun p => !gone p } codes
  { s2 with acqQ := s2.acqQ.filter fun r => !mine r.who, heatWaiters := s2.heatWaiters.filter fun e => !mine e.1,
            cores := s2.cores.map fun e =>
              (e.1, if codes.contains e.1 then invalidateAll e.2 else { e.2 with lines := e.2.lines.filter fun l => l.2.ctx != ctx }) }

/-- The undo records of a context's current lap, newest first. -/
def lapRecords (s : State) (ctx : Nat) : List (Nat × UndoRecord) :=
  let x := contextOf s ctx
  ((x.chunks.filter fun h => h.lap == x.lapId.toNat).flatMap fun h => h.records.map fun r => (h.mc, r)).reverse

/-- The old bytes of an HBM sector come back and its tag is 0. -/
def replaySector (s : State) (r : UndoRecord) : State :=
  let a := s.ownPkg * 2 ^ 48 + r.addr
  let s1 := memWrite s a (toBytes 32 r.old.toNat)
  let s2 := if r.dup then memWrite s1 (dupAddr a) (toBytes 32 r.old.toNat) else s1
  { s2 with lapTags := tdel s2.lapTags (a / 32) }

/-- Write old bytes back into scratch. -/
def undoScratch (off : Nat) (bs : List Byte) (c : Core) : Core := scratchPut c ((List.range bs.length).map (off + ·)) bs

/-- The records of a tile's undo area, newest first, come back into its scratch; the area and the logged bits are clear. -/
def replayArea (c : Core) : Core :=
  let rs := ((List.range (c.undoFill / 64)).map (areaRecord c)).reverse
  { rs.foldl (fun d r => undoScratch r.1 r.2.2 d) c with logged := [], undoFill := 0 }

/-- A spilled record comes back: on the tile of its gang, or where that tile was when its gang is gone. -/
def replaySpilled (s : State) (e : Nat × UndoRecord) : State :=
  match e.2.tile with
  | none => s
  | some (serial, idx) =>
    let f := undoScratch e.2.addr (toBytes 32 e.2.old.toNat)
    if (tfind s.gangs serial).isSome then updMember s serial idx f
    else setCore s (.tile (e.1 - 384)) (f (coreOf s (.tile (e.1 - 384))))

/-- Step 2, replay. -/
def replayLap (s : State) (ctx : Nat) : State :=
  let rs := lapRecords s ctx
  let x := contextOf s ctx
  let s1 := (rs.filter fun e => e.2.tile.isNone).foldl (fun t e => replaySector t e.2) s
  let s2 := { s1 with
    cores := s1.cores.map fun e => (e.1, if e.2.logCtx == some ctx then replayArea e.2 else e.2),
    gangs := s1.gangs.map fun e => (e.1, if e.2.ctx == ctx && e.2.away then
      { e.2 with image := e.2.image.map fun i => { i with cores := i.cores.map fun c => (c.1, replayArea c.2) } } else e.2) }
  let s3 := (rs.filter fun e => e.2.tile.isSome).foldl replaySpilled s2
  setContext s3 ctx { x with chunks := x.chunks.filter fun h => h.lap != x.lapId.toNat, undoUse := 0 }

/-- The scratch of a tile of a sealed gang as the replay has left it. -/
def scratchOf (s : State) (e : SealedGang) (m : Nat) : Tbl Byte :=
  if (tfind s.gangs e.serial).isSome then (memberCore s e.serial m).scratch
  else (coreOf s (memberAgent e.gang.first m)).scratch

/-- A gang as its seal record gives it, saved, with the scratch that the replay has left. -/
def fromSeal (s : State) (n : Nat) (e : SealedGang) : Gang :=
  let img := { e.image with cores := e.image.cores.map fun c =>
    (c.1, if c.1 < 0x800 then { c.2 with scratch := scratchOf s e c.1 } else c.2) }
  { e.gang with state := .saved, recorded := false, image := some img, resume := true, since := s.trackTime.toNat, waitPrio := none, stopping := false,
                atSeal := false, scanned := none, savedAt := n }

/-- What a queue of a context holds after a rollback: its entries at the seal, then the host appends of the lap. -/
def restoredEntries (x : Context) (kept : Seal) (q : Nat) : List Entry :=
  (tget kept.queues {} q).entries ++ (x.appends.filter fun e => e.1 == q).map (·.2)

/-- The queues of a context as a rollback leaves them, 64 entries at most (R220, R272). -/
def restoredQueue (x : Context) (kept : Seal) (q : Nat) (r : Queue) : Queue :=
  let base := tget kept.queues { ctx := r.ctx, bound := r.bound, ring := r.ring } q
  let es := (restoredEntries x kept q).take 64
  syncRing { base with entries := es, tail := base.head + BitVec.ofNat 32 es.length }

/-- Host appends for which the rolled-back queues have no room: they wait in the push buffer. -/
def lateAppends (s : State) (ctx : Nat) (x : Context) (kept : Seal) : List (Nat × Entry) :=
  (contextQueues s ctx).flatMap fun e => ((restoredEntries x kept e.1).drop 64).map fun f => (e.1, f)

/-- Steps 3 and 4: gangs and images of the lap are discarded, those at the seal stand saved and wait for lanes, what was staged or
forked in the lap is gone, the queues are as at the seal. -/
def restoreSeal (s : State) (ctx : Nat) : State :=
  let x := contextOf s ctx
  let kept := x.current.getD {}
  let gs := (numbered kept.gangs).map fun e => (e.2.serial, fromSeal s (s.starter.saves + 1 + e.1) e.2)
  let s0 := (s.gangs.filter fun e => e.2.ctx == ctx).foldl (fun t e => settleStreams t e.1 e.2) s
  let s1 := (placedGangs s ctx).foldl (fun t e => launchQuads (vacate t e.2) e.2.first e.2.lanes)
    (x.stagedRecords.foldl (fun t r => markSeq t r.seq) s0)
  let st := s1.starter
  let others {α : Type} (p : α → Bool) (l : List α) : List α := l.filter fun e => !p e
  let s2 : State := { s1 with
    gangs := gs.foldl (fun t e => tput t e.1 e.2) (others (fun e => e.2.ctx == ctx) s1.gangs),
    heats := (kept.heats.map fun e => (e.1, { e.2 with run := heatField s1 e.1 0x18 8 })).foldl (fun t e => tput t e.1 e.2)
      (others (fun e => e.2.ctx == ctx) s1.heats),
    collectives := others (fun c => c.ctx == ctx) s1.collectives ++ kept.collectives,
    starter := { st with
      saves := st.saves + kept.gangs.length,
      batons := kept.batons.foldl (fun t e => tput t e.1 e.2) (others (fun e => e.2.ctx == ctx) st.batons),
      pushBuf := others (fun e => (queueOf s1 e.1).ctx == ctx) st.pushBuf ++ kept.pushes ++ lateAppends s1 ctx x kept,
      notices := st.notices.filter fun n => match n.kind with
        | .kick .. => true
        | _ => gangCtx s1 n.serial != ctx,
      forks := others (fun f => (queueOf s1 f.queue).ctx == ctx) st.forks ++ kept.forks,
      waiting := others (fun e => (batonOf s1 e.1).any fun b => b.ctx == ctx) st.waiting ++ kept.waiting,
      queues := st.queues.map fun e => (e.1, if e.2.bound && e.2.ctx == ctx then restoredQueue x kept e.1 e.2 else e.2) } }
  let s3 := gs.foldl (fun t e => putRecord t e.2.saveBlock 0x10000 (gangFields e.1 e.2 ++ gangUpdates e.2 false)) s2
  (contextQueues s3 ctx).foldl (fun t e => markQueue t e.1) (setContext s3 ctx { x with
    blocks := gs.map fun e => (e.2.saveBlock - saveAddr s x 0, blockSize e.2.lanes),
    stagedWrites := [], stagedRecords := [], stageFill := 0, sealPending := false, idleSealed := false, heldSteps := [],
    capture := [], received := kept.received, awaiting := false, rollbacks := x.rollbacks + 1, trigger := none })

/-- The duplicate of a sector of a context's pages, where it has one that is readable. -/
def goodCopy (s : State) (ctx sec : Nat) : Option Nat :=
  match pageOfPhys s ctx (32 * sec) with
  | some (e, _) => if leafD e && !poisonedAt s (dupAddr (32 * sec)) 32 then some (dupAddr (32 * sec)) else none
  | none => none

/-- Poisoned sectors of a context's pages are repaired from their D copies (R273, R275). -/
def repairPages (s : State) (ctx : Nat) : State :=
  s.poisoned.foldl (fun t sec =>
    match goodCopy t ctx sec with
    | some d => { memWrite t (32 * sec) (memBytes t d 32) with poisoned := t.poisoned.filter (· != sec) }
    | none => t) s

/-- Sectors of a context's pages that hold an uncorrectable error and that the lap has not written: the supervisor supplies their
bytes or ends the job (R273). -/
def lostSectors (s : State) (ctx : Nat) : List Nat :=
  let logged := ((lapRecords s ctx).filter fun e => e.2.tile.isNone).map fun e => (s.ownPkg * 2 ^ 48 + e.2.addr) / 32
  s.poisoned.filter fun sec => (pageOfPhys s ctx (32 * sec)).isSome && !logged.contains sec

/-- A record of a tile's scratch undo area holds an uncorrectable error: scratch has no duplicate. -/
def areaLost (c : Core) : Bool :=
  c.marks.any fun m => match m with
    | .scratch o => decide (undoBase ≤ o ∧ o < undoBase + c.undoFill)
    | _ => false

/-- The cores whose scratch undo areas the replay of a context's lap reads: where they stand, and in the images of gangs that are away. -/
def areaCores (s : State) (ctx : Nat) : List Core :=
  (s.cores.filter fun e => e.2.logCtx == some ctx).map (·.2) ++
  (s.gangs.filter fun e => e.2.ctx == ctx && e.2.away).flatMap fun e => (e.2.image.map fun i => i.cores.map (·.2)).getD []

/-- An undo record of the lap, or the current seal area, lies in a poisoned sector that no duplicate repairs, or in scratch that holds an
error (R273). -/
def undoLost (s : State) (ctx : Nat) : Bool :=
  let x := contextOf s ctx
  (areaCores s ctx).any areaLost ||
  let bad (a n : Nat) : Bool := poisonedAt s a n && !((pageOfPhys s ctx a).any fun e => leafD e.1)
  (x.chunks.any fun h => h.lap == x.lapId.toNat && bad (undoArea s x h.south + h.index * chunkSize) (64 * h.records.length)) ||
  match x.current with
  | none => false
  | some c =>
    bad (s.ownPkg * 2 ^ 48 + (if x.lapId.toNat % 2 = 0 then x.seal1 else x.seal0)) ((c.gangs.map fun e => blockSize e.gang.lanes).sum)

/-- Rollbacks allowed for one lap (R255). -/
def rollbackLimit (x : Context) : Nat := if x.limit = 0 then 3 else x.limit

/-- The five steps of R272; a gang that finds no lanes waits as a pressing head. The steps that the seal let go on, undone with the
lap, are performed again (R270). -/
def rollBack (s : State) (ctx : Nat) : State :=
  let s0 := restoreSeal (replayLap (haltJob s ctx) ctx) ctx
  let s1 := ((contextOf s0 ctx).current.getD {}).held.foldl finishSteps s0
  (sortNat ((((contextOf s1 ctx).current.getD {}).gangs).map (·.serial))).foldl tryRestore s1

/-- The job is halted, and the rollback waits for the bytes of the sectors that are lost: it is tried again with the next ROLLBACK (R273). -/
def awaitBytes (s : State) (ctx : Nat) : State :=
  let s1 := haltJob s ctx
  (lostSectors s ctx).foldl (fun t sec => notify t (.poisoned (32 * sec)))
    { setContext s1 ctx { contextOf s1 ctx with awaiting := true } with gangs := s1.gangs.map fun e =>
        (e.1, if e.2.ctx == ctx && e.2.state == .running then { e.2 with stopping := true } else e.2) }

/-- A package of the job does not return: no Global Link port leads to it (R218, R295). -/
def peerGone (s : State) (x : Context) : Bool := x.pkgs.any fun p => p != s.ownPkg && tget s.routes 0#24 p == 0#24

/-- ROLLBACK (R271 to R273): a trigger has come here, or on another package of the job. A REMOTE_LOST whose package does not return
stops the job (R218). -/
def execRollback (ctx : Nat) (s : State) : Out :=
  let x := contextOf s ctx
  if !x.laps || (x.trigger.isNone && x.pkgs.all (· == s.ownPkg)) then .next s
  else
    let stop (t : State) : State := stopJob (setContext t ctx { x with trigger := none }) ctx (x.trigger.getD .ue)
    if x.trigger == some .remoteLost && peerGone s x then .next (stop s)
    else if rollbackLimit x ≤ x.rollbacks then .next (stop (notify s (.persistent ctx)))
    else
      let s1 := repairPages s ctx
      if undoLost s1 ctx then .next (stop s1)
      else if !(lostSectors s1 ctx).isEmpty then .next (awaitBytes s1 ctx)
      else .next (rollBack s1 ctx)

end Sys2Proof.Machine
end

