-- ==== Sys2Proof/Machine/Deadlock.lean ====
section
/-! DEFINITION. Park lines, the deadlock scan and the lock-holder notice (R239, R251, R252, R254, R434). -/

namespace Sys2Proof.Machine

/-! ### Park lines (R251) -/

/-- The word at a tile's spc in the executing slot; an unlisted place holds SHALT. -/
def switchWord (c : Core) : SwWord := tget c.swcode shaltWord (c.slot.toNat * 1024 + c.spc.toNat)

/-- Further SN-A sources of a switch word beside its routes (R120). -/
def extraSources (i : Instr) : List Nat :=
  match i with
  | .smov _ _ src => [src.toNat]
  | _ => []

/-- What the control part of a switch word waits for (R118). -/
def controlReady (i : Instr) (r : Routes) (c : Core) : Bool :=
  match i with
  | .scurSwitch _ n cnt => (loadCursor (advanced r c) n.toNat (reloaded (advanced r c) n cnt) true).isSome
  | _ => true

/-- The switch of tile n is halted or stalled: its word cannot issue. -/
def switchParked (s : State) (n : Nat) : Bool :=
  let c := coreOf s (.tile n)
  c.swHalted || c.swWaitH ||
  match decodeSwitch (switchWord c) with
  | .error _ => false
  | .ok i =>
    let r := swRoutes (switchWord c)
    !(routesReady s n r (extraSources i) && controlReady i r c) ||
    ((cursorUses r).findSome? (cursorFault s c)).isNone && (performRoutes s n r (extraSources i)).isNone

/-- The FIFO for which a core waits to pop is still empty, or that for which it waits to push still full (R51, R104). -/
def portShut (k : CoreKind) (c : Core) : Bool :=
  match c.wait with
  | .pop r vec => if vec then (fifoB c (r - 28)).isEmpty else (fifoA c (r - 28)).isEmpty
  | .push r => if c.landing then (landTc k c).isNone else decide (4 ≤ (fifoA c (4 + (r - 28))).length)
  | _ => false

/-- The lease for which a core waits has not been granted to it (R160). -/
def leaseShut (s : State) (a : Agent) : Bool :=
  match a, (coreOf s a).wait with
  | .tile n, .commandLease | .tile n, .mlease => leaseOf (quadOf s (tileQuad n)) (tileInQuad n) != .holding
  | _, _ => false

/-- The core is frozen on a port, a lease, a hurdle, or on ACQ, WAITQ or HWAIT that has not been answered. -/
def parkWait (s : State) (a : Agent) : Bool :=
  let c := coreOf s a
  atHomeWait c || portShut (agentKind a) c || leaseShut s a || match c.wait with
    | .hurdle _ _ => true
    | _ => false

/-- A stream is complete or stalled on its edge FIFO (R251); one that a fault has ended is gone. -/
def streamParked (s : State) (k : Nat) (st : Stream) : Bool :=
  st.done ||
  (st.fault.isNone && st.stalled.isNone && !st.missing && !sdCopy st.desc &&
    if st.write then st.staged.isEmpty && (portFifo s k st.desc false).isEmpty
    else decide (4 ≤ (portFifo s k st.desc true).length))

/-- The park line of a core of the fabric (R251). -/
def parkLine (s : State) (a : Agent) : Bool :=
  let c := coreOf s a
  match a with
  | .tile n => (c.mode == .finished || (c.mode == .running && parkWait s a)) && switchParked s n
  | .mem k =>
    (c.mode == .finished || (c.mode == .running && (parkWait s a || c.wait == .swait))) &&
    c.streams.all fun e => streamParked s k e.2
  | _ => false

/-! ### The scan (R252) -/

/-- The object at a domain physical address is held exclusively by a gang of this package. -/
def heldBy (s : State) (obj serial : Nat) : Bool :=
  bitAt (memRead s obj 8) 16 && bits (memRead s (obj + 8) 8) 40 24 == serial && bits (memRead s (obj + 8) 8) 0 11 == s.ownPkg

/-- Another gang of a gang's context exists, here or, as another package of the job has reported, there. -/
def otherGang (s : State) (serial : Nat) (g : Gang) : Bool :=
  (s.gangs.any fun e => e.1 != serial && e.2.ctx == g.ctx && e.2.state != .finished) ||
  (contextOf s g.ctx).elsewhere

/-- A wake is armed from outside the gang for one of its cores. -/
def armedAt (s : State) (serial : Nat) (g : Gang) (a : Agent) : Bool :=
  let c := coreOf s a
  (match c.wait with
    | .acq obj => !heldBy s obj serial
    | .waitq _ => otherGang s serial g
    | .hwait _ => true
    | _ => false) ||
  c.streams.any fun e => e.2.stalled.isSome

/-- A wake is armed from outside the gang (R252). -/
def wakeArmed (s : State) (serial : Nat) (g : Gang) : Bool :=
  (g.hurdleOn && g.hurdleScope != 0#2) || g.hostWake != 0#64 || (laneAgents g.first g.lanes).any (armedAt s serial g)

/-- A gang waits for its seal: it is at the seal, or every member of its sealing hurdle has arrived, with no word left in a FIFO (R267). -/
def waitsForSeal (s : State) (serial : Nat) (g : Gang) : Bool :=
  g.atSeal || (g.hurdleOn && sealingHurdle s serial g && sealArrived s serial g &&
    (laneAgents g.first g.lanes).all fun a => wordsIn (coreOf s a) == 0)

/-- Every condition of R252 that one scan sees. A gang that waits for its seal is never parked. -/
def scanQuiet (s : State) (serial : Nat) (g : Gang) : Bool :=
  let as := laneAgents g.first g.lanes
  g.state == .running && !g.stopping && !waitsForSeal s serial g &&
  as.all (parkLine s) && (as.any fun a => (coreOf s a).mode != .finished) &&
  ((laneQuads g.first g.lanes).all fun q => !(quadOf s q).queue.any (·.begun)) && !wakeArmed s serial g

/-- What has to stay as it is between two scans beside the FIFOs: where every core and switch stands, its streams. -/
def coreSignature (c : Core) : List Nat :=
  [c.pc.toNat, c.cycle.toNat, c.spc.toNat] ++
  c.streams.flatMap fun e => [e.1, e.2.order, e.2.i1, e.2.i2, e.2.i3, e.2.byte]

/-- Where the matrix block of a quad stands: commands accepted, queued and begun, and its lease. -/
def quadSignature (q : Quad) : List Nat :=
  [q.next, q.queue.length, (q.queue.filter (·.begun)).length, q.holder, q.run] ++ q.lease.toList.map leaseCode

/-- The signature of a gang. -/
def gangSignature (s : State) (g : Gang) : List Nat :=
  ((laneAgents g.first g.lanes).flatMap fun a => coreSignature (coreOf s a)) ++
  (laneQuads g.first g.lanes).flatMap fun q => quadSignature (quadOf s q)

/-- A FIFO of the gang has gained or lost a word since the scan before. -/
def gangStirred (s : State) (g : Gang) : Bool := (laneAgents g.first g.lanes).any fun a => (coreOf s a).stirred

/-- A scan has seen the FIFOs of a gang as they are now. -/
def seenFifos (s : State) (g : Gang) : State :=
  (laneAgents g.first g.lanes).foldl (fun t a => setCore t a { coreOf t a with stirred := false }) s

/-- Every unfinished core of a gang takes DEADLOCK at its boundary, and the Starter's notice carries the serial. -/
def raiseDeadlock (s : State) (serial : Nat) (g : Gang) : State :=
  let s1 := (laneAgents g.first g.lanes).foldl (fun t a =>
    let c := coreOf t a
    if c.mode = .finished then t else setCore t a (addPend c { cause := .deadlock })) s
  notify (setGang s1 serial { g with scanned := none }) (.deadlock serial)

/-- One gang under a scan; successive says that the scan before was 1,000 ns ago. -/
def scanGang (successive : Bool) (s : State) (serial : Nat) (g : Gang) : State :=
  if g.state != .running then s
  else
    let s1 := seenFifos s g
    if scanQuiet s serial g then
      let sig := gangSignature s g
      if successive && g.scanned == some sig && !gangStirred s g then raiseDeadlock s1 serial g
      else setGang s1 serial { g with scanned := some sig }
    else setGang s1 serial { g with scanned := none }

/-- DEADLOCK_SCAN (R252): once at each multiple of 1,000 ns of track time. -/
def execDeadlockScan (s : State) : Out :=
  let now := s.trackTime.toNat
  if now % 1000 ≠ 0 ∨ s.starter.lastScan = some now ∨ s.starter.stopped then .next s
  else
    let successive := s.starter.lastScan == some (now - 1000) && decide (1000 ≤ now)
    let s1 := s.gangs.foldl (fun t e => scanGang successive t e.1 e.2) s
    .next { s1 with starter := { s1.starter with lastScan := some now } }

/-! ### Lock holders (R254) -/

/-- A gang waits at an object that a saved gang holds exclusively: the object's address. -/
def waitsFor (s : State) (holder waiter : Nat) : Option Nat :=
  match tfind s.gangs holder with
  | some h =>
    if h.state != .saved then none
    else
      let objs := (s.acqQ.filter fun r => r.who.serial == waiter).map (·.obj) ++
        (match tfind s.gangs waiter with
          | some g => (membersOf g.lanes).filterMap fun m => match (memberCore s waiter m).wait with
            | .waitq obj => some obj
            | _ => none
          | none => [])
      objs.find? fun o => heldBy s o holder
  | none => none

/-- Effective priority of a gang: that of its baton with what it has aged, or the one it has been raised to (R46, R254). -/
def gangPriority (s : State) (g : Gang) : Nat :=
  let own := Nat.min 3 (bPrio g.bytes + ((batonOf s g.baton).map (·.waited)).getD 0)
  g.boost.foldl (fun n e => Nat.max n e.1) own

/-- A holder is raised to a priority for an object; it keeps what it is raised to already, for this object and for others (R254). -/
def raiseBoost (l : List (Nat × Nat)) (p obj : Nat) : List (Nat × Nat) :=
  if l.any fun e => e.2 == obj && decide (p ≤ e.1) then l else (l.filter fun e => e.2 != obj) ++ [(p, obj)]

/-- A gang and the runners of its heat are pre-empted for another and wait for lanes themselves, at their own priority. -/
def yieldLanes (s : State) (serial : Nat) (g : Gang) : State :=
  let gs := serial :: siblings s serial g
  gs.foldl preemptGang (gs.foldl (fun t n => wantLanes t n (some (gangPriority s g))) s)

/-- The holder, with the runners of its heat, waits for lanes at the waiter's priority, once its context runs; where no W lanes are free
the waiter's gang is pre-empted for them. -/
def restoreHolder (s : State) (holder waiter obj : Nat) : State :=
  match tfind s.gangs holder, tfind s.gangs waiter with
  | some h, some w =>
    let p := gangPriority s w
    let s1 := resumeGroup (setGang s holder { h with boost := raiseBoost h.boost p obj }) holder (some p)
    let waits := (tfind s1.gangs holder).any fun g => g.state == .saved
    if waits && contextRuns s1 h.ctx && (lowestRun s1 h.lanes).isNone && w.state == .running then
      tryRestore (yieldLanes s1 waiter w) holder
    else s1
  | _, _ => s

/-- LOCK_HOLDER_NOTICE (R254): a home finds the object of an ACQ or WAITQ held exclusively by a saved gang. The notice waits while the
Starter is taken over (R235). -/
def execLockHolderNotice (holder waiter : Nat) (s : State) : Out :=
  match waitsFor s holder waiter with
  | some obj => .next (if starterActs s then restoreHolder (notify s (.lockHolder holder waiter)) holder waiter obj else s)
  | none => .next s

end Sys2Proof.Machine
end

