-- ==== Sys2Proof/Machine/Decision.lean ====
section
/-! DEFINITION. Decision tokens at the Starter, the flip, and the commits of loads (R36, R42, R43, R163, R226, R227, R248, R348, R369).
How a member stops stands with what a core does in its turn. -/

namespace Sys2Proof.Machine

/-- DECISION_TOKEN (R43): the oldest token of a running gang begins to be applied, one at a time. -/
def execDecisionToken (serial : Nat) (s : State) : Out :=
  match tfind s.gangs serial with
  | some g =>
    match g.state, g.stopping || !starterActs s, g.applying, g.tokens with
    | .running, false, none, t :: r => .next (setGang s serial { g with applying := some t, tokens := r })
    | _, _, _, _ => .next s
  | none => .next s

/-- A landing of the core's next tc is held by a full FIFO. -/
def landHeld (k : CoreKind) (c : Core) : Bool := (landTc k c).isNone

/-- A member has stopped for a token: it issues nothing, and what was in flight has landed or is held by a full FIFO. -/
def memberStopped (s : State) (a : Agent) : Bool :=
  let c := coreOf s a
  c.mode == .finished ||
  (c.mode == .stopped && ((c.inflight.isEmpty && c.scalars.isEmpty && !c.landing) || landHeld (agentKind a) c))

/-- Every member of a gang has stopped, engine commands have completed, and every stream has completed or is stalled on an edge
FIFO (R42). -/
def gangStopped (s : State) (g : Gang) : Bool :=
  let as := laneAgents g.first g.lanes
  (as.all fun a => memberStopped s a && match a with
    | .mem k => (coreOf s a).streams.all fun e => streamParked s k e.2 && e.2.stalled.isNone && !e.2.done
    | _ => true) &&
  (laneQuads g.first g.lanes).all fun q => (quadOf s q).queue.isEmpty

/-- A static or edge FIFO of the gang holds a word, or a stream is stalled on one. -/
def gangClogged (s : State) (g : Gang) : Bool :=
  (laneAgents g.first g.lanes).any fun a =>
    let c := coreOf s a
    decide (0 < wordsIn c) || !c.streams.isEmpty || landHeld (agentKind a) c

/-- A member at word 0 of a slot: loops, switch counters and cursors are clear, and a cleared cursor's entry has retired. -/
def flipCore (slot : BitVec 2) (k : CoreKind) (c : Core) : Core :=
  let d := { c with
    slot := slot, pc := 0#14, evalAt := none, loop0 := {}, loop1 := {}, spc := 0#10, swHalted := k != .tile, swWaitH := false,
    swCnt := Vector.replicate 4 0, cursors := Vector.replicate 4 {},
    score := c.score.filter fun e => match e.owner with
      | .cursor _ => false
      | .matrix _ => true }
  if c.mode = .stopped then { clearIssue d with mode := .running } else d

/-- A quad at a flip: no lease, its banks and cell programs kept (R163). -/
def flipQuad (q : Quad) : Quad := { q with lease := Vector.replicate 4 .none, held := false }

/-- Every member flips to a slot in one tc; arrivals at a hurdle are discarded (R42, R369). -/
def flipGang (s : State) (serial : Nat) (g : Gang) (slot : BitVec 2) : State :=
  let s1 := (laneAgents g.first g.lanes).foldl (fun t a => setCore t a (flipCore slot (agentKind a) (coreOf t a))) s
  let s2 := (laneQuads g.first g.lanes).foldl (fun t q => setQuad t q (flipQuad (quadOf t q))) s1
  setGang (countLaunch s2 g.first g.lanes slot.toNat) serial
    { g with slot := slot, applying := none, hurdleOn := false, sealing := false, arrived := [], atSeal := false, retried := false }

/-- A failed flip: the members go on in the old slot, and every tile takes the cause with the named slot as its address. -/
def flipFailed (s : State) (serial : Nat) (g : Gang) (slot : BitVec 2) (cause : Cause) : State :=
  let s1 := (laneAgents g.first g.lanes).foldl (fun t a =>
    let c := coreOf t a
    let d := if c.mode = .stopped then { c with mode := .running } else c
    setCore t a (if agentKind a == .tile && c.mode != .finished then addPend d { cause := cause, addr := slot.setWidth 64 } else d)) s
  setGang s1 serial { g with applying := none, retried := false }

/-- The named slot holds its configuration in every member (R226). -/
def slotResident (s : State) (g : Gang) (slot : BitVec 2) : Bool :=
  (laneAgents g.first g.lanes).all fun a => tagged s (bImage g.bytes) g.ctx slot.toNat a slot.toNat

/-- A load for a token fails: the old slot stays, and the target slot carries no tag (R42, R227). -/
def decideFailed (s : State) (serial : Nat) (g : Gang) (slot : BitVec 2) : State :=
  flipFailed (setTags s g.first g.lanes slot.toNat none) serial g slot .loadFail

/-- The outcome of a token whose gang has stopped: DEADLOCK where a word is left, the flip to a resident slot, LOADFAIL where the leg has
no such configuration; otherwise the slot is loaded first (R42). -/
def applyToken (s : State) (serial : Nat) (g : Gang) (slot : BitVec 2) : State :=
  if gangClogged s g then notify (flipFailed s serial g slot .deadlock) (.deadlock serial)
  else if slotResident s g slot then flipGang s serial g slot
  else if g.configs.getLsbD slot.toNat then s
  else decideFailed s serial g slot

/-- DECISION_FLIP (R42). -/
def execDecisionFlip (serial : Nat) (s : State) : Out :=
  match tfind s.gangs serial with
  | some g =>
    match g.applying with
    | some slot =>
      .next (if g.state == .running && !g.stopping && starterActs s && gangStopped s g then applyToken s serial g slot else s)
    | none => .next s
  | none => .next s

/-! ### The commits of loads (R36, R227) -/

/-- An attempt at the load for a token: its commit is the flip (R36, R42, R227). -/
def loadDecided (s : State) (serial : Nat) (g : Gang) (slot : BitVec 2) (clean : Bool) : State :=
  match loadInto s serial g slot.toNat slot.toNat clean with
  | .committed s1 => flipGang (journalCommit s1 g) serial g slot
  | .retried s1 => s1
  | .failed s1 => decideFailed s1 serial g slot

/-- The gang has stopped for a token whose slot is to be loaded. -/
def decideLoads (s : State) (g : Gang) (slot : BitVec 2) : Bool :=
  !g.stopping && gangStopped s g && !gangClogged s g && !slotResident s g slot && g.configs.getLsbD slot.toNat

/-- The end of an attempt at the load of a gang, if it has one: at its placement, its restore, or a token. -/
def commitOf (s : State) (serial : Nat) (g : Gang) (clean : Bool) : State :=
  match g.state, g.applying with
  | .loading, _ => loadPlaced s serial g clean
  | .restoring, _ => loadRestored s serial g clean
  | .running, some slot => if decideLoads s g slot then loadDecided s serial g slot clean else s
  | _, _ => s

/-- LOAD_COMMIT (R227): clean says that every member has reported a clean write. The commit is the pass's, or the change of an issued
entry (R234, R327). -/
def execLoadCommit (serial : Nat) (clean : Bool) (s : State) : Out :=
  match tfind s.gangs serial with
  | some g => .next (if starterActs s && !passAway s then commitOf s serial g clean else s)
  | none => .next s

end Sys2Proof.Machine
end

