-- ==== Sys2Proof/Machine/Switching.lean ====
section
/-! DEFINITION. The time-triggered switch with its quiet markers, aging, and a peer package that is lost (R46, R217, R218, R224,
R232, R233, R249, R271, R298). -/

namespace Sys2Proof.Machine

/-! ### Running and suspended contexts (R225) -/

/-- The gangs of a context that stand on lanes and have not finished. -/
def activeGangs (s : State) (ctx : Nat) : List Nat :=
  (s.gangs.filter fun e => e.2.ctx == ctx && e.2.state != .saved && e.2.state != .finished).map (·.1)

/-- The gangs of a context that are saved or about to be, in the order in which they resume (R233, R285). -/
def savedGangs (s : State) (ctx : Nat) : List Nat :=
  resumeOrder (s.gangs.filter fun e => e.2.ctx == ctx && (e.2.state == .saved || e.2.stopping && !e.2.cancelled))

/-- Every saved gang of a context waits for lanes, as a pressing head. -/
def wantResume (s : State) (ctx : Nat) : State := (savedGangs s ctx).foldl (fun t n => wantLanes t n none) s

/-- A context runs: its saved gangs resume in the order of pre-emption, each where W lanes are free. -/
def resumeContext (s : State) (ctx : Nat) : State :=
  let s1 := wantResume (setContext s ctx { contextOf s ctx with running := true }) ctx
  (savedGangs s1 ctx).foldl tryRestore s1

/-- Contexts that run. -/
def runningContexts (s : State) : List Nat := (s.contexts.filter fun e => e.2.running).map (·.1)

/-! ### The time-triggered table (R232, R233, R249) -/

/-- An entry is due. -/
def entryDue (s : State) (e : TtEntry) : Bool := e.valid && !e.done && !e.failed && decide (e.time ≤ s.trackTime.toNat)

/-- The due entry to be executed next: the earliest, the lowest index of equals. -/
def dueEntry (s : State) : Option Nat :=
  let due := s.starter.ttable.filter fun e => entryDue s e.2
  (due.find? fun e => due.all fun f => decide (e.2.time ≤ f.2.time)).map (·.1)

/-- Write an entry of the table. -/
def setEntry (s : State) (idx : Nat) (e : TtEntry) : State :=
  { s with starter := { s.starter with ttable := tput s.starter.ttable idx e } }

/-- The ports that carry a context's flits: those that lead to the other packages of its job (R249, R295). -/
def jobPorts (s : State) (ctx : Nat) : List Nat :=
  (List.range 24).filter fun p => (contextOf s ctx).pkgs.any fun q => q != s.ownPkg && (tget s.routes 0#24 q).getLsbD p

/-- The save of a context is complete: no gang of it stands on lanes, and on every port its own marker has been sent and the peer's has
come (R249). -/
def switchedOut (s : State) (ctx : Nat) : Bool :=
  let x := contextOf s ctx
  (activeGangs s ctx).isEmpty && (jobPorts s ctx).all fun p => x.quiet.contains p && x.sentMarkers.any fun e => e.1 == p

/-- A context sends its quiet markers, with the time of the switch, behind its last flit: when none of its gangs is left that could send
one (R249). -/
def sendMarkers (s : State) (ctx time : Nat) : State :=
  let x := contextOf s ctx
  if (activeGangs s ctx).isEmpty && x.sentMarkers.isEmpty then
    setContext s ctx { x with sentMarkers := (jobPorts s ctx).map fun p => (p, time) }
  else s

/-- The context leaves the running set for a switch: from now on what other packages send it is captured. -/
def beginSwitch (s : State) (ctx : Nat) : State :=
  if (contextOf s ctx).switching then s
  else
    let s1 := leaveRunning s ctx
    setContext s1 ctx { contextOf s1 ctx with switching := true }

/-- Step 1 of R233, begun once and then tried again until the save is complete. -/
def switchOut (s : State) (ctx time : Nat) : State :=
  let s1 := beginSwitch s ctx
  sendMarkers ((activeGangs s1 ctx).foldl preemptGang s1) ctx time

/-- A record of a switch goes to the completion queue of a resident context; 0xFFFF names none (R232). -/
def switchRecord (s : State) (ctx kind idx : Nat) (cause : BitVec 8) : State :=
  if ctx != 0xFFFF && (contextOf s ctx).resident then addRecord s ctx (mkRecord kind cause ctx 0 (BitVec.ofNat 64 idx) 0) else s

/-- The context to run is not resident, or would be a fifth running one. -/
def switchFails (s : State) (inn : Nat) : Bool :=
  inn != 0xFFFF && (!(contextOf s inn).resident || (!(contextOf s inn).running && decide (4 ≤ (runningContexts s).length)))

/-- The entry under a number. -/
def entryOf (s : State) (idx : Nat) : TtEntry := tget s.starter.ttable {} idx

/-- Step 1 of entry idx, as far as it can be made (R233). -/
def stepOut (s : State) (idx : Nat) : State :=
  let e := entryOf s idx
  let st := s.starter
  let s1 : State := if st.switching = some idx then s else { s with starter := { st with switching := some idx, stepped := false } }
  if e.out = 0xFFFF then s1 else switchOut s1 e.out e.time

/-- Step 1 is complete. -/
def outDone (s : State) (e : TtEntry) : Bool := e.out == 0xFFFF || switchedOut s e.out

/-- The switch of a context is over. -/
def endSwitch (s : State) (ctx : Nat) : State :=
  if ctx = 0xFFFF then s else setContext s ctx { contextOf s ctx with switching := false, quiet := [], sentMarkers := [] }

/-- Step 2 or 3 of the entry in progress has been taken. -/
def noteStep (s : State) : State := { s with starter := { s.starter with stepped := true } }

/-- Step 2: the entry fails (R233). -/
def stepFail (s : State) (idx : Nat) : State :=
  let e := entryOf s idx
  switchRecord (setEntry (endSwitch (noteStep s) e.out) idx { e with failed := true }) e.out 6 idx Cause.cid.code

/-- Step 3: the context that comes in runs (R233). -/
def stepIn (s : State) (idx : Nat) : State :=
  let e := entryOf s idx
  let s1 := endSwitch (noteStep s) e.out
  if e.inn = 0xFFFF then s1 else resumeContext s1 e.inn

/-- Step 4: the entry is done (R233). -/
def stepEnd (s : State) (idx : Nat) : State :=
  let e := entryOf s idx
  let s1 := setEntry { s with starter := { s.starter with switching := none, stepped := false } } idx { e with done := true }
  switchRecord s1 e.inn 5 idx 0#8

/-- Steps 2 to 4 of R233, each behind its journal entry. -/
def switchIn (s : State) (idx : Nat) : State :=
  let e := entryOf s idx
  let s1 := if switchFails s e.inn then stepFail (journal s 10 0 e.out idx 2) idx else stepIn (journal s 10 0 e.inn idx 3) idx
  stepEnd (journal s1 10 0 e.inn idx 4) idx

/-- Execute the entry idx as far as it can be: step 1 takes as long as its save. -/
def ttSwitch (s : State) (idx : Nat) : State :=
  let e := entryOf s idx
  if s.starter.switching = some idx ∧ s.starter.stepped = true then stepEnd (journal s 10 0 e.inn idx 4) idx
  else
    let s1 := stepOut (if s.starter.switching = some idx then s else journal s 10 0 e.out idx 1) idx
    if outDone s1 e then switchIn s1 idx else s1

/-- The entry that a pass or the event may execute: the one in progress, or the next one due. -/
def entryTurn (s : State) : Option Nat := if s.starter.switching.isSome then s.starter.switching else dueEntry s

/-- TIME_TRIGGERED_SWITCH (R233). After a thermal trip none is executed until the package restarts (R309). While Starter firmware is
away from its pass the save in progress goes on, and the steps come with their journal entries (R327). -/
def execTimeTriggeredSwitch (idx : Nat) (s : State) : Out :=
  .next (if entryTurn s ≠ some idx || !starterActs s || s.mgmt.thermalStop then s
    else if passAway s then (if s.starter.switching = some idx ∧ s.starter.stepped = false then stepOut s idx else s)
    else ttSwitch s idx)

/-- QUIET_MARKER (R249): the peer's marker has come on a port. -/
def execQuietMarker (ctx port : Nat) (s : State) : Out :=
  let x := contextOf s ctx
  .next (if x.resident && (jobPorts s ctx).contains port then setContext s ctx { x with quiet := insertNat port x.quiet } else s)

/-! ### Aging (R46, R224) -/

/-- The head baton of a queue that the Starter has read. -/
def headBaton (s : State) (q : Nat) : Option (Nat × Baton) :=
  (queueOf s q).current.bind fun n => (batonOf s n).map fun b => (n, b)

/-- AGING: a ready head has waited a further 2 ms. -/
def execAging (q : Nat) (s : State) : Out :=
  match headBaton s q with
  | some (n, b) =>
    match b.ready with
    | some t => .next (if t + 2000000 * (b.waited + 1) ≤ s.trackTime.toNat then setBaton s n { b with waited := b.waited + 1 } else s)
    | none => .next s
  | none => .next s

/-! ### A lost package (R217, R218, R298) -/

/-- The failure of an access to a lost package. -/
def lostReply (va : Nat) : Reply := .fail { cause := .remoteLost, addr := BitVec.ofNat 64 va }

/-- A packet on its way to or from a package that is lost: accesses that are waited for fail, posted ones are reported. -/
def losePacket (s : State) (pkg : Nat) (p : Packet) : Packet :=
  let there := pkgOf p.addr == pkg && decide (p.addr < windowBase) && pkg != s.ownPkg
  match p.kind with
  | .fill _ _ e => if there then { p with kind := .reply p.src (lostReply (vaOf e p.addr)) } else p
  | .load _ e => if there then { p with kind := .reply p.src (lostReply (vaOf e p.addr)) } else p
  | .store _ _ _ va => if there then { p with kind := .lost p.src va } else p
  | .writeBack _ _ e => if there then { p with kind := .lost p.src (vaOf e p.addr) } else p
  | .atomic _ _ _ _ returning _ va =>
    if there then { p with kind := if returning then .reply p.src (lostReply va) else .lost p.src va } else p
  | .release h _ => if there then { p with kind := .reply p.src (lostReply h.object) } else p
  | .reply dst (.ok _) => if there then { p with kind := .reply dst (lostReply 0) } else p
  | .fillReply dst _ _ _ _ => if there then { p with kind := .reply dst (lostReply 0) } else p
  | .message dst _ => if dst = farCode pkg then { p with kind := .reply p.src (lostReply 0) } else p
  | _ => p

/-- Requests for objects of a lost package fail. -/
def loseRequests (s : State) (pkg : Nat) : State :=
  let gone (r : AcqRequest) : Bool := pkgOf r.obj == pkg && pkg != s.ownPkg
  (s.acqQ.filter gone).foldl (fun t r =>
    updMember t r.who.serial r.who.member fun c => { c with replies := c.replies ++ [lostReply r.va], blocked := false })
    { s with acqQ := s.acqQ.filter fun r => !gone r }

/-- Collectives in which a lost package takes part fail (R298). -/
def loseCollectives (s : State) (pkg : Nat) : State :=
  let gone (x : Collective) : Bool := (contextOf s x.ctx).pkgs.contains pkg
  (s.collectives.filter gone).foldl (fun t x => failCollective t x .remoteLost)
    { s with collectives := s.collectives.filter fun x => !gone x }

/-- What a lost package means to a context of a job that it belongs to: its ports count as marked (R249), and a seal that waits
for its vote cannot commit (R271). -/
def loseJob (s : State) (pkg ctx : Nat) : State :=
  let x := contextOf s ctx
  if !x.pkgs.contains pkg then s
  else
    let ports := (List.range 24).filter fun p => (tget s.routes 0#24 pkg).getLsbD p
    let s1 := if x.switching then setContext s ctx { x with quiet := ports.foldl (fun l p => insertNat p l) x.quiet } else s
    if x.laps && sealWaits s ctx then lapTrigger s1 ctx .remoteLost else s1

/-- A packet has turned into a failure report. -/
def reported (k : PacketKind) : Bool :=
  match k with
  | .lost _ _ => true
  | _ => false

/-- The releases whose accesses fail with a lost package fail (R39). -/
def loseReleases (s : State) (pkg : Nat) : State :=
  (s.net.filter fun p => !reported p.kind && reported (losePacket s pkg p).kind).foldl loseRelease s

/-- INCARNATION_ADVANCE (R217): the entry of a peer package advances by 1 modulo 256. -/
def execIncarnationAdvance (pkg : Nat) (s : State) : Out :=
  if pkg = s.ownPkg ∨ 2048 ≤ pkg then .next s
  else
    let s0 := loseReleases s pkg
    let s1 : State := { s0 with incarnations := tset s.incarnations 0#8 pkg (incarnation s pkg + 1#8),
                                net := s.net.map (losePacket s pkg) }
    let s2 := loseCollectives (loseRequests s1 pkg) pkg
    .next (s2.contexts.foldl (fun t e => loseJob t pkg e.1) s2)

end Sys2Proof.Machine
end

