-- ==== Sys2Proof/Machine/Pass.lean ====
section
/-! DEFINITION. The Starter's pass: kicks, heads, the checks of a baton, due entries, placement (R30 to R36, R40, R46, R220 to R225,
R231 to R233, R268, R285). -/

namespace Sys2Proof.Machine

/-! ### Part 1: kicks (R222 to R224) -/

/-- The host's append of SUBMIT q, made when bit q is taken, which marks q; a full queue leaves the bit set. -/
def hostAppend (s : State) (q : Nat) : Option State :=
  let bytes := tget s.starter.submit 0#1024 q
  (appendEntry s q bytes .host).map fun s1 =>
    let ctx := (queueOf s1 q).ctx
    let x := contextOf s1 ctx
    let s2 := match (queueOf s1 q).entries.getLast? with
      | some e => if x.laps then setContext s1 ctx { x with appends := x.appends ++ [(q, e)] } else s1
      | none => s1
    markQueue (clearPending s2 q) q

/-- Bit q is taken, which the journal says (R234, R327): the append is performed, the queue is marked for examination. A full queue
leaves the bit set, and is marked too (R33, R224; log 160). -/
def takeBit (s : State) (q : Nat) : State :=
  let st := s.starter
  if !st.pend.getLsbD q then s
  else
    let s1 : State := { s with starter := { st with lastTaken := q } }
    let s2 := journal s1 1 0 q 0 0
    if !(queueOf s q).bound then count (clearPending s2 q)
    else if st.app.getLsbD q then (hostAppend s2 q).getD (markQueue s1 q)
    else markQueue (clearPending s2 q) q

/-- The queues in increasing order from the one after a queue. -/
def queuesAfter (q : Nat) : List Nat := (List.range 256).map fun i => (q + 1 + i) % 256

/-- Every set bit is taken once, from the bit after the last one taken. -/
def takeBits (s : State) : State := (queuesAfter s.starter.lastTaken).foldl takeBit s

/-! ### Heads (R31 to R33) -/

/-- The name of a head baton in records (R230). -/
def headIdent (q : Nat) (r : Queue) (bytes : VWord) : Word :=
  if isIndirect bytes then bytes.setWidth 64 else BitVec.ofNat 64 (q + r.head.toNat % 64 * 2 ^ 8 + 2 ^ 63)

/-- The head entry leaves its queue (R224). -/
def takeHead (s : State) (q : Nat) (ident : Word) : State :=
  let r := queueOf s q
  journal (setQueue s q { r with entries := r.entries.drop 1, head := r.head + 1#32 }) 2 0 q ident.toNat 0

/-- The entry of head baton n leaves queue q, once (R224, R327). -/
def takeBaton (s : State) (q n : Nat) (b : Baton) : State :=
  if b.taken then s else takeHead (setBaton s n { b with taken := true }) q b.ident

/-- The head baton is rejected: a record, the runner's slot, and the queue advances (R32, R278). -/
def rejectHead (s : State) (q : Nat) (ident : Word) (src : EntrySource) (c : Cause) : State :=
  let s1 := takeHead s q ident
  let r := queueOf s1 q
  let s2 := addRecord (setQueue s1 q { r with current := none }) r.ctx (mkRecord 3 c.code r.ctx 0 ident 0)
  let s3 := match src with
    | .runner rec i => settleRunner s2 rec (starterCode s) i 4
    | _ => s2
  markQueue s3 q

/-- A failure of the read of a baton: PERM, or PAGE for every other (R32). -/
def batonCause (c : Cause) : Cause := if c = .perm then .perm else .page

/-- Read the baton of an entry: an inline one is the entry itself (R31, R221). The page's identity is not checked: the baton that names
one has not been read (R32). -/
def readBaton (s : State) (ctx : Nat) (bytes : VWord) : Except Cause VWord :=
  if isIndirect bytes then
    let va := batonField bytes 0 8
    let cfg := ((pageFor (contextOf s ctx).pages va).map leafCfg).getD 0#8
    if va % 128 ≠ 0 then .error .align
    else
      match translateFor s ctx cfg { need := .r } va with
      | .ok p => .ok (BitVec.ofNat 1024 (memRead s p.2 128))
      | .error c => .error (batonCause c)
  else .ok bytes

/-- A fenced lane lies in a run of lanes (R305). -/
def fencedRun (s : State) (f w : Nat) : Bool := (List.range w).any fun i => laneFenced s (f + i)

/-- The checks of R32 on the fields of a baton, up to the alignment of its image. -/
def fieldCheck (s : State) (ctx : Nat) (b : VWord) : Option Cause :=
  let w := bLanes b
  let f := bPlace b
  if bReserved b then some .illegal
  else if w = 0 ∨ 32 < w ∨ (32 ≤ f ∧ f ≠ 0xFF) ∨ 3 < bPrio b ∨ 2 < bScope b then some .illegal
  else if f ≠ 0xFF ∧ 32 < f + w then some .boundary
  else if f ≠ 0xFF && fencedRun s f w then some .boundary
  else if f = 0xFF && !runExists s w then some .boundary
  else if (contextOf s ctx).saveSize < blockSize w then some .boundary
  else if bCtx b ≠ ctx then some .cid
  else if bImage b % 4096 ≠ 0 then some .align
  else none

/-- The leg header of a baton (R32): its checks, and the hurdle scope it declares. -/
def headerCheck (s : State) (ctx : Nat) (b : VWord) : Except Cause Nat :=
  match codeFor s ctx (bCfg b) (bImage b) with
  | .error c => .error c
  | .ok (_, phys) =>
    let h := memBytes s phys 64
    if !headerOk h then .error .illegal
    else if hLanes h ≠ bLanes b ∨ hCfg h ≠ bCfg b then .error .illegal
    else if hScope h ≠ 0 ∧ 32 < bCount b * bLanes b then .error .illegal
    else .ok (hScope h)

/-- The word at the dependency counter of a baton, 0 where it has none (R33). -/
def depWord (s : State) (ctx : Nat) (b : VWord) : Except Cause Nat :=
  if bDep b = 0 then .ok 0
  else if bDep b % 8 ≠ 0 then .error .align
  else (translateFor s ctx (bCfg b) { need := .r, memSide := true } (bDep b)).map fun p => memRead s p.2 8

/-- The entry was appended by HFORK. -/
def byFork (src : EntrySource) : Bool :=
  match src with
  | .runner _ _ => true
  | _ => false

/-- The checks of R32 in their order: the first that fails, or the hurdle scope of the leg. -/
def batonCheck (s : State) (ctx : Nat) (src : EntrySource) (b : VWord) : Except Cause Nat :=
  match fieldCheck s ctx b with
  | some c => .error c
  | none =>
    match headerCheck s ctx b, depWord s ctx b with
    | .error c, _ => .error c
    | .ok _, .error c => .error c
    | .ok scope, .ok _ => if bRunner b && !byFork src then .error .heatState else .ok scope

/-- The record of a baton that has been read at the head of queue q. -/
def newBaton (q ctx : Nat) (e : Entry) (bytes : VWord) (ident : Word) (scope : Nat) : Baton :=
  { bytes := bytes, ident := ident, queue := q, ctx := ctx, entry := e, scope := scope, lap := e.lap,
    runner := match e.source with
      | .runner rec i => some (rec, i)
      | _ => none }

/-- Read and check the head of a queue that has not been read, once (R31, R32). -/
def readHead (s : State) (q : Nat) : State :=
  let r := queueOf s q
  match r.bound, r.current, r.entries with
  | true, none, e :: _ =>
    let ident := headIdent q r e.bytes
    match readBaton s r.ctx e.bytes with
    | .error c => rejectHead s q ident e.source c
    | .ok bytes =>
      match batonCheck s r.ctx e.source bytes with
      | .error c => rejectHead s q ident e.source c
      | .ok scope =>
        let n := s.starter.nextBaton
        let s1 := setBaton { s with starter := { s.starter with nextBaton := n + 1 } } n (newBaton q r.ctx e bytes ident scope)
        markQueue (setQueue s1 q { r with current := some n }) q
  | _, _, _ => s

/-- A head whose counter has read 0 is ready, at its time (R33). -/
def readyAt (s : State) (n : Nat) (b : Baton) : State :=
  if bTimed b.bytes && decide (s.trackTime.toNat < bTtime b.bytes) then setBaton s n { b with depMet := true }
  else setBaton s n { b with depMet := true, ready := some s.trackTime.toNat }

/-- Examine the head of a queue (R33): its counter, which is read until it reads 0, then its time. -/
def examineHead (s : State) (q : Nat) : State :=
  match headBaton s q with
  | none => s
  | some (n, b) =>
    if b.ready.isSome || b.stage != .head then s
    else if b.depMet then readyAt s n b
    else
      match depWord s b.ctx b.bytes with
      | .error c => rejectHead (dropBaton s n) q b.ident b.entry.source c
      | .ok v => if v ≠ 0 then s else readyAt s n b

/-- TTIME_REACHED (R33): track time has reached the ttime of a queue's head, whose counter is not read for that. -/
def execTtimeReached (q : Nat) (s : State) : Out :=
  match headBaton s q with
  | some (n, b) =>
    .next (if bTimed b.bytes && decide (bTtime b.bytes ≤ s.trackTime.toNat) && b.depMet && b.ready.isNone && b.stage == .head then readyAt s n b else s)
  | none => .next s

/-- A context whose batons are served: it runs and its job goes on (R225). -/
def contextServed (s : State) (ctx : Nat) : Bool :=
  contextRuns s ctx && (contextOf s ctx).trigger.isNone

/-- A zero-count baton has left its queue: its steps begin at once, or Starter firmware performs them (R40, R327). -/
def beginSteps (s : State) (q n : Nat) (b : Baton) : State :=
  let b1 := { b with stage := .placed, taken := true }
  if firmwareRuns s then advanceQueue (setBaton s n { b1 with byFirmware := true }) n q
  else startRelease (advanceQueue (setBaton s n b1) n q) n

/-- A ready baton with count 0 places nothing: its steps begin at once (R40). -/
def zeroCount (s : State) (q : Nat) : State :=
  match headBaton s q with
  | none => s
  | some (n, b) =>
    if b.ready.isSome && b.stage == .head && bCount b.bytes == 0 && contextServed s b.ctx && !pushFull s then
      beginSteps (takeBaton s q n b) q n b
    else s

/-- Part 2: heads that have not been read are read, marked queues are examined, zero-count batons begin their steps. -/
def examineHeads (s : State) : State :=
  let s1 := (s.starter.queues.map (·.1)).foldl readHead s
  let marked := s1.starter.marked
  let s2 := marked.foldl examineHead { s1 with starter := { s1.starter with marked := [] } }
  (s2.starter.queues.map (·.1)).foldl zeroCount s2

/-! ### Part 3: due entries -/

/-- Due entries are executed one after the other, as far as each can be. -/
def executeEntries (s : State) (fuel : Nat) : State :=
  match fuel with
  | 0 => s
  | fuel + 1 =>
    match entryTurn s with
    | none => s
    | some idx =>
      let s1 := ttSwitch s idx
      if s1.starter.switching.isSome then s1 else executeEntries s1 fuel

/-! ### Part 4: placement (R34, R35, R224) -/

/-- Batons of the context may be placed: its ring has room, and no seal is pending (R231, R268). -/
def mayPlace (s : State) (ctx : Nat) : Bool :=
  contextServed s ctx && !ringFull (contextOf s ctx) && (contextOf s ctx).heldRecords.isEmpty && !sealWaits s ctx

/-- Place instances of baton n while any is left and fits. -/
def placeMany (s : State) (n fuel : Nat) : State :=
  match fuel with
  | 0 => s
  | fuel + 1 =>
    match batonOf s n with
    | none => s
    | some b =>
      if bCount b.bytes ≤ b.placed then s
      else
        match placeInstance s n with
        | some s1 => placeMany s1 n fuel
        | none => s

/-- Instances of baton n that have been placed. -/
def placedOf (s : State) (n : Nat) : Nat :=
  match batonOf s n with
  | some b => b.placed
  | none => 0

/-- Serve the head of a queue: whether an instance was placed. A leg with a hurdle scope beyond the gang is placed whole or not at
all (R35); the entry leaves the queue with the first instance. -/
def serveHead (s : State) (q n : Nat) (b : Baton) : State × Bool :=
  let s1 := placeMany (takeBaton s q n b) n 32
  let now := placedOf s1 n
  if now = b.placed then (s, false)
  else if b.scope ≠ 0 ∧ now < bCount b.bytes then (s, false)
  else (placedAll s1 n, true)

/-- Ready heads that may be served, by queue. -/
def readyHeads (s : State) : List (Nat × Nat × Baton) :=
  s.starter.queues.filterMap fun e =>
    match headBaton s e.1 with
    | some (n, b) =>
      if e.2.bound && b.ready.isSome && b.stage == .head && bCount b.bytes != 0 && mayPlace s b.ctx then some (e.1, n, b) else none
    | none => none

/-- Track time at which something that waits with a priority from a time on has waited 2 ms at priority 3 (R46, R224). -/
def pressTime (since prio : Nat) : Nat := since + 2000000 * (4 - prio)

/-- The time at which a head becomes pressing. -/
def headPress (b : Baton) : Nat := pressTime (b.ready.getD 0) (bPrio b.bytes)

/-- The time at which a saved gang that waits for lanes is a pressing head: at once, or as a head of its priority (R233, R254, R285). -/
def gangPress (g : Gang) : Nat :=
  match g.waitPrio with
  | none => g.since
  | some p => pressTime g.since p

/-- The pressing head that has been pressing longest. -/
def oldestPressing (s : State) : Option (Nat × Nat × Baton) :=
  let ps := (readyHeads s).filter fun e => decide (headPress e.2.2 ≤ s.trackTime.toNat)
  ps.find? fun e => ps.all fun f => decide (headPress e.2.2 ≤ headPress f.2.2)

/-- Saved gangs that wait for lanes, in the order in which they resume (R233, R254, R272, R285). -/
def waitingGangs (s : State) : List (Nat × Gang) :=
  (resumeOrder (s.gangs.filter fun e => wantsLanes s e.1 e.2)).filterMap fun n => (tfind s.gangs n).map fun g => (n, g)

/-- The runners of one heat press together, from the time at which the first of them does (R285). -/
def groupPress (gs : List (Nat × Gang)) (g : Gang) : Nat :=
  (gs.filter fun e => sameHeat e.2 g).foldl (fun n e => Nat.min n (gangPress e.2)) (gangPress g)

/-- The waiting gang that has been pressing longest, of the runners of one heat the one with the lowest index (R285). -/
def oldestResume (s : State) : Option (Nat × Gang) :=
  let ws := waitingGangs s
  let gs := ws.filter fun e => decide (groupPress ws e.2 ≤ s.trackTime.toNat)
  gs.find? fun e => gs.all fun f => decide (groupPress ws e.2 ≤ groupPress ws f.2)

/-- A saved gang still waits for lanes. -/
def stillWaits (s : State) (serial : Nat) : Bool :=
  match tfind s.gangs serial with
  | some g => g.state == .saved && g.resume
  | none => false

/-- Serve what presses, the oldest first, a gang before a head of the same time; whether one is left that does not fit, in which case
nothing else is placed (R224). -/
def servePressing (s : State) (fuel : Nat) : State × Bool :=
  match fuel with
  | 0 => (s, true)
  | fuel + 1 =>
    let gang (serial : Nat) : State × Bool :=
      let s1 := tryRestore s serial
      if stillWaits s1 serial then (s1, true) else servePressing s1 fuel
    let head (q n : Nat) (b : Baton) : State × Bool :=
      match serveHead s q n b with
      | (s1, placed) => if placed && (headBaton s1 q).isNone then servePressing s1 fuel else (s1, true)
    match oldestResume s, oldestPressing s with
    | none, none => (s, false)
    | some (serial, _), none => gang serial
    | none, some (q, n, b) => head q n b
    | some (serial, g), some (q, n, b) => if gangPress g ≤ headPress b then gang serial else head q n b

/-- Serve one queue at an effective priority. -/
def serveAt (p : Nat) (s : State) (q : Nat) : State :=
  match (readyHeads s).find? fun e => e.1 == q && effPrio s (e.2.2.ready.getD 0) (bPrio e.2.2.bytes) == p with
  | none => s
  | some (_, n, b) =>
    match serveHead s q n b with
    | (s1, true) => { s1 with starter := { s1.starter with lastServed := s1.starter.lastServed.setIfInBounds p q } }
    | (s1, false) => s1

/-- The saved gangs that wait at an effective priority. -/
def waitingAt (s : State) (p : Nat) : List Nat :=
  (waitingGangs s).filterMap fun (e : Nat × Gang) => e.2.waitPrio.bind fun k => if effPrio s e.2.since k = p then some e.1 else none

/-- Serve an effective priority: the gangs that wait at it, then its queues from the one after the queue served last. -/
def servePriority (s : State) (p : Nat) : State :=
  (queuesAfter ((s.starter.lastServed[p]?).getD 255)).foldl (serveAt p) ((waitingAt s p).foldl tryRestore s)

/-- Part 4. -/
def place (s : State) : State :=
  match servePressing s 512 with
  | (s1, true) => s1
  | (s1, false) => [3, 2, 1, 0].foldl servePriority s1

/-- The periods that a ready head has waited, as track time gives them (R46). -/
def refreshAging (s : State) : State :=
  { s with starter := { s.starter with batons := s.starter.batons.map fun e =>
      (e.1, match e.2.stage, e.2.ready with
        | .head, some t => { e.2 with waited := Nat.max e.2.waited ((s.trackTime.toNat - t) / 2000000) }
        | _, _ => e.2) } }

/-- What comes before the four parts: what waits for room goes on, and notices are handled (R223, R235, R365). -/
def resumeWork (s : State) : State := serveForks (goOn s)

/-- The take-over is over: what has come meanwhile is handled, and the standby runs R224 (R235). -/
def endTakeOver (s : State) : State :=
  urgent (goOn { s with starter := { s.starter with takingOver := false } }) [.event .starterPass]

/-- A standby that holds a program has come to its pass, with which the take-over ends (R235, R328). -/
def arriveAtPass (s : State) : State :=
  if s.starter.takingOver && !s.starter.standbyOk && atPass s then endTakeOver s else s

/-- STARTER_PASS (R224): what waits, then the four parts. Where firmware runs it is made at byte offset 0x0800 alone (R327; log 158). -/
def execStarterPass (s : State) : Out :=
  let s0 := arriveAtPass s
  if !s0.mgmt.ready || !starterActs s0 || s0.mgmt.thermalStop || passAway s0 then .next s0
  else .next (place (refreshAging (executeEntries (examineHeads (takeBits (resumeWork s0))) 64)))

end Sys2Proof.Machine
end

