-- ==== Sys2Proof/Machine/Journal.lean ====
section
/-! DEFINITION. The response unit and the take-over: ISSUE, acknowledgements, replay of the journal (R234 to R236, R325 to R328). -/

namespace Sys2Proof.Machine

/-! ### Entries (R234) -/

/-- seq is below JTAIL, modulo 2^32. -/
def belowTail (s : State) (seq : Nat) : Bool :=
  let d := (s.starter.jtail - BitVec.ofNat 32 seq).toNat
  decide (1 ≤ d ∧ d < 2 ^ 31)

/-! ### The changes (R327) -/

/-- The Starter's copy of the baton that records name so, of those that p admits. -/
def batonNamed (s : State) (ident : Nat) (p : Baton → Bool) : Option (Nat × Baton) :=
  s.starter.batons.find? fun e => e.2.ident.toNat == ident && p e.2

/-- Kind 2: the head baton of a queue is taken; of a zero-count baton the steps follow (R40). It waits for a head. -/
def issueTake (s : State) (q : Nat) : State × Bool :=
  let s1 := readHead s q
  match headBaton s1 q with
  | some (n, b) =>
    let s2 := withEntry (fun t => takeBaton t q n b) s1
    (if bCount b.bytes = 0 ∧ b.stage = .head then beginSteps s2 q n b else s2, true)
  | none => (s1, false)

/-- Kind 3: an instance is placed on the lane run that the entry records: instance in bits 0..31 of its operand, the first lane
from bit 32. It waits for the lanes and for a save block. -/
def issuePlace (s : State) (addr operand : Nat) : State × Bool :=
  let f := operand / 2 ^ 32
  match batonNamed s addr fun b => b.stage == .head && b.placed == operand % 2 ^ 32 with
  | some (n, b) =>
    match findBlock (contextOf s b.ctx) (blockSize (bLanes b.bytes)) with
    | some off =>
      if runFree s f (bLanes b.bytes) then (placedAll (withEntry (fun t => claim t n b f off) s) n, true) else (s, false)
    | none => (s, false)
  | none => (s, true)

/-- A gang's load, at its placement, its restore or a token, has not ended. -/
def loadPending (g : Gang) : Bool := g.state == .loading || g.state == .restoring || g.applying.isSome

/-- Kind 4: the load commit of an instance, at its placement, its restore or a token (R227). It waits while the load is retried. -/
def issueCommit (s : State) (addr operand : Nat) : State × Bool :=
  match s.gangs.find? fun e => e.2.inst == operand && loadPending e.2 &&
      ((batonOf s e.2.baton).any fun b => b.ident.toNat == addr) with
  | some (serial, g) =>
    let s1 := withEntry (fun t => commitOf t serial g true) s
    (s1, !(tfind s1.gangs serial).any loadPending)
  | none => (s, true)

/-- Kind 5: the head notice, that of a finish, is retired and its instance is finished; with the last one the lanes of every instance
are freed. -/
def issueFinish (s : State) : State :=
  match s.starter.notices with
  | [] => s
  | n :: r =>
    let s1 : State := { s with starter := { s.starter with notices := r } }
    match n.kind, tfind s1.gangs n.serial with
    | .finish, some g =>
      match batonOf s1 g.baton with
      | none => s1
      | some b =>
        let b1 := { b with finished := b.finished + 1, byFirmware := true }
        let s2 := settleGang (setBaton s1 g.baton b1) n.serial g (starterCode s) 3
        if allFinished b1 then freeGangs s2 (batonGangs s2 g.baton) else s2
    | .finish, none => s1
    | _, _ => s

/-- Kind 6: the release of a baton whose finish the firmware performs. -/
def issueRelease (s : State) (seq addr scope : Nat) : State :=
  match batonNamed s addr fun b => b.byFirmware with
  | some (n, b) =>
    let b1 := { b with stage := .release, bytes := setBatonField b.bytes 0x40 1 scope, relSeq := some seq }
    setBaton (if scope = 0 then s else releaseWrites s n b) n b1
  | none => s

/-- The latest kind 6 entry below a sequence number (R327). -/
def groupRelease (s : State) (seq fuel : Nat) : Option Nat :=
  match fuel with
  | 0 => none
  | fuel + 1 =>
    let p := (seq + 2 ^ 32 - 1) % 2 ^ 32
    let e := entryAt s p
    if jeSeq e ≠ p then none else if jeKind e = 6 then some e else groupRelease s p fuel

/-- The baton of the group that an entry of kind 7 or 8 belongs to. -/
def groupBaton (s : State) (seq : Nat) : Option (Nat × Baton) :=
  (groupRelease s seq 2048).bind fun e => batonNamed s (jeAddr e) fun b => b.byFirmware

/-- Kind 7: the completion word. -/
def issueCword (s : State) (seq addr operand : Nat) : State :=
  match groupBaton s seq with
  | some (_, b) =>
    orRecord s b 2 (completionStep s { b with bytes := setBatonField (setBatonField b.bytes 0x30 8 addr) 0x38 8 operand })
  | none => s

/-- A successor's step as an entry of kind 8 names it: its counter, the queue and the successor (R39). -/
def entryStep (s : State) (b : Baton) (q dep succ : Nat) : Except Cause State :=
  if succ % 128 ≠ 0 then .error .align
  else
    match translateFor s b.ctx (bCfg b.bytes) { need := .r } succ with
    | .error c => .error c
    | .ok _ =>
      if dep = 0 then .ok (pushEntry s q succ)
      else
        match decrement s b.ctx (bCfg b.bytes) dep with
        | .error c => .error c
        | .ok (s1, zero) => .ok (if zero then pushEntry s1 q succ else s1)

/-- Kind 8: a successor; it waits while the push buffer is full (R223). -/
def issueSuccessor (s : State) (seq e : Nat) : State × Bool :=
  if pushFull s then (s, false)
  else
    match groupBaton s seq with
    | some (_, b) => (orRecord s b (if jeSecond e then 4 else 3) (entryStep s b (jeQ e) (jeAddr e) (jeOperand e)), true)
    | none => (s, true)

/-- The record of an entry has not been written to its ring. -/
def recordHeld (s : State) (ctx seq : Nat) : Bool :=
  let x := contextOf s ctx
  x.heldRecords.any (fun r => r.seq == some seq) || x.stagedRecords.any fun r => r.seq == some seq

/-- Kind 9: a completion record from its image, unless it is held already; the copy of a baton is kept until its kind 2 record. -/
def issueRecord (s : State) (seq ctx : Nat) : State :=
  let img := tget s.starter.img 0#256 (seq % 2048)
  if recordHeld s ctx seq then s else
  let s1 := appendRecord s ctx { record := img, seq := some seq }
  if bits img.toNat 0 8 = 2 then
    match batonNamed s1 (bits img.toNat 64 64) fun b => b.byFirmware with
    | some (n, _) => dropBaton s1 n
    | none => s1
  else s1

/-- Kind 10: a step of the time-triggered entry that is due or in progress (R233): 2 and 3 behind the completion of 1, 4 behind them. It
waits until the step is the entry's next; a step of an entry that is over has been performed. -/
def issueStep (s : State) (idx step : Nat) : State × Bool :=
  let e := entryOf s idx
  let st := s.starter
  let ready := st.switching == some idx && !st.stepped && outDone s e
  if entryTurn s ≠ some idx then (s, e.done)
  else if s.mgmt.thermalStop then (s, false)
  else
    match step with
    | 1 => (if st.stepped then s else stepOut s idx, true)
    | 2 => if ready && switchFails s e.inn then (stepFail s idx, true) else (s, false)
    | 3 => if ready && !switchFails s e.inn then (stepIn s idx, true) else (s, false)
    | 4 => if st.switching == some idx && st.stepped then (stepEnd s idx, true) else (s, false)
    | _ => (s, true)

/-- The change of an entry, and whether it has been performed (R327). -/
def performEntry (s : State) (seq e : Nat) : State × Bool :=
  match jeKind e with
  | 1 => (withEntry (fun t => takeBit t (jeQ e)) s, true)
  | 2 => issueTake s (jeQ e)
  | 3 => issuePlace s (jeAddr e) (jeOperand e)
  | 4 => issueCommit s (jeAddr e) (jeOperand e)
  | 5 => (issueFinish s, true)
  | 6 => (issueRelease s seq (jeAddr e) (jeOperand e % 4), true)
  | 7 => (issueCword s seq (jeAddr e) (jeOperand e), true)
  | 8 => issueSuccessor s seq e
  | 9 => (issueRecord s seq (jeQ e), true)
  | 10 => issueStep s (jeAddr e) (jeOperand e)
  | _ => (s, true)

/-- An issued entry's change waits until it can be performed. -/
def delay (s : State) (seq : Nat) : State := { s with starter := { s.starter with delayed := s.starter.delayed ++ [seq] } }

/-- Perform an issued entry's change, as far as it can be. -/
def tryEntry (s : State) (seq : Nat) : State :=
  match performEntry s seq (entryAt s seq) with
  | (s1, true) => s1
  | (s1, false) => delay s1 seq

/-- Perform an entry's change, whose acknowledgement is then on its way. -/
def issueEntry (s : State) (seq : Nat) : State :=
  tryEntry { s with starter := { s.starter with performed := s.starter.performed ++ [seq] } } seq

/-- ISSUE (R325, R327): an entry that is done, or not below JTAIL, or no longer in the ring, is ignored and counted. -/
def execIssue (seq : Nat) (s : State) : Out :=
  let e := entryAt s seq
  .next (if s.starter.performed.contains seq then s
    else if jeDone e || jeSeq e != seq || !belowTail s seq then count s
    else issueEntry s seq)

/-! ### Acknowledgements (R234, R327) -/

/-- The acknowledgement of an entry's change has arrived. -/
def acknowledged (s : State) (seq : Nat) : Bool :=
  let e := entryAt s seq
  !s.starter.delayed.contains seq &&
  match jeKind e with
  | 6 =>
    match s.starter.batons.find? fun b => b.2.stage == .release && b.2.relSeq == some seq with
    | some (n, b) => !releaseOpen s n b
    | none => true
  | 9 => !recordHeld s (jeQ e) seq
  | 10 => jeOperand e != 1 || s.starter.switching != some (jeAddr e) || s.starter.stepped || outDone s (entryOf s (jeAddr e))
  | _ => true

/-- A release whose failure has come back is the job's (R39). -/
def failedRelease (s : State) (seq : Nat) : Option (Nat × Baton) :=
  s.starter.batons.find? fun b => b.2.stage == .release && b.2.relSeq == some seq && b.2.byFirmware && b.2.lost

/-- A change that waited is made once it can be (R223, R327). -/
def serveDelayed (s : State) (seq : Nat) : State :=
  if s.starter.delayed.contains seq then
    tryEntry { s with starter := { s.starter with delayed := s.starter.delayed.filter (· != seq) } } seq
  else s

/-- JOURNAL_DONE (R234): the response unit marks both copies. -/
def execJournalDone (seq : Nat) (s : State) : Out :=
  if !s.starter.performed.contains seq then .next s
  else
    match failedRelease s seq with
    | some (n, b) => .next (failRelease s n b)
    | none =>
      let s1 := serveDelayed s seq
      .next (if acknowledged s1 seq then markDone s1 seq else s1)

/-! ### Take-over (R235, R236) -/

/-- The Starter stops: the supervisor is told, and every running gang is saved (R236). -/
def stopStarter (s : State) : State :=
  let gs := s.gangs.filter fun e => e.2.state != .saved && e.2.state != .finished
  urgent (notify { s with starter := { s.starter with stopped := true, takingOver := false } } .packageFault)
    (gs.map fun e => .event (.preempt e.1))

/-- The entries of the journal that are not done and that p admits, in sequence order. -/
def openEntries (s : State) (p : Nat → Bool) : List Nat :=
  let first := (s.starter.jtail - 2048#32).toNat
  ((List.range 2048).map fun i => (first + i) % 2 ^ 32).filter fun q =>
    let e := entryAt s q
    jeSeq e == q && jeKind e != 0 && !jeDone e && p e

/-- An entry is performed again, and marked when its acknowledgement is there (R235). -/
def replayEntry (s : State) (seq : Nat) : State :=
  let s1 := if s.starter.performed.contains seq then serveDelayed s seq else issueEntry s seq
  if acknowledged s1 seq then markDone s1 seq else s1

/-- A Starter core as the take-over line starts it: byte offset 0x0400, every register zero (R328). -/
def standbyCore (c : Core) : Core :=
  { mode := .running, pc := 0x400#14, code := c.code, scratch := c.scratch, recvq := c.recvq, marks := c.marks }

/-- The releases that the Starter's own finishes have begun, with their entries (R38, R234). -/
def ownReleases (s : State) : List (Nat × Baton) :=
  s.starter.batons.filter fun b => b.2.stage == .release && b.2.relSeq.isSome && !b.2.byFirmware

/-- A record with an entry waits for room in its ring (R231). -/
def ringWaits (s : State) : Bool := s.contexts.any fun x => x.2.heldRecords.any fun r => r.seq.isSome

/-- A posted store of the halted core to the shared state is on its way: an ISSUE or a part of the journal (R325). -/
def storesUnder (s : State) : Bool :=
  s.net.any fun p => p.src == agentCode (.starter s.starter.active) && decide (windowBase ≤ p.addr) && isWrite p.kind

/-- A change that has been issued is outstanding (R235 step 1, R328): its acknowledgement has not come. One that waits until it can be
performed has not been performed, and a record that is staged for a seal waits with the seal (log 161). -/
def outstanding (s : State) : Bool :=
  (s.starter.performed.any fun q => !s.starter.delayed.contains q && !acknowledged s q && !staged s q) ||
  ((ownReleases s).any fun e => releaseOpen s e.1 e.2) || ringWaits s || storesUnder s
where
  staged (s : State) (q : Nat) : Bool := s.contexts.any fun x => x.2.stagedRecords.any fun r => r.seq == some q

/-- The entries of the changes that have been acknowledged are done; one that still waits to be performed is the standby's to issue. -/
def closeIssued (s : State) : State :=
  let own := (ownReleases s).filterMap (·.2.relSeq)
  let s1 := (own ++ s.starter.performed.filter fun q => !s.starter.delayed.contains q && acknowledged s q).foldl markDone s
  { s1 with starter := { s1.starter with performed := s1.starter.performed.filter fun q => !s.starter.delayed.contains q, delayed := [] } }

/-- The standby is the active core and starts at the take-over's address. -/
def startStandby (s : State) : State :=
  let other := 1 - s.starter.active
  let s1 : State := { s with starter := { s.starter with lastTaken := 255, active := other, standbyOk := false } }
  setCore s1 (.starter other) (standbyCore (coreOf s1 (.starter other)))

/-- The entry's record is staged, and its change goes on with its seal (R266). -/
def goesOn (s : State) (seq : Nat) : Bool := jeKind (entryAt s seq) == 9 && recordHeld s (jeQ (entryAt s seq)) seq

/-- Step 4 of R235: the held completions in sequence order, each after the acknowledgement of the one before; whether all have
been released. -/
def heldCompletions (s : State) (seqs : List Nat) : State × Bool :=
  match seqs with
  | [] => (s, true)
  | seq :: r =>
    if goesOn s seq then heldCompletions s r
    else
      let s1 := replayEntry s seq
      if s1.starter.performed.contains seq then (s1, false) else heldCompletions s1 r

/-- Steps 2 to 5 of R235 as the Starter itself takes them, as far as acknowledgements allow. -/
def replayJournal (s : State) : State :=
  let s1 := takeBits ((openEntries s fun e => !jeCompletion e).foldl replayEntry s)
  match heldCompletions s1 (openEntries s1 jeCompletion) with
  | (s2, true) => endTakeOver s2
  | (s2, false) => s2

/-- The standby takes the steps of R235; one that holds a program takes them with it, from byte offset 0x0400 to its pass (R328). -/
def standbyTurn (s : State) : State := if firmwareRuns s then arriveAtPass s else replayJournal s

/-- The take-over as far as it can go: the standby starts when no issued change is outstanding; a standby that has failed stops the
Starter (R235, R236). -/
def goTakeOver (s : State) : State :=
  if s.starter.standbyOk then
    if outstanding s then s else standbyTurn (startStandby (closeIssued s))
  else if (coreOf s (.starter s.starter.active)).mode = .off then stopStarter s
  else standbyTurn s

/-- The active core halts at once, and the take-over begins; without a standby the Starter stops (R235, R236). -/
def haltActive (s : State) : State :=
  let a : Agent := .starter s.starter.active
  let s1 := setCore { s with starter := { s.starter with takingOver := true } } a { coreOf s a with mode := .off }
  if s.starter.standbyOk then goTakeOver s1 else stopStarter s1

/-- STARTER_TAKEOVER (R235): the take-over line acts, and goes on as acknowledgements arrive. -/
def execStarterTakeover (s : State) : Out :=
  .next (if s.starter.stopped then s else if s.starter.takingOver then goTakeOver s else haltActive s)

end Sys2Proof.Machine
end

