-- ==== Sys2Proof/Machine/HostIf.lean ====
section
/-! DEFINITION. The host interface: kicks, submission buffers, completion-queue control, endpoints, host wakes, transfers to the
host (R222, R228, R229, R231, R287 to R294). -/

namespace Sys2Proof.Machine

/-! ### The Starter's host-visible registers (R222, R228) -/

/-- A kick of the host sets its bit; during a take-over it waits in the notice FIFO (R222, R235). -/
def kick (s : State) (q : Nat) (app : Bool) : State :=
  if !s.starter.takingOver then setPending s q app
  else if noticeRoom s then
    { s with starter := { s.starter with
        notices := s.starter.notices ++ [{ kind := .kick q app, serial := 0, bytes := noticeBytes 3 (q + if app then 256 else 0) }] } }
  else s

/-- KICK (R222): bits 9..31 must be zero; before the package is ready the write is ignored (R302). -/
def execKick (w : BitVec 32) (s : State) : Out :=
  .next (if s.mgmt.ready && w.extractLsb' 9 23 == 0#23 then kick s (w.extractLsb' 0 8).toNat (w.getLsbD 8) else s)

/-- A kick of a queue with append has not been taken: its bit is set, or it waits in the notice FIFO. -/
def appendWaits (s : State) (q : Nat) : Bool :=
  (s.starter.pend.getLsbD q && s.starter.app.getLsbD q) || s.starter.notices.any fun n => n.kind == .kick q true

/-- SUBMIT (R222): while the queue's bit is set with append the write is discarded and counted. -/
def execSubmit (q : Nat) (buf : VWord) (s : State) : Out :=
  let st := s.starter
  .next (if !s.mgmt.ready || decide (256 ≤ q) then s
    else if appendWaits s q then count s
    else { s with starter := { st with submit := tset st.submit 0#1024 q buf } })

/-- The resident context that holds a context slot (R229). -/
def slotContext (s : State) (c : Nat) : Option Nat := (s.contexts.find? fun e => e.2.resident && e.1 % 16 == c).map (·.1)

/-- A write of the consumer count: one that would make producer − consumer exceed the ring is ignored and counted; held records
follow into the room (R228, R231). -/
def writeConsumer (s : State) (ctx : Nat) (v : BitVec 32) : State :=
  let x := contextOf s ctx
  if 2 ^ x.cqS < (x.cqProducer - v).toNat then count s
  else ringWrites (setContext s ctx { x with cqConsumer := v }) ctx x.heldRecords

/-- CQCTL_CONSUMER_WRITE (R228): the consumer count at 0x14, the host ring at 0x18; another field is ignored and counted. -/
def execCqctlConsumerWrite (c off : Nat) (w : Word) (s : State) : Out :=
  match slotContext s c with
  | none => .next (count s)
  | some ctx =>
    if off = 0x14 then .next (writeConsumer s ctx (w.setWidth 32))
    else if off = 0x18 then .next (setContext s ctx { contextOf s ctx with cqHost := w })
    else .next (count s)

/-- The 32 bytes of a context's completion-queue control (R228). -/
def cqctlBytes (x : Context) : List Byte :=
  toBytes 8 x.cqBase ++ toBytes 8 x.cqS ++ toBytes 4 x.cqProducer.toNat ++ toBytes 4 x.cqConsumer.toNat ++ toBytes 8 x.cqHost.toNat

/-- What a byte of BAR0 reads as (R222): the pending-kick bitmap, the queues' control records, the completion-queue controls; a place
that the host only writes, an undefined one and a slot that no context holds read as zero (R287). -/
def barByte (s : State) (o : Nat) : Byte :=
  if 0x100 ≤ o ∧ o < 0x120 then s.starter.pend.extractLsb' (8 * (o - 0x100)) 8
  else if 0x1000 ≤ o ∧ o < 0x2000 then (qctlBytes (queueOf s ((o - 0x1000) / 16))).getD (o % 16) 0#8
  else if 0x2000 ≤ o ∧ o < 0x2200 then
    match slotContext s ((o - 0x2000) / 32) with
    | some ctx => (cqctlBytes (contextOf s ctx)).getD (o % 32) 0#8
    | none => 0#8
  else 0#8

/-- A host read of n bytes of a BAR (R222, R287). -/
def hostReadAt (s : State) (bar off n : Nat) : State :=
  { s with hostRead := (List.range n).map fun i => if bar = 0 then barByte s (off + i) else 0#8 }

/-! ### In-copies (R288 to R291) -/

/-- The conditions under which an EPKICK of an endpoint is ignored and counted (R291). -/
def kickRefused (s : State) (ctx i : Nat) (e : BitVec 256) : Bool :=
  let dir := epField e 0x14 1
  dir % 4 == 0 || dir % 4 == 2 || epField e 0x10 4 == 0 || decide (8 ≤ dir) || epField e 0x16 2 != 0 ||
  s.inCopies.any fun x => x.ctx == ctx && x.endpoint == i

/-- EPKICK (R288, R291): an in-copy begins. -/
def execEpkick (w : BitVec 32) (s : State) : Out :=
  if !s.mgmt.ready || w.extractLsb' 16 16 != 0#16 then .next s
  else
    let i := (w.extractLsb' 0 12).toNat
    match slotContext s (w.extractLsb' 12 4).toNat with
    | none => .next (count s)
    | some ctx =>
      let e := endpoint s ctx i
      .next (if kickRefused s ctx i e then count s
        else { s with inCopies := s.inCopies ++ [{ ctx := ctx, endpoint := i, entry := e }] })

/-- The host wake of an object (R294): one that fails the checks of R197 is counted. -/
def hostWakeUp (s : State) (ctx va : Nat) : State :=
  if va % 64 ≠ 0 then count s
  else
    match translateFor s ctx 0#8 { need := .none, memSide := true } va with
    | .error _ => count s
    | .ok (e, obj) =>
      if objectClean s obj then wakeNodes s ctx (starterCode s) e va obj (queueLength s (memRead s (obj + 0x10) 8) (queueBound s))
      else count s

/-- What follows an in-copy whose words are performed: a wake or a decrement, where dep is not 0, and the kick (R290, R291, R294). -/
def afterCopy (s : State) (x : InCopy) : State :=
  let dep := epField x.entry 0x18 8
  if bitAt (epField x.entry 0x14 1) 2 then (if dep = 0 then s else hostWakeUp s x.ctx dep)
  else
    let s1 := if dep = 0 then s
      else match decrement s x.ctx 0#8 dep with
        | .ok (s2, _) => s2
        | .error _ => count s
    kick s1 (epField x.entry 0x15 1) false

/-- IN_COPY_COMPLETE (R291): the words that the engine has read from host memory are performed at their homes; in-copies of one
context run in order. -/
def execInCopyComplete (idx : Nat) (words : List Word) (s : State) : Out :=
  match s.inCopies[idx]? with
  | none => .next s
  | some x =>
    if ((s.inCopies.take idx).any fun y => y.ctx == x.ctx) || words.length != epField x.entry 0x10 4 / 8 then .next s
    else
      let s1 := { s with inCopies := s.inCopies.eraseIdx idx }
      match unitWrite s1 x.ctx (starterCode s) 0#8 { need := .w, scalar := false } (epField x.entry 0x08 8)
          (words.flatMap fun w => toBytes 8 w.toNat) with
      | .ok s2 => .next (afterCopy s2 x)
      | .error _ => .next (count s1)

/-! ### Transfers to the host (R228, R292) -/

/-- An entry of the queue can be transferred: a stream's bytes after those of every stream issued before it, a record after the
earlier records of its context and after the streams that had completed when it was written. -/
def transferable (s : State) (i : Nat) (o : OutTransfer) : Bool :=
  let before := s.outQ.take i
  match o.vector with
  | none => o.ready && !before.any fun p => p.vector.isNone
  | some _ =>
    !(before.any fun p => p.vector.isSome && p.ctx == o.ctx) &&
    !s.outQ.any fun p => p.vector.isNone && o.after.contains p.serial

/-- OUT_TRANSFER (R228, R292): the oldest transfer that can be made reaches host memory; a record raises its vector. -/
def execOutTransfer (s : State) : Out :=
  match (numbered s.outQ).find? fun e => transferable s e.1 e.2 with
  | some (i, o) =>
    .next { s with outQ := s.outQ.eraseIdx i, hostMem := o.bytes.foldl (fun t b => tset t 0#8 b.1 b.2) s.hostMem,
                   msix := s.msix ++ o.vector.toList }
  | none => .next s

/-- HOST_WAKE_ARMED_WRITE (R294). -/
def execHostWakeArmedWrite (serial : Nat) (v : Word) (s : State) : Out :=
  match tfind s.gangs serial with
  | some g => .next (setGang s serial { g with hostWake := v &&& 1#64 })
  | none => .next s

end Sys2Proof.Machine
end

