-- ==== Sys2Proof/Machine/Manage.lean ====
section
/-! DEFINITION. Bring-up, security, power, error injection, and what the supervisor writes (R45, R75, R182, R186, R213, R225, R228,
R229, R232, R235, R239, R243, R255, R257, R261, R266, R275, R289, R295, R301 to R309, R321). -/

namespace Sys2Proof.Machine

/-! ### Boot (R301 to R305) -/

/-- n bytes of a signature block (R75). -/
def blockPart (b : BundleFacts) (off n : Nat) : List Byte := (b.block.drop off).take n

/-- The digest of a bundle (R302, R306). -/
def digestOf (b : BundleFacts) : BitVec 384 := Config.bundleDigest [b.bootImage, b.starterImage, b.svcImage, b.mgmtImage] b.version

/-- The boot ROM accepts a bundle (R302): its digest is the signed one, both signatures verify, each public key hashes to an
unrevoked fuse hash of its kind, and its version is at least the counter. -/
def bundleOk (s : State) (b : BundleFacts) : Bool :=
  let ed := blockPart b 0x38 32; let ml := blockPart b 0x98 1952
  leAt b.block 8 48 == (digestOf b).toNat && Config.ed25519Verify ed (blockPart b 0x58 64) (digestOf b) &&
  Config.mlDsa65Verify ml (blockPart b 0x838 3309) (digestOf b) && s.mgmt.edFuses.contains (Config.sha384 ed, false) &&
  s.mgmt.mlFuses.contains (Config.sha384 ml, false) && decide (s.mgmt.antiRollback.toNat ≤ b.version)

/-- Spare rows of a scratch bank (R304). -/
def spareRows : Nat := 4

/-- The failing rows that spare rows stand for, and those that are left: four of each bank are repaired. -/
def splitRows (rows : List (Nat × Nat)) : List (Nat × Nat) × List (Nat × Nat) :=
  rows.foldl (fun p r => if (p.1.filter fun q => q.1 == r.1).length < spareRows then (p.1 ++ [r], p.2) else (p.1, p.2 ++ [r])) ([], [])

/-- The repair entry of a member (R304): its number, the spare rows used, fail, the first row that is not repaired. -/
def repairEntry (f : MarchFacts) : BitVec 128 :=
  match splitRows f.rows with
  | (used, left) =>
    let wh := match left with
      | (bank, row) :: _ => bank % 16 + row % 1024 * 16
      | [] => 0
    BitVec.ofNat 128 (f.member + Nat.min 15 used.length * 2 ^ 12 + (if f.other || !left.isEmpty then 2 ^ 16 else 0) + wh * 2 ^ 32)

/-- The findings of the march test in members that there are. -/
def marchOf (f : BootFacts) : List MarchFacts := f.march.filter fun m => decide (m.member < 2432)

/-- The repair table of the march test, by member number (R304, R305). -/
def repairTable (l : List MarchFacts) : Tbl (BitVec 128) := l.foldl (fun t m => tput t m.member (repairEntry m)) []

/-- An entry of the repair table as the supervisor reads it (R305): of a member in which nothing was found it holds the number only. -/
def repairAt (s : State) (i : Nat) : BitVec 128 := (tfind s.mgmt.repair i).getD (BitVec.ofNat 128 i)

/-- Boot stops with a code, and the management controller reads as halted (R302, R303). -/
def bootStops (s : State) (code : Nat) : State := { s with mgmt := { s.mgmt with code := code, halted := true } }

/-- An image as the words of a core's instruction memory, from word 0 of slot 0. -/
def imageWords (bs : List Byte) : Tbl IWord := tsetList [] 0#32 0 ((wordsOf 4 (bs.length / 4) bs).map (BitVec.ofNat 32))

/-- The secure boot core loads the Starter firmware into both Starter cores (R302). The Starter's own work is the Starter's events; a
core begins to run the image when the take-over line starts it (R328). -/
def loadFirmware (s : State) (image : List Byte) : State :=
  [Agent.starter 0, Agent.starter 1].foldl (fun t a => setCore t a { coreOf t a with code := imageWords image }) s

/-- Steps 2 to 4 with the bundle that was accepted: links, march test, every queue unbound, ready. -/
def bootOn (s : State) (f : BootFacts) (bundle : Nat) (b : BundleFacts) : State :=
  if !f.dieEdgesOk then bootStops s 2
  else if !f.hbmOk then bootStops s 3
  else
    let s1 := loadFirmware s b.starterImage
    { s1 with
      starter := { s1.starter with queues := [] },
      mgmt := { s1.mgmt with ready := true, bundle := bundle, bundleDigest := digestOf b, pcieWidth := f.pcieWidth, glUp := f.glUp,
                             repair := repairTable (marchOf f), draws := s1.mgmt.draws + 1,
                             remaps := (marchOf f).flatMap fun m => (splitRows m.rows).1.map fun r => (m.member, r) } }

/-- BOOT (R302): once, from reset. -/
def execBoot (f : BootFacts) (s : State) : Out :=
  .next (if s.mgmt.ready || s.mgmt.halted then s
    else if bundleOk s f.bundleA then bootOn s f 0 f.bundleA
    else if bundleOk s f.bundleB then bootOn s f 1 f.bundleB
    else bootStops s 1)

/-! ### Power (R308, R309) -/

/-- A gang that stands on lanes has a tile or memory core in an island. -/
def islandUsed (s : State) (i : Nat) : Bool :=
  s.gangs.any fun e => e.2.state != .saved && (laneAgents e.2.first e.2.lanes).any fun a =>
    match a with
    | .tile n => tileIsland n == i
    | .mem k => memIsland k == i
    | _ => false

/-- ISLAND_SET (R308): an I/O island has no setting; gating waits until no placed gang uses the island. -/
def execIslandSet (i freq : Nat) (gated : Bool) (s : State) : Out :=
  .next (if 76 ≤ i || decide (10 < freq) || (gated && islandUsed s i) then s
    else { s with mgmt := { s.mgmt with islands := tset s.mgmt.islands (10, false) i (freq, gated) } })

/-- A compute island can be stepped down now: it is not gated, not at the lowest step, and not stepped in the last 10 µs. -/
def canStep (s : State) (i : Nat) : Bool :=
  let st := tget s.mgmt.islands (10, false) i
  let late := match tfind s.mgmt.stepped i with
    | some t => decide (t + 10000 ≤ s.trackTime.toNat)
    | none => true
  decide (i < 64) && !st.2 && decide (0 < st.1) && late

/-- The temperature of an island as the sensors last read. -/
def tempOf (s : State) (i : Nat) : Nat := tget s.mgmt.temps 0 i

/-- The sensors read more power than the cap, or a junction above 105 °C. -/
def tooHot (s : State) : Bool := decide (s.mgmt.powerCap < s.mgmt.power) || s.mgmt.temps.any fun e => decide (105 < e.2)

/-- FREQUENCY_STEP (R309): one step down for the hottest compute island that can be stepped, while power or temperature is too high. -/
def execFrequencyStep (i : Nat) (s : State) : Out :=
  let m := s.mgmt
  let st := tget m.islands (10, false) i
  let hottest := (List.range 64).all fun k => !canStep s k || decide (tempOf s k ≤ tempOf s i)
  .next (if canStep s i && tooHot s && hottest then
    { s with mgmt := { m with islands := tset m.islands (10, false) i (st.1 - 1, st.2), stepped := tput m.stepped i s.trackTime.toNat } }
  else s)

/-- Every gang that stands on lanes and has not finished is to be saved. -/
def saveAll (s : State) (p : Gang → Bool) : State :=
  urgent s ((s.gangs.filter fun e => e.2.state != .saved && e.2.state != .finished && p e.2).map fun e => .event (.preempt e.1))

/-- The sensors read a junction at 115 °C or above (R309). -/
def tripsAt (temps : Tbl Nat) : Bool := temps.any fun e => decide (115 ≤ e.2)

/-- THERMAL_TRIP (R309): at 115 °C every running gang is pre-empted and saved, and the package stops. -/
def execThermalTrip (s : State) : Out :=
  .next (if tripsAt s.mgmt.temps then saveAll { s with mgmt := { s.mgmt with thermalStop := true } } fun _ => true else s)

/-! ### Attestation and keys (R306, R307) -/

/-- The bytes of the repair table, in member order (R305). -/
def repairBytes (s : State) : List Byte := (List.range 2432).flatMap fun i => toBytes 16 (repairAt s i).toNat

/-- What a quote says of a resident context: its key hashes and the digests of the containers it has loaded. -/
def contextQuote (x : Context) : List Byte :=
  let k := x.keys.getD (0, 0)
  toBytes 48 k.1 ++ toBytes 48 k.2 ++ x.checked.flatMap fun e => toBytes 48 e.2.toNat

/-- The bytes of a quote that its signatures cover (R306). -/
def quoteBody (s : State) (nonce : BitVec 256) : List Byte :=
  let m := s.mgmt
  toBytes 32 nonce.toNat ++ toBytes 48 m.bundleDigest.toNat ++
  toBytes 48 (Config.fuseDigest (m.edFuses ++ m.mlFuses) m.antiRollback m.secret).toNat ++
  toBytes 48 (Config.sha384 (repairBytes s)).toNat ++
  (s.contexts.filter fun e => e.2.resident).flatMap fun e => contextQuote e.2

/-- QUOTE (R306). -/
def execQuote (nonce : BitVec 256) (s : State) : Out :=
  let b := quoteBody s nonce
  .next (if s.mgmt.ready then { s with mgmt := { s.mgmt with quote := b ++ Config.quoteSignatures s.mgmt.secret b } } else s)

/-- Another resident context holds a context's slot (R229, R307). -/
def slotShared (s : State) (ctx : Nat) : Bool := s.contexts.any fun e => e.2.resident && e.1 != ctx && e.1 % 16 == ctx % 16

/-- A key is drawn into a slot of every memory core. -/
def drawKey (s : State) (slot : Nat) : State :=
  { s with mgmt := { s.mgmt with draws := s.mgmt.draws + 1, keySlots := tput s.mgmt.keySlots slot (s.mgmt.draws + 1) } }

/-- Every gang of a context is retired (R45). -/
def retireJob (s : State) (ctx : Nat) : State :=
  (s.gangs.filter fun e => e.2.ctx == ctx).foldl (fun t e =>
    match tfind t.gangs e.1 with
    | some g => retireGang t e.1 g
    | none => t) s

/-- A page of this package that a leaf maps, with its duplicate (R208): first byte and length. -/
def pageExtent (s : State) (e : Leaf) : List (Nat × Nat) :=
  let a := leafPkg e * 2 ^ 48 + leafFrame e * 4096
  let n := 2 ^ pageBits (leafSize e)
  if leafPkg e ≠ s.ownPkg then [] else (a, n) :: if leafD e then [(dupAddr a, n)] else []

/-- The areas that a context has in the package's memory now: for saves, undo records and staged writes. -/
def areasOf (s : State) (x : Context) : List (Nat × Nat) :=
  let at' (base : Nat) : Nat := s.ownPkg * 2 ^ 48 + base
  [(at' x.saveBase, x.saveSize), (at' x.undoN, x.undoSize), (at' x.undoS, x.undoSize), (at' x.stageBase, x.stageQuota)]

/-- A context whose areas change remembers those that it had (R307). -/
def noteAreas (s : State) (x : Context) : Context := (areasOf s x).foldl noteArea x

/-- What a context has held of the package's memory: the areas that it has and has had, its seal records, its pages (R182, R307). -/
def extentsOf (s : State) (x : Context) : List (Nat × Nat) :=
  areasOf s x ++ x.oldAreas ++ (x.pages ++ x.oldPages).flatMap (pageExtent s)

/-- The bytes of a range read as unrelated ciphertext: free values. -/
def scrambleRange (s : State) (r : Nat × Nat) : State :=
  (List.range r.2).foldl (fun t i => { memWrite t (r.1 + i) [(Config.freeValue t.fresh).setWidth 8] with fresh := t.fresh + 1 }) s

/-- Every byte that a context has left reads as unrelated ciphertext (R307). -/
def scramble (s : State) (rs : List (Nat × Nat)) : State := rs.foldl scrambleRange s

/-- A context has been created, and its key stands in its slot (R307). -/
def keyStands (s : State) (ctx : Nat) : Bool :=
  let k := (contextOf s ctx).key
  k != 0 && tfind s.mgmt.keySlots (ctx % 16) == some k

/-- The contexts that are not resident and whose key stands in a slot lose it with the slot: what they left reads as ciphertext. -/
def loseKeys (s : State) (slot : Nat) : State :=
  (s.contexts.filter fun e => e.1 % 16 == slot && !e.2.resident && keyStands s e.1).foldl (fun t e => scramble t (extentsOf s e.2)) s

/-- No core has run a context of that id before: a tile that passes to it is flushed (R192). -/
def forgetLast (s : State) (ctx : Nat) : State :=
  { s with cores := s.cores.map fun e => (e.1, if e.2.lastCtx = some ctx then { e.2 with lastCtx := none } else e.2) }

/-- CONTEXT_CREATE (R257, R307): refused where a resident context holds the slot. -/
def execContextCreate (ctx : Nat) (s : State) : Out :=
  .next (if !s.mgmt.ready || decide (65536 ≤ ctx) || (contextOf s ctx).resident || slotShared s ctx then s
    else setContext (drawKey (forgetLast (loseKeys s (ctx % 16)) ctx) (ctx % 16)) ctx
      { resident := true, pkgs := [s.ownPkg], key := s.mgmt.draws + 1 })

/-- Nothing of a context is left in the tables of the package. -/
def forgetContext (s : State) (ctx : Nat) : State :=
  let st := s.starter
  { s with
    contexts := tdel s.contexts ctx,
    heats := s.heats.filter fun e => e.2.ctx != ctx,
    collectives := s.collectives.filter fun x => x.ctx != ctx,
    inCopies := s.inCopies.filter fun x => x.ctx != ctx,
    outQ := s.outQ.filter fun o => o.ctx != ctx,
    starter := { st with
      forks := st.forks.filter fun f => (queueOf s f.queue).ctx != ctx,
      waiting := st.waiting.filter fun e => !(batonOf s e.1).any fun b => b.ctx == ctx,
      batons := st.batons.filter fun e => e.2.ctx != ctx,
      pushBuf := st.pushBuf.filter fun e => (queueOf s e.1).ctx != ctx,
      queues := st.queues.filter fun e => e.2.ctx != ctx } }

/-- CONTEXT_TEARDOWN (R26, R45, R307): of a context that has been created, resident or not; the slot is overwritten where its key
stands. -/
def execContextTeardown (ctx : Nat) (s : State) : Out :=
  if !(contextOf s ctx).resident && (contextOf s ctx).key == 0 then .next s
  else
    let s1 := forgetContext (retireJob s ctx) ctx
    let s2 := if (contextOf s ctx).resident || keyStands s ctx then drawKey s1 (ctx % 16) else s1
    .next (scramble s2 (extentsOf s (contextOf s ctx)))

/-! ### What the supervisor writes -/

/-- Change a context's record. -/
def onContext (s : State) (ctx : Nat) (f : Context → Context) : State := setContext s ctx (f (contextOf s ctx))

/-- Put a context into the running set, or suspend it (R225): at most four run, and a suspended context's gangs are saved. -/
def setRunning (s : State) (ctx : Nat) (running : Bool) : State :=
  if running then
    if !(contextOf s ctx).resident || (!(contextOf s ctx).running && decide (4 ≤ (runningContexts s).length)) then s
    else resumeContext (onContext s ctx fun x => { x with stopped := none }) ctx
  else saveAll (leaveRunning s ctx) fun g => g.ctx == ctx

/-- Make a context resident or not (R29, R229): one that has been created and whose key stands, in a slot of its own. -/
def setResident (s : State) (ctx : Nat) (resident : Bool) : State :=
  if resident then if slotShared s ctx || !keyStands s ctx then s else onContext s ctx fun x => { x with resident := true }
  else setRunning (onContext s ctx fun x => { x with resident := false }) ctx false

/-- Bind or unbind a queue (R220). -/
def bindQueue (s : State) (q ctx : Nat) (bound : Bool) : State :=
  if 256 ≤ q then s
  else
    let s1 := match (queueOf s q).current with
      | some n => dropBaton s n
      | none => s
    setQueue s1 q { ctx := ctx, bound := bound }

/-- The saved gangs of running contexts wait for lanes again. -/
def restartPackage (s : State) : State :=
  (runningContexts s).foldl wantResume
    { s with mgmt := { s.mgmt with thermalStop := false }, starter := { s.starter with stopped := false, takingOver := false } }

/-- A context gets new pages; those that it had before are remembered (R307). -/
def givePages (x : Context) (ps : List Leaf) : Context :=
  { x with pages := ps, oldPages := x.oldPages ++ x.pages.filter fun e => !ps.contains e }

/-- What a write of a configuration item changes; a value that the spec does not admit changes nothing. -/
def writeConfig (item : ConfigItem) (s : State) : State :=
  match item with
  | .queueBind q ctx bound => bindQueue s q ctx bound
  | .contextRunning ctx running => setRunning s ctx running
  | .completionQueue ctx base n =>
    if base % 4096 ≠ 0 ∨ n < 6 ∨ 16 < n then s
    else onContext s ctx fun x => { x with cqBase := base, cqS := n, cqProducer := 0#32, cqConsumer := 0#32 }
  | .saveArea ctx base size => onContext s ctx fun x => { noteAreas s x with saveBase := base, saveSize := size }
  | .lapControl ctx undoN undoS undoSize quota stageBase stageQuota seal0 seal1 limit flags =>
    if undoN % 2 ^ 20 ≠ 0 ∨ undoS % 2 ^ 20 ≠ 0 ∨ undoSize % 2 ^ 20 ≠ 0 ∨ 255 < limit ∨ 1 < flags then s
    else onContext s ctx fun x => { noteAreas s x with
      undoN := undoN, undoS := undoS, undoSize := undoSize, quota := quota, stageBase := stageBase, stageQuota := stageQuota,
      seal0 := seal0, seal1 := seal1, limit := limit, laps := flags == 1 }
  | .endpointTable ctx va => onContext s ctx fun x => { x with endpoints := va }
  | .signingKeys ctx ed ml => onContext s ctx fun x => { x with keys := some (ed % 2 ^ 384, ml % 2 ^ 384) }
  | .page ctx leaf =>
    if leafValid leaf && leafV leaf then
      onContext s ctx fun x => givePages x (leaf :: x.pages.filter fun e => !leafOverlaps e leaf)
    else s
  | .dropPage ctx va => onContext s ctx fun x => givePages x (x.pages.filter fun e => !leafCovers e va)
  | .formatWindow i ebase elimit sbase fmt ncol pitch =>
    if 64 ≤ i ∨ ebase % 512 ≠ 0 ∨ 3 < fmt ∨ 256 ≤ ncol ∨ pitch % 128 ≠ 0 ∨ 2 ^ 20 ≤ pitch then s
    else { s with windows := tput s.windows i (
             { ebase := ebase, elimit := elimit, sbase := sbase, fmt := fmt, ncol := ncol, pitch := pitch } : Window) }
  | .ttEntry i time out inn valid =>
    if 64 ≤ i ∨ 2 ^ 16 ≤ out ∨ 2 ^ 16 ≤ inn then s
    else setEntry s i { time := time, out := out, inn := inn, valid := valid }
  | .route pkg mask => if 2048 ≤ pkg then s else { s with routes := tset s.routes 0#24 pkg mask }
  | .powerCap watts => if 4400 < watts then s else { s with mgmt := { s.mgmt with powerCap := watts } }
  | .restart => restartPackage s
  | .leaseRun ag v =>
    if agentExists ag && decide (1 ≤ v.toNat ∧ v.toNat ≤ 64) then setCore s ag { coreOf s ag with leaseRun := v.toNat } else s
  | .jobPackages ctx pkgs => onContext s ctx fun x => { x with pkgs := sortNat (s.ownPkg :: pkgs.filter (· < 2048)) }
  | .contextResident ctx resident => setResident s ctx resident
  | .standby => { s with starter := { s.starter with standbyOk := true } }
  | .poke phys bytes =>
    if installed phys && installed (phys + bytes.length - 1) && decide (phys + bytes.length ≤ windowBase) then memWrite s phys bytes else s

/-- CONFIG_WRITE (R186 and the rules that name each item). -/
def execConfigWrite (item : ConfigItem) (s : State) : Out := .next (writeConfig item s)

/-- SUPERVISOR_RESUME (R239, R261, R266): the quotas are raised and the frozen core runs on with the instruction at its trap pc, or
the job ends. -/
def execSupervisorResume (ag : Agent) (fix : Resume) (s : State) : Out :=
  let c := coreOf s ag
  match c.mode, ctxOf s c, fix with
  | .sFreeze, some ctx, .raise quota stage =>
    let s1 := setCore s ag { resumedCore c with mode := .running, wait := .none }
    .next (onContext s1 ctx fun x => { x with quota := Nat.max x.quota quota, stageQuota := Nat.max x.stageQuota stage })
  | .sFreeze, some ctx, .endJob => .next (retireJob (leaveRunning s ctx) ctx)
  | _, _, _ => .next s

/-! ### Errors (R275, R321) -/

/-- ERR_INJECT_WRITE (R321): a write with kind 3 or a reserved bit is ignored. -/
def execErrInjectWrite (ag : Agent) (v : Word) (s : State) : Out :=
  let member := match ag with
    | .tile n => decide (n < 2048)
    | .mem k => decide (k < 384)
    | _ => false
  .next (if member && injectValid v then setCore s ag { coreOf s ag with errInject := v } else s)

/-- ERR_INJECT_FIRE (R321): an event of a kind passes a member's err_inject; marked data are a consumed uncorrectable error. -/
def execErrInjectFire (ag : Agent) (kind : BitVec 2) (addr : Word) (s : State) : Out :=
  match injectEvent (coreOf s ag) kind.toNat with
  | (true, c) => .next (setCore s ag (addPend c { cause := .ue, addr := addr }))
  | (false, c) => .next (setCore s ag c)

/-- The page of some context that holds a domain physical address keeps a duplicate. -/
def duplicated (s : State) (addr : Nat) : Bool :=
  s.contexts.any fun e => e.2.pages.any fun p =>
    let base := leafPkg p * 2 ^ 48 + leafFrame p * 4096
    let inPage (a : Nat) : Bool := decide (base ≤ a ∧ a < base + 2 ^ pageBits (leafSize p))
    leafD p && (inPage addr || inPage (dupAddr addr))

/-- SCRUB_SECTOR (R275): correctable errors are corrected; a sector found uncorrectable is repaired from its other copy, or marked
poisoned and reported. -/
def execScrubSector (addr : Nat) (bad : Bool) (s : State) : Out :=
  let a := addr / 32 * 32
  if !bad then .next s
  else if duplicated s a && !poisonedAt s (dupAddr a) 32 then
    .next { memWrite s a (memBytes s (dupAddr a) 32) with poisoned := s.poisoned.filter (· != a / 32) }
  else .next (notify { s with poisoned := insertNat (a / 32) s.poisoned } (.poisoned a))

end Sys2Proof.Machine
end

