-- ==== Sys2Proof/Machine/Scalar.lean ====
section
/-! DEFINITION. The scalar integer family: INT, immediates, shifts, bit fields, constants (R79, R80, R332 to R334, R345, R346,
R349, R356, R381, R394, R400). -/

namespace Sys2Proof.Machine

/-! ### Shared shapes -/

/-- Two scalar sources, one scalar result, readable by the next instruction (R332). -/
def alu2 (f : Word → Word → Word) (d a b : Reg) (k : CoreKind) (c : Core) : Res :=
  interlock k c [a, b] [d] (withX k c a fun x c1 => withX k c1 b fun y c2 => doneX k c2 d (f x y))

/-- One scalar source, one scalar result (R333, R345). -/
def alu1 (f : Word → Word) (d a : Reg) (k : CoreKind) (c : Core) : Res :=
  interlock k c [a] [d] (withX k c a fun x c1 => doneX k c1 d (f x))

/-- No source, one scalar result (R381). -/
def alu0 (v : Word) (d : Reg) (k : CoreKind) (c : Core) : Res := interlock k c [] [d] (doneX k c d v)

/-- Two scalar sources, a result written n tc after issue (R94). -/
def multi2 (n : Nat) (f : Word → Word → Word) (d a b : Reg) (k : CoreKind) (c : Core) : Res :=
  interlock k c [a, b] [d]
    (withX k c a fun x c1 => withX k c1 b fun y c2 =>
      .done { c2 with scalars := c2.scalars ++ [{ reg := d, remaining := n, value := f x y }] })

/-! ### Values -/

/-- Bits 64..127 of the signed product (R394). -/
def mulHigh (a b : Word) : Word := BitVec.ofInt 64 (a.toInt * b.toInt / 2 ^ 64)

/-- Bits 64..127 of the natural product (R394). -/
def mulHighNatural (a b : Word) : Word := BitVec.ofNat 64 (a.toNat * b.toNat / 2 ^ 64)

/-- The signed quotient rounded toward zero; all ones for divisor 0; −2^63 by −1 gives −2^63 (R349). -/
def divSigned (a b : Word) : Word := if b = 0#64 then BitVec.allOnes 64 else BitVec.ofInt 64 (a.toInt.tdiv b.toInt)

/-- The natural quotient rounded down; all ones for divisor 0 (R349). -/
def divNatural (a b : Word) : Word := if b = 0#64 then BitVec.allOnes 64 else a / b

/-- The remainder with the sign of xa; xa for divisor 0 (R349). -/
def remSigned (a b : Word) : Word := if b = 0#64 then a else BitVec.ofInt 64 (a.toInt.tmod b.toInt)

/-- The natural remainder; xa for divisor 0 (R349). -/
def remNatural (a b : Word) : Word := if b = 0#64 then a else a % b

/-- Zero bits above the highest set bit, looking at n bits (R345). -/
def leadingZeros (x : Word) (n : Nat) : Nat :=
  match n with
  | 0 => 0
  | n + 1 => if x.getLsbD n then 0 else 1 + leadingZeros x n

/-- Zero bits below the lowest set bit, from bit i, n bits left (R345). -/
def trailingZeros (x : Word) (i n : Nat) : Nat :=
  match n with
  | 0 => 0
  | n + 1 => if x.getLsbD i then 0 else 1 + trailingZeros x (i + 1) n

/-- Set bits among the low n (R345). -/
def setBits (x : Word) (n : Nat) : Nat :=
  match n with
  | 0 => 0
  | n + 1 => (if x.getLsbD n then 1 else 0) + setBits x n

/-! ### The instructions -/

/-- ADD (R332). -/
def execAdd (d a b : Reg) (s : State) : Out := runCore s (alu2 (fun x y => x + y) d a b)

/-- SUB (R332). -/
def execSub (d a b : Reg) (s : State) : Out := runCore s (alu2 (fun x y => x - y) d a b)

/-- AND (R332). -/
def execAnd (d a b : Reg) (s : State) : Out := runCore s (alu2 (fun x y => x &&& y) d a b)

/-- OR (R332). -/
def execOr (d a b : Reg) (s : State) : Out := runCore s (alu2 (fun x y => x ||| y) d a b)

/-- XOR (R332). -/
def execXor (d a b : Reg) (s : State) : Out := runCore s (alu2 (fun x y => x ^^^ y) d a b)

/-- ANDN: xa and not xb (R332). -/
def execAndn (d a b : Reg) (s : State) : Out := runCore s (alu2 (fun x y => x &&& ~~~y) d a b)

/-- SLL: zeros in (R332). -/
def execSll (d a b : Reg) (s : State) : Out := runCore s (alu2 (fun x y => x <<< amount y) d a b)

/-- SRL: zeros in (R332). -/
def execSrl (d a b : Reg) (s : State) : Out := runCore s (alu2 (fun x y => x >>> amount y) d a b)

/-- SRA: copies of bit 63 in (R332). -/
def execSra (d a b : Reg) (s : State) : Out := runCore s (alu2 (fun x y => x.sshiftRight (amount y)) d a b)

/-- SLT (R332). -/
def execSlt (d a b : Reg) (s : State) : Out := runCore s (alu2 (fun x y => flagWord (ltSigned x y)) d a b)

/-- SLTN (R332). -/
def execSltn (d a b : Reg) (s : State) : Out := runCore s (alu2 (fun x y => flagWord (ltNatural x y)) d a b)

/-- MIN, signed (R332). -/
def execMin (d a b : Reg) (s : State) : Out := runCore s (alu2 (minSigned) d a b)

/-- MAX, signed (R332). -/
def execMax (d a b : Reg) (s : State) : Out := runCore s (alu2 (maxSigned) d a b)

/-- MINN, natural (R332). -/
def execMinn (d a b : Reg) (s : State) : Out := runCore s (alu2 (minNatural) d a b)

/-- MAXN, natural (R332). -/
def execMaxn (d a b : Reg) (s : State) : Out := runCore s (alu2 (maxNatural) d a b)

/-- MUL: the low 64 bits, readable 3 tc after issue (R94, R394). -/
def execMul (d a b : Reg) (s : State) : Out := runCore s (multi2 3 (fun x y => x * y) d a b)

/-- MULH (R94, R394). -/
def execMulh (d a b : Reg) (s : State) : Out := runCore s (multi2 3 (mulHigh) d a b)

/-- MULHN (R94, R394). -/
def execMulhn (d a b : Reg) (s : State) : Out := runCore s (multi2 3 (mulHighNatural) d a b)

/-- DIV, readable 20 tc after issue (R94, R349). -/
def execDiv (d a b : Reg) (s : State) : Out := runCore s (multi2 20 (divSigned) d a b)

/-- DIVN (R94, R349). -/
def execDivn (d a b : Reg) (s : State) : Out := runCore s (multi2 20 (divNatural) d a b)

/-- REM (R94, R349). -/
def execRem (d a b : Reg) (s : State) : Out := runCore s (multi2 20 (remSigned) d a b)

/-- REMN (R94, R349). -/
def execRemn (d a b : Reg) (s : State) : Out := runCore s (multi2 20 (remNatural) d a b)

/-- CLZ: 64 for 0 (R345). -/
def execClz (d a : Reg) (s : State) : Out := runCore s (alu1 (fun x => BitVec.ofNat 64 (leadingZeros x 64)) d a)

/-- CTZ: 64 for 0 (R345). -/
def execCtz (d a : Reg) (s : State) : Out := runCore s (alu1 (fun x => BitVec.ofNat 64 (trailingZeros x 0 64)) d a)

/-- POPC (R345). -/
def execPopc (d a : Reg) (s : State) : Out := runCore s (alu1 (fun x => BitVec.ofNat 64 (setBits x 64)) d a)

/-- CMOV: both sources are read and ports popped in either case; no write and no push when xb is zero (R346). -/
def execCmov (d a b : Reg) (s : State) : Out :=
  runCore s fun k c =>
    interlock k c [a, b] [d] (withX k c a fun x c1 => withX k c1 b fun y c2 => if y = 0#64 then .done c2 else doneX k c2 d x)

/-- ADDI (R333). -/
def execAddi (d a : Reg) (imm : BitVec 16) (s : State) : Out := runCore s (alu1 (fun x => x + sext imm) d a)

/-- ANDI (R333). -/
def execAndi (d a : Reg) (imm : BitVec 16) (s : State) : Out := runCore s (alu1 (fun x => x &&& zext imm) d a)

/-- ORI (R333). -/
def execOri (d a : Reg) (imm : BitVec 16) (s : State) : Out := runCore s (alu1 (fun x => x ||| zext imm) d a)

/-- XORI (R333). -/
def execXori (d a : Reg) (imm : BitVec 16) (s : State) : Out := runCore s (alu1 (fun x => x ^^^ zext imm) d a)

/-- SLLI (R400). -/
def execSlli (d a : Reg) (sh : BitVec 6) (s : State) : Out := runCore s (alu1 (fun x => x <<< sh.toNat) d a)

/-- SRLI (R400). -/
def execSrli (d a : Reg) (sh : BitVec 6) (s : State) : Out := runCore s (alu1 (fun x => x >>> sh.toNat) d a)

/-- SRAI (R400). -/
def execSrai (d a : Reg) (sh : BitVec 6) (s : State) : Out := runCore s (alu1 (fun x => x.sshiftRight sh.toNat) d a)

/-- RORI (R400). -/
def execRori (d a : Reg) (sh : BitVec 6) (s : State) : Out := runCore s (alu1 (fun x => x.rotateRight sh.toNat) d a)

/-- SLTI (R333). -/
def execSlti (d a : Reg) (imm : BitVec 16) (s : State) : Out := runCore s (alu1 (fun x => flagWord (ltSigned x (sext imm))) d a)

/-- SLTNI (R333). -/
def execSltni (d a : Reg) (imm : BitVec 16) (s : State) : Out := runCore s (alu1 (fun x => flagWord (ltNatural x (sext imm))) d a)

/-- LI (R381). -/
def execLi (d : Reg) (imm : BitVec 21) (s : State) : Out := runCore s (alu0 (sext imm) d)

/-- LIS: xd shifted left by 21, the immediate in its low bits (R381). -/
def execLis (d : Reg) (imm : BitVec 21) (s : State) : Out := runCore s (alu1 (fun x => (x <<< 21) ||| zext imm) d d)

/-- ADDPC: the byte offset of a label; one outside the slot raises ILLEGAL with the target (R60, R334). -/
def execAddpc (d : Reg) (imm : BitVec 21) (s : State) : Out :=
  runCore s fun k c =>
    let t := target c.pc imm
    if inSlot t then alu0 (asWord t) d k c else raise .illegal (asWord t)

/-- EXTS (R356). -/
def execExts (d a : Reg) (pos len1 : BitVec 6) (s : State) : Out := runCore s (alu1 (fun x => extsOf x pos len1) d a)

/-- EXTZ (R356). -/
def execExtz (d a : Reg) (pos len1 : BitVec 6) (s : State) : Out := runCore s (alu1 (fun x => extzOf x pos len1) d a)

/-- INS: reads xd as well (R356). -/
def execIns (d a : Reg) (pos len1 : BitVec 6) (s : State) : Out :=
  runCore s (alu2 (fun x y => insOf y x pos len1) d a d)

end Sys2Proof.Machine
end

