-- ==== Sys2Proof/Machine/Vector.lean ====
section
/-! DEFINITION. Vector instructions on integers, compares, moves and predicates (R49, R86, R87, R95 to R99, R141, R397, R418,
R419, R424, R425). -/

namespace Sys2Proof.Machine

/-! ### Elements (R4, R49) -/

/-- Element i of width w. -/
def elem (v : VWord) (w i : Nat) : Nat := bits v.toNat (w * i) w

/-- The first n elements of width w. -/
def elems (v : VWord) (w n : Nat) : List Nat := (List.range n).map (elem v w)

/-- The number whose elements of width w are given, element 0 lowest. -/
def packNat (w : Nat) (es : List Nat) : Nat := es.foldr (fun e acc => e % 2 ^ w + 2 ^ w * acc) 0

/-- A register of given elements, zeros above them. -/
def pack (w : Nat) (es : List Nat) : VWord := BitVec.ofNat 1024 (packNat w es)

/-- The bits of the first n elements of width w whose predicate bit is set. -/
def elemMask (w n : Nat) (p : PWord) : VWord :=
  pack w ((List.range n).map fun i => if p.getLsbD i then 2 ^ w - 1 else 0)

/-- No predicate bit is set among n elements. -/
def noneSet (p : PWord) (n : Nat) : Bool := (List.range n).all fun i => !p.getLsbD i

/-! ### Landing (R95 to R99) -/

/-- A result of n elements of width w goes in flight: enabled elements land; one for a port with no element enabled pushes
nothing (R97, R99). -/
def landElems (k : CoreKind) (c : Core) (d : Reg) (w n : Nat) (p : PReg) (L : Nat) (rs : List Nat) : Core :=
  let e := readP c p
  if isPort k d && noneSet e n then c
  else launchResult c { kind := .v, reg := d.toNat, remaining := L, enable := e, mask := elemMask w n e, value := pack w rs }

/-- A whole register goes in flight. -/
def landWhole (c : Core) (d : Reg) (L : Nat) (v : VWord) : Core :=
  launchResult c { kind := .v, reg := d.toNat, remaining := L, enable := BitVec.allOnes 128, mask := BitVec.allOnes 1024,
                   value := v }

/-- A whole predicate goes in flight. -/
def landPred (c : Core) (d : PReg) (v : PWord) : Core :=
  launchResult c { kind := .p, reg := d.toNat, remaining := 2, enable := BitVec.allOnes 128, mask := BitVec.allOnes 1024,
                   value := v.setWidth 1024 }

/-- A result of the vector unit for a scalar register goes in flight (R98); one for a register that a multi-cycle scalar result
is to write waits for that. -/
def landScalar (k : CoreKind) (c : Core) (d : Reg) (v : Word) : Res :=
  if !isPort k d && scalarBusy c d then .hold
  else
    .done (launchResult c { kind := .x, reg := d.toNat, remaining := 2, enable := BitVec.allOnes 128,
                            mask := BitVec.allOnes 1024, value := v.setWidth 1024 })

/-! ### The frame of R418 -/

/-- Two vector sources, element by element. -/
def vec2 (w L : Nat) (f : Nat → Nat → Nat) (p : PReg) (d a b : Reg) (k : CoreKind) (c : Core) : Res :=
  withV k c a fun x c1 => withV k c1 b fun y c2 =>
    let n := 1024 / w
    .done (landElems k c2 d w n p L (((elems x w n).zip (elems y w n)).map fun e => f e.1 e.2))

/-- One vector source, element by element. -/
def vec1 (w L : Nat) (f : Nat → Nat) (p : PReg) (d a : Reg) (k : CoreKind) (c : Core) : Res :=
  withV k c a fun x c1 =>
    let n := 1024 / w
    .done (landElems k c1 d w n p L ((elems x w n).map f))

/-! ### VINT (R86, R141, R418) -/

/-- Element width of an integer type. -/
def vWidth (t : VType) : Nat :=
  match t with
  | .s8 | .n8 => 8
  | .s16 | .n16 => 16
  | .s32 | .n32 => 32

/-- The type is signed. -/
def vSigned (t : VType) : Bool :=
  match t with
  | .s8 | .s16 | .s32 => true
  | .n8 | .n16 | .n32 => false

/-- The value of an element in its type's signedness. -/
def vVal (t : VType) (x : Nat) : Int := if vSigned t then sgn (vWidth t) x else (x : Int)

/-- The range of a type. -/
def vLow (t : VType) : Int := if vSigned t then -(2 ^ (vWidth t - 1) : Int) else 0
/-- The upper end of the range of a type. -/
def vHigh (t : VType) : Int := if vSigned t then 2 ^ (vWidth t - 1) - 1 else 2 ^ vWidth t - 1

/-- Clamp an exact value to a range. -/
def clamp (lo hi v : Int) : Int := if v < lo then lo else if hi < v then hi else v

/-- Copies of the top bit shifted in from the left. -/
def shiftArith (w x n : Nat) : Nat := wrap w (sgn w x / (2 ^ n : Int))

/-- A binary integer operation given on exact values, wrapped to the width. -/
def vint2 (t : VType) (L : Nat) (f : Int → Int → Int) (p : PReg) (d a b : Reg) (s : State) : Out :=
  runCore s (vec2 (vWidth t) L (fun x y => wrap (vWidth t) (f (vVal t x) (vVal t y))) p d a b)

/-- A binary operation on bits. -/
def vbits2 (t : VType) (f : Nat → Nat → Nat) (p : PReg) (d a b : Reg) (s : State) : Out :=
  runCore s (vec2 (vWidth t) 2 f p d a b)

/-- VADD. -/
def execVadd (t : VType) (p : PReg) (d a b : Reg) (s : State) : Out := vint2 t 2 (· + ·) p d a b s
/-- VSUB. -/
def execVsub (t : VType) (p : PReg) (d a b : Reg) (s : State) : Out := vint2 t 2 (· - ·) p d a b s
/-- VMUL: the low half, L = 4. -/
def execVmul (t : VType) (p : PReg) (d a b : Reg) (s : State) : Out := vint2 t 4 (· * ·) p d a b s
/-- VMIN. -/
def execVmin (t : VType) (p : PReg) (d a b : Reg) (s : State) : Out :=
  vint2 t 2 (fun x y => if y < x then y else x) p d a b s
/-- VMAX. -/
def execVmax (t : VType) (p : PReg) (d a b : Reg) (s : State) : Out :=
  vint2 t 2 (fun x y => if x < y then y else x) p d a b s
/-- VAND. -/
def execVand (t : VType) (p : PReg) (d a b : Reg) (s : State) : Out := vbits2 t Nat.land p d a b s
/-- VOR. -/
def execVor (t : VType) (p : PReg) (d a b : Reg) (s : State) : Out := vbits2 t Nat.lor p d a b s
/-- VXOR. -/
def execVxor (t : VType) (p : PReg) (d a b : Reg) (s : State) : Out := vbits2 t Nat.xor p d a b s
/-- VSHL: the count is the element of vb modulo the width. -/
def execVshl (t : VType) (p : PReg) (d a b : Reg) (s : State) : Out :=
  vbits2 t (fun x y => x * 2 ^ (y % vWidth t)) p d a b s
/-- VSHR: zeros shifted in. -/
def execVshr (t : VType) (p : PReg) (d a b : Reg) (s : State) : Out :=
  vbits2 t (fun x y => x / 2 ^ (y % vWidth t)) p d a b s
/-- VSRA: copies of the top bit shifted in, whatever the signedness of the type. -/
def execVsra (t : VType) (p : PReg) (d a b : Reg) (s : State) : Out :=
  vbits2 t (fun x y => shiftArith (vWidth t) x (y % vWidth t)) p d a b s
/-- VABS. -/
def execVabs (t : VType) (p : PReg) (d a : Reg) (s : State) : Out :=
  runCore s (vec1 (vWidth t) 2 (fun x => wrap (vWidth t) ((vVal t x).natAbs : Int)) p d a)
/-- VNEG. -/
def execVneg (t : VType) (p : PReg) (d a : Reg) (s : State) : Out :=
  runCore s (vec1 (vWidth t) 2 (fun x => wrap (vWidth t) (0 - vVal t x)) p d a)
/-- VADDS. -/
def execVadds (t : VType) (p : PReg) (d a b : Reg) (s : State) : Out :=
  vint2 t 2 (fun x y => clamp (vLow t) (vHigh t) (x + y)) p d a b s
/-- VSUBS. -/
def execVsubs (t : VType) (p : PReg) (d a b : Reg) (s : State) : Out :=
  vint2 t 2 (fun x y => clamp (vLow t) (vHigh t) (x - y)) p d a b s

/-! ### VMOVE (R424, R425) -/

/-- Element width of a size code. -/
def szWidth (sz : BitVec 2) : Nat := 8 * 2 ^ sz.toNat

/-- VSEL: enabled elements of va. -/
def execVsel (sz : BitVec 2) (p : PReg) (d a : Reg) (s : State) : Out := runCore s (vec1 (szWidth sz) 2 id p d a)

/-- VSPLAT. -/
def execVsplat (sz : BitVec 2) (d a : Reg) (s : State) : Out :=
  runCore s fun k c => interlock k c [a] [] (withX k c a fun x c1 =>
    let w := szWidth sz
    .done (landWhole c1 d 2 (pack w (List.replicate (1024 / w) x.toNat))))

/-- VMOVX: interlocked (R98). -/
def execVmovx (sz : BitVec 2) (d a b : Reg) (s : State) : Out :=
  runCore s fun k c => interlock k c [b] [] (withV k c a fun v c1 => withX k c1 b fun y c2 =>
    let w := szWidth sz
    landScalar k c2 d (BitVec.ofNat 64 (elem v w (y.toNat % (1024 / w)))))

/-- VINS: one element lands, and the record's enable holds its bit alone (R110, R424; log 163). -/
def execVins (sz : BitVec 2) (d a b : Reg) (s : State) : Out :=
  runCore s fun k c => interlock k c [a, b] [] (withX k c a fun x c1 => withX k c1 b fun y c2 =>
    let w := szWidth sz
    let i := y.toNat % (1024 / w)
    .done (launchResult c2
      { kind := .v, reg := d.toNat, remaining := 2, enable := 1#128 <<< i, mask := elemMask w (1024 / w) (1#128 <<< i),
        value := BitVec.ofNat 1024 (x.toNat % 2 ^ w * 2 ^ (w * i)) }))

/-- VSHUF: the predicate governs bytes. -/
def execVshuf (p : PReg) (d a b : Reg) (s : State) : Out :=
  runCore s fun k c => withV k c a fun x c1 => withV k c1 b fun y c2 =>
    .done (landElems k c2 d 8 128 p 4 ((elems y 8 128).map fun i => elem x 8 (i % 128)))

/-- VROT: the predicate governs bytes. -/
def execVrot (p : PReg) (d a b : Reg) (s : State) : Out :=
  runCore s fun k c => interlock k c [b] [] (withV k c a fun x c1 => withX k c1 b fun y c2 =>
    .done (landElems k c2 d 8 128 p 4 ((List.range 128).map fun i => elem x 8 ((i + y.toNat) % 128))))

/-- VIOTA. -/
def execViota (sz : BitVec 2) (d : Reg) (s : State) : Out :=
  runCore s fun _ c => .done (landWhole c d 2 (pack (szWidth sz) (List.range (1024 / szWidth sz))))

/-! ### Predicates (R397) -/

/-- Two predicate sources. -/
def pred2 (f : PWord → PWord → PWord) (d a b : PReg) (_ : CoreKind) (c : Core) : Res :=
  .done (landPred c d (f (readP c a) (readP c b)))

/-- PAND. -/
def execPand (d a b : PReg) (s : State) : Out := runCore s (pred2 (· &&& ·) d a b)
/-- POR. -/
def execPor (d a b : PReg) (s : State) : Out := runCore s (pred2 (· ||| ·) d a b)
/-- PXOR. -/
def execPxor (d a b : PReg) (s : State) : Out := runCore s (pred2 (· ^^^ ·) d a b)
/-- PNOT: all 128 bits. -/
def execPnot (d a : PReg) (s : State) : Out := runCore s fun _ c => .done (landPred c d (~~~(readP c a)))

/-- PCNT. -/
def execPcnt (d : Reg) (a : PReg) (s : State) : Out :=
  runCore s fun k c =>
    landScalar k c d (BitVec.ofNat 64 ((List.range 128).filter fun i => (readP c a).getLsbD i).length)

/-- PFIRST: 128 if no bit is set. -/
def execPfirst (d : Reg) (a : PReg) (s : State) : Out :=
  runCore s fun k c => landScalar k c d (BitVec.ofNat 64 ((firstFrom (fun i => (readP c a).getLsbD i) 0 128).getD 128))

/-- PSET. -/
def execPset (d : PReg) (a : Reg) (s : State) : Out :=
  runCore s fun k c => interlock k c [a] [] (withX k c a fun x c1 => .done (landPred c1 d (predLow (Nat.min x.toNat 128))))

end Sys2Proof.Machine
end

