-- ==== Sys2Proof/Machine/VFloat.lean ====
section
/-! DEFINITION. Vector instructions on floating elements: VFLT, VFMA, VCMP, VCVT, VRED (R87, R88, R132 to R140, R144, R419 to
R423). -/

namespace Sys2Proof.Machine

/-- The format of a floating type. -/
def fmtOf (t : FType) : Fmt :=
  match t with
  | .bf16 => bf16
  | .f32 => fp32

/-! ### VFLT (R134, R135, R422) -/

/-- A binary floating operation given on exact values and rounded once. -/
def vflt2 (t : FType) (f : FVal → FVal → FVal) (p : PReg) (d a b : Reg) (s : State) : Out :=
  let F := fmtOf t
  runCore s (vec2 F.n 4 (fun x y => roundF F .rne false (f (decodeF F x) (decodeF F y))) p d a b)

/-- A unary floating operation given on exact values and rounded once. -/
def vfun1 (t : FType) (f : FVal → FVal) (p : PReg) (d a : Reg) (s : State) : Out :=
  let F := fmtOf t
  runCore s (vec1 F.n 6 (fun x => roundF F .rne false (f (decodeF F x))) p d a)

/-- VFADD. -/
def execVfadd (t : FType) (p : PReg) (d a b : Reg) (s : State) : Out := vflt2 t FVal.add p d a b s
/-- VFSUB. -/
def execVfsub (t : FType) (p : PReg) (d a b : Reg) (s : State) : Out := vflt2 t (fun x y => x.add y.negate) p d a b s
/-- VFMUL. -/
def execVfmul (t : FType) (p : PReg) (d a b : Reg) (s : State) : Out := vflt2 t FVal.mul p d a b s
/-- VFMIN. -/
def execVfmin (t : FType) (p : PReg) (d a b : Reg) (s : State) : Out :=
  runCore s (vec2 (fmtOf t).n 4 (minMaxF (fmtOf t) false) p d a b)
/-- VFMAX. -/
def execVfmax (t : FType) (p : PReg) (d a b : Reg) (s : State) : Out :=
  runCore s (vec2 (fmtOf t).n 4 (minMaxF (fmtOf t) true) p d a b)
/-- VFABS: every code. -/
def execVfabs (t : FType) (p : PReg) (d a : Reg) (s : State) : Out :=
  runCore s (vec1 (fmtOf t).n 4 (fun x => x % 2 ^ ((fmtOf t).n - 1)) p d a)
/-- VFNEG: every code. -/
def execVfneg (t : FType) (p : PReg) (d a : Reg) (s : State) : Out :=
  runCore s (vec1 (fmtOf t).n 4 (fun x => Nat.xor x (2 ^ ((fmtOf t).n - 1))) p d a)
/-- VFEXP2. -/
def execVfexp2 (t : FType) (p : PReg) (d a : Reg) (s : State) : Out := vfun1 t exp2Val p d a s
/-- VFLOG2. -/
def execVflog2 (t : FType) (p : PReg) (d a : Reg) (s : State) : Out := vfun1 t log2Val p d a s
/-- VFRCP. -/
def execVfrcp (t : FType) (p : PReg) (d a : Reg) (s : State) : Out := vfun1 t recipVal p d a s
/-- VFRSQ. -/
def execVfrsq (t : FType) (p : PReg) (d a : Reg) (s : State) : Out := vfun1 t rsqrtVal p d a s

/-! ### VFMA (R134, R423) -/

/-- x × y + z, or x × y − z, rounded once. -/
def fusedCode (F : Fmt) (sub : Bool) (x y z : Nat) : Nat :=
  let w := decodeF F z
  roundF F .rne false (((decodeF F x).mul (decodeF F y)).add (if sub then w.negate else w))

/-- A fused member. -/
def fused (F : Fmt) (sub : Bool) (p : PReg) (d a b c3 : Reg) (s : State) : Out :=
  runCore s fun k c => withV k c a fun x c1 => withV k c1 b fun y c2 => withV k c2 c3 fun z c4 =>
    let n := 1024 / F.n
    .done (landElems k c4 d F.n n p 6 ((List.range n).map fun i =>
      fusedCode F sub (elem x F.n i) (elem y F.n i) (elem z F.n i)))

/-- VFMA.F32. -/
def execVfmaF32 (p : PReg) (d a b c : Reg) (s : State) : Out := fused fp32 false p d a b c s
/-- VFMA.BF16. -/
def execVfmaBf16 (p : PReg) (d a b c : Reg) (s : State) : Out := fused bf16 false p d a b c s
/-- VFMS.F32. -/
def execVfmsF32 (p : PReg) (d a b c : Reg) (s : State) : Out := fused fp32 true p d a b c s
/-- VFMS.BF16. -/
def execVfmsBf16 (p : PReg) (d a b c : Reg) (s : State) : Out := fused bf16 true p d a b c s

/-! ### VCMP (R87, R419) -/

/-- A condition from equality and order. -/
def condHolds (cond : VCond) (eq lt : Bool) : Bool :=
  match cond with
  | .eq => eq
  | .ne => !eq
  | .lt => lt
  | .le => lt || eq
  | .gt => !lt && !eq
  | .ge => !lt

/-- A condition on two codes of a type: with a NaN operand only NE holds. -/
def compareCodes (cond : VCond) (t : CType) (x y : Nat) : Bool :=
  match t with
  | .int i => condHolds cond (vVal i x == vVal i y) (decide (vVal i x < vVal i y))
  | .flt f =>
    let u := decodeF (fmtOf f) x
    let v := decodeF (fmtOf f) y
    if u.isNan || v.isNan then cond == .ne else condHolds cond (u.numEq v) (u.numLt v)

/-- Element width of a compare's type. -/
def cWidth (t : CType) : Nat :=
  match t with
  | .int i => vWidth i
  | .flt f => (fmtOf f).n

/-- A predicate from its first bits, zeros above. -/
def packBits (bs : List Bool) : PWord := BitVec.ofNat 128 (bs.foldr (fun b acc => (if b then 1 else 0) + 2 * acc) 0)

/-- VCMP. -/
def execVcmp (cond : VCond) (t : CType) (p d : PReg) (a b : Reg) (s : State) : Out :=
  runCore s fun k c => withV k c a fun x c1 => withV k c1 b fun y c2 =>
    let w := cWidth t
    .done (landPred c2 d (packBits ((List.range (1024 / w)).map fun i =>
      (readP c2 p).getLsbD i && compareCodes cond t (elem x w i) (elem y w i))))

/-! ### VCVT (R88, R136 to R140, R420) -/

/-- A conversion: n elements of source width ws to n of result width wr; the bits above the results become 0 even with no
element enabled. -/
def convert (ws wr n : Nat) (f : Nat → Nat) (p : PReg) (d a : Reg) (s : State) : Out :=
  runCore s fun k c => withV k c a fun x c1 =>
    let e := readP c1 p
    if isPort k d && noneSet e n then .done c1
    else
      .done (launchResult c1
        { kind := .v, reg := d.toNat, remaining := 4, enable := e,
          mask := elemMask wr n e ||| (BitVec.allOnes 1024 <<< (wr * n)), value := pack wr ((elems x ws n).map f) })

/-- A floating result with .Z: a NaN becomes +0 (R137). -/
def zeroNan (F : Fmt) (z : Bool) (v : Nat) : Nat := if z && (decodeF F v).isNan then 0 else v

/-- A floating conversion (R137). -/
def convF (src dst : Fmt) (rnd : Rnd) (sat z : Bool) (x : Nat) : Nat := zeroNan dst z (roundF dst rnd sat (decodeF src x))

/-- The rounding mode of a route that takes RNE and RTZ only. -/
def rndOf (rtz : Bool) : Rnd := if rtz then .rtz else .rne

/-- Route 0. -/
def execVcvtF32Bf16 (rnd : Rnd) (sat z : Bool) (p : PReg) (d a : Reg) (s : State) : Out :=
  convert 32 16 32 (convF fp32 bf16 rnd sat z) p d a s
/-- Route 1: NaN bits stay. -/
def execVcvtBf16F32 (z : Bool) (p : PReg) (d a : Reg) (s : State) : Out :=
  convert 16 32 32 (fun x => zeroNan fp32 z (x * 2 ^ 16)) p d a s
/-- Route 2. -/
def execVcvtF32E4m3 (rnd : Rnd) (sat z : Bool) (p : PReg) (d a : Reg) (s : State) : Out :=
  convert 32 8 32 (convF fp32 e4m3 rnd sat z) p d a s
/-- Route 3. -/
def execVcvtF32E5m2 (rnd : Rnd) (sat z : Bool) (p : PReg) (d a : Reg) (s : State) : Out :=
  convert 32 8 32 (convF fp32 e5m2 rnd sat z) p d a s
/-- Route 4. -/
def execVcvtBf16E4m3 (rnd : Rnd) (sat z : Bool) (p : PReg) (d a : Reg) (s : State) : Out :=
  convert 16 8 64 (convF bf16 e4m3 rnd sat z) p d a s
/-- Route 5. -/
def execVcvtBf16E5m2 (rnd : Rnd) (sat z : Bool) (p : PReg) (d a : Reg) (s : State) : Out :=
  convert 16 8 64 (convF bf16 e5m2 rnd sat z) p d a s
/-- Route 6. -/
def execVcvtE4m3Bf16 (z : Bool) (p : PReg) (d a : Reg) (s : State) : Out :=
  convert 8 16 64 (convF e4m3 bf16 .rne false z) p d a s
/-- Route 7. -/
def execVcvtE5m2Bf16 (z : Bool) (p : PReg) (d a : Reg) (s : State) : Out :=
  convert 8 16 64 (convF e5m2 bf16 .rne false z) p d a s
/-- Route 8: .Z changes nothing. -/
def execVcvtF32S32 (rtz sat _z : Bool) (p : PReg) (d a : Reg) (s : State) : Out :=
  convert 32 32 32 (fun x => toInt32 (rndOf rtz) sat true (decodeF fp32 x)) p d a s
/-- Route 9: .S changes nothing. -/
def execVcvtS32F32 (rnd : Rnd) (_sat : Bool) (p : PReg) (d a : Reg) (s : State) : Out :=
  convert 32 32 32 (fun x => roundF fp32 rnd false (intVal (sgn 32 x))) p d a s
/-- Route 10: .Z changes nothing. -/
def execVcvtF32N32 (rtz sat _z : Bool) (p : PReg) (d a : Reg) (s : State) : Out :=
  convert 32 32 32 (fun x => toInt32 (rndOf rtz) sat false (decodeF fp32 x)) p d a s
/-- Route 11: .S changes nothing. -/
def execVcvtN32F32 (rnd : Rnd) (_sat : Bool) (p : PReg) (d a : Reg) (s : State) : Out :=
  convert 32 32 32 (fun x => roundF fp32 rnd false (intVal x)) p d a s
/-- Route 12. -/
def execVcvtS32S16 (sat : Bool) (p : PReg) (d a : Reg) (s : State) : Out :=
  convert 32 16 32 (fun x => if sat then wrap 16 (clamp (-(2 ^ 15)) (2 ^ 15 - 1) (sgn 32 x)) else x % 2 ^ 16) p d a s
/-- Route 13. -/
def execVcvtS16S8 (sat : Bool) (p : PReg) (d a : Reg) (s : State) : Out :=
  convert 16 8 64 (fun x => if sat then wrap 8 (clamp (-128) 127 (sgn 16 x)) else x % 2 ^ 8) p d a s

/-- One element of route 14 (R140). -/
def convScaled (rnd : Rnd) (sat z : Bool) (nibble scale : Nat) : Nat :=
  zeroNan e4m3 z (roundF e4m3 rnd sat ((decodeF e2m1 nibble).mul (decodeE8M0 scale)))

/-- Route 14: the scales stand in bytes 0..3 of vb. -/
def execVcvtE2m1E4m3 (rnd : Rnd) (sat z : Bool) (p : PReg) (d a b : Reg) (s : State) : Out :=
  runCore s fun k c => withV k c a fun x c1 => withV k c1 b fun y c2 =>
    .done (landElems k c2 d 8 128 p 4 ((List.range 128).map fun i =>
      convScaled rnd sat z (elem x 4 i) (elem y 8 (i / 32))))

/-! ### VRED (R144, R421) -/

/-- One level of the tree: neighbours combined. -/
def pairUp (f : Nat → Nat → Nat) (l : List Nat) : List Nat :=
  match l with
  | x :: y :: r => f x y :: pairUp f r
  | l => l

/-- The five levels over 32 terms. -/
def tree (f : Nat → Nat → Nat) (l : List Nat) : Nat :=
  (pairUp f (pairUp f (pairUp f (pairUp f (pairUp f l))))).headD 0

/-- A reduction of FP32 elements. -/
def reduce (f : Nat → Nat → Nat) (ident : Nat) (p : PReg) (d a : Reg) (s : State) : Out :=
  runCore s fun k c => withV k c a fun x c1 =>
    .done (landWhole c1 d 6 (BitVec.ofNat 1024 (tree f ((List.range 32).map fun i =>
      if (readP c1 p).getLsbD i then elem x 32 i else ident) % 2 ^ 32)))

/-- VRADD. -/
def execVradd (p : PReg) (d a : Reg) (s : State) : Out := reduce addF32 0 p d a s
/-- VRMAX. -/
def execVrmax (p : PReg) (d a : Reg) (s : State) : Out := reduce (minMaxF fp32 true) 0xFF800000 p d a s
/-- VRMIN. -/
def execVrmin (p : PReg) (d a : Reg) (s : State) : Out := reduce (minMaxF fp32 false) 0x7F800000 p d a s

/-- A product of VDOT; a disabled one counts as +0. -/
def dotTerm (p : PWord) (x y : VWord) (i : Nat) : FVal :=
  if p.getLsbD i then (decodeF bf16 (elem x 16 i)).mul (decodeF bf16 (elem y 16 i)) else .fin false 0 0

/-- VDOT. -/
def execVdot (p : PReg) (d a b : Reg) (s : State) : Out :=
  runCore s fun k c => withV k c a fun x c1 => withV k c1 b fun y c2 =>
    let e := readP c2 p
    .done (landWhole c2 d 6 (BitVec.ofNat 1024 (tree addF32 ((List.range 32).map fun i =>
      f32 ((dotTerm e x y (2 * i)).add (dotTerm e x y (2 * i + 1)))) % 2 ^ 32)))

end Sys2Proof.Machine
end

