-- ==== Sys2Proof/Machine/VScratch.lean ====
section
/-! DEFINITION. Vector loads and stores of scratch: VLD, VST, VLDX, VSTX, VLDB (R96, R100, R166, R172, R176, R262, R263, R426 to
R428). -/

namespace Sys2Proof.Machine

/-- The scratch offset of VLD and VST. -/
def vecOffset (x : Word) (imm : Word) : Nat := tileOffset (tileAddr (x + 128#64 * imm))

/-- The first check of a vector access of n bytes at o that fails. -/
def vecCheck (s : State) (k : CoreKind) (c : Core) (o n : Nat) : Option Trap :=
  if o % n != 0 then some { cause := .align, addr := BitVec.ofNat 64 o } else localBound s k c o n

/-- VLD (R426). -/
def execVld (d a : Reg) (imm : BitVec 13) (s : State) : Out :=
  runCore s fun k c => interlock k c [a] [] (withX k c a fun x c1 =>
    let o := vecOffset x (sext imm)
    match vecCheck s k c1 o 128 with
    | some t => .trap t
    | none => localRead c1 o 128 fun bs c2 => .done (landWhole c2 d 4 (BitVec.ofNat 1024 (ofBytes bs))))

/-- VST (R428). -/
def execVst (src a : Reg) (imm : BitVec 14) (s : State) : Out :=
  runCore s fun k c => interlock k c [a] [] (withV k c src fun v c1 => withX k c1 a fun x c2 =>
    let o := vecOffset x (sext imm)
    match vecCheck s k c2 o 128 with
    | some t => .trap t
    | none => localWrite s k c2 ((List.range 128).map (o + ·)) (toBytes 128 v.toNat) fun c3 => .done c3)

/-- The enabled elements of an indexed access with their offsets, in increasing element (R427). -/
def indexed (p : PWord) (x : Word) (v : VWord) : List (Nat × Nat) :=
  ((List.range 32).filter fun i => p.getLsbD i).map fun i =>
    (i, tileOffset (tileAddr (x + BitVec.ofNat 64 (elem v 32 i))))

/-- The first failing check of an indexed access. -/
def indexedCheck (s : State) (k : CoreKind) (c : Core) (es : List (Nat × Nat)) : Option Trap :=
  es.findSome? fun e => vecCheck s k c e.2 4

/-- The byte offsets of words, in order. -/
def wordBytes (es : List (Nat × Nat)) : List Nat := es.flatMap fun e => (List.range 4).map (e.2 + ·)

/-- The words at offsets, as the core reads them. -/
def wordsAt (c : Core) (es : List (Nat × Nat)) : List (Nat × Nat) := es.map fun e => (e.1, ofBytes (scratchRead c e.2 4))

/-- The element of a list of words by element number. -/
def wordOf (ws : List (Nat × Nat)) (i : Nat) : Nat := (tfind ws i).getD 0

/-- VLDX (R427). -/
def execVldx (p : PReg) (d a b : Reg) (s : State) : Out :=
  runCore s fun k c => interlock k c [b] [] (withV k c a fun v c1 => withX k c1 b fun x c2 =>
    let es := indexed (readP c2 p) x v
    match indexedCheck s k c2 es with
    | some t => .trap t
    | none =>
      if scoreConflict c2.score (es.flatMap fun e => boundRanges c2.bufs (fun b => b.vis) e.2 4) [] then .freeze .scoreboard
      else
        let ws := wordsAt c2 es
        let c3 := readEvent (consumeScratch c2 ((wordBytes es).map (visible c2.bufs))) ((es.head?.map (·.2)).getD 0)
        .done (landElems k (if es.isEmpty then c2 else c3) d 32 32 p 6 ((List.range 32).map (wordOf ws))))

/-- VSTX (R427): a repeated offset keeps the highest element. -/
def execVstx (p : PReg) (src a b : Reg) (s : State) : Out :=
  runCore s fun k c =>
    interlock k c [b] [] (withV k c src fun w c1 => withV k c1 a fun v c2 => withX k c2 b fun x c3 =>
      let es := indexed (readP c3 p) x v
      match indexedCheck s k c3 es with
      | some t => .trap t
      | none => localWrite s k c3 (wordBytes es) (es.flatMap fun e => toBytes 4 (elem w 32 e.1)) fun c4 => .done c4)

/-- VLDB (R427). -/
def execVldb (d a : Reg) (s : State) : Out :=
  runCore s fun k c => interlock k c [a] [] (withX k c a fun x c1 =>
    let o := tileOffset (tileAddr x)
    match vecCheck s k c1 o 4 with
    | some t => .trap t
    | none => localRead c1 o 4 fun bs c2 => .done (landWhole c2 d 4 (pack 32 (List.replicate 32 (ofBytes bs)))))

end Sys2Proof.Machine
end

