-- ==== Sys2Proof/Machine/Dispatch.lean ====
section
/-! DEFINITION. The meaning of each instruction and event: one arm per constructor of Instr, each a direct call. -/

namespace Sys2Proof.Machine

def exec (i : Instr) (s : State) : Host.Outcome State Fault Refusal :=
  match i with
  | .add d a b => Sys2Proof.Machine.execAdd d a b s
  | .sub d a b => Sys2Proof.Machine.execSub d a b s
  | .and d a b => Sys2Proof.Machine.execAnd d a b s
  | .or d a b => Sys2Proof.Machine.execOr d a b s
  | .xor d a b => Sys2Proof.Machine.execXor d a b s
  | .andn d a b => Sys2Proof.Machine.execAndn d a b s
  | .sll d a b => Sys2Proof.Machine.execSll d a b s
  | .srl d a b => Sys2Proof.Machine.execSrl d a b s
  | .sra d a b => Sys2Proof.Machine.execSra d a b s
  | .slt d a b => Sys2Proof.Machine.execSlt d a b s
  | .sltn d a b => Sys2Proof.Machine.execSltn d a b s
  | .min d a b => Sys2Proof.Machine.execMin d a b s
  | .max d a b => Sys2Proof.Machine.execMax d a b s
  | .minn d a b => Sys2Proof.Machine.execMinn d a b s
  | .maxn d a b => Sys2Proof.Machine.execMaxn d a b s
  | .mul d a b => Sys2Proof.Machine.execMul d a b s
  | .mulh d a b => Sys2Proof.Machine.execMulh d a b s
  | .mulhn d a b => Sys2Proof.Machine.execMulhn d a b s
  | .div d a b => Sys2Proof.Machine.execDiv d a b s
  | .divn d a b => Sys2Proof.Machine.execDivn d a b s
  | .rem d a b => Sys2Proof.Machine.execRem d a b s
  | .remn d a b => Sys2Proof.Machine.execRemn d a b s
  | .clz d a => Sys2Proof.Machine.execClz d a s
  | .ctz d a => Sys2Proof.Machine.execCtz d a s
  | .popc d a => Sys2Proof.Machine.execPopc d a s
  | .cmov d a b => Sys2Proof.Machine.execCmov d a b s
  | .addi d a imm => Sys2Proof.Machine.execAddi d a imm s
  | .andi d a imm => Sys2Proof.Machine.execAndi d a imm s
  | .ori d a imm => Sys2Proof.Machine.execOri d a imm s
  | .xori d a imm => Sys2Proof.Machine.execXori d a imm s
  | .slli d a sh => Sys2Proof.Machine.execSlli d a sh s
  | .srli d a sh => Sys2Proof.Machine.execSrli d a sh s
  | .srai d a sh => Sys2Proof.Machine.execSrai d a sh s
  | .rori d a sh => Sys2Proof.Machine.execRori d a sh s
  | .slti d a imm => Sys2Proof.Machine.execSlti d a imm s
  | .sltni d a imm => Sys2Proof.Machine.execSltni d a imm s
  | .li d imm => Sys2Proof.Machine.execLi d imm s
  | .lis d imm => Sys2Proof.Machine.execLis d imm s
  | .addpc d imm => Sys2Proof.Machine.execAddpc d imm s
  | .exts d a pos len1 => Sys2Proof.Machine.execExts d a pos len1 s
  | .extz d a pos len1 => Sys2Proof.Machine.execExtz d a pos len1 s
  | .ins d a pos len1 => Sys2Proof.Machine.execIns d a pos len1 s
  | .ld d a w nat imm => Sys2Proof.Machine.execLd d a w nat imm s
  | .st src a w imm => Sys2Proof.Machine.execSt src a w imm s
  | .ldl d a w nat imm => Sys2Proof.Machine.execLdl d a w nat imm s
  | .stl src a w imm => Sys2Proof.Machine.execStl src a w imm s
  | .ldnf d a w nat imm => Sys2Proof.Machine.execLdnf d a w nat imm s
  | .amoAddW d a b => Sys2Proof.Machine.execAmoAddW d a b s
  | .amoAddD d a b => Sys2Proof.Machine.execAmoAddD d a b s
  | .amoMinW d a b => Sys2Proof.Machine.execAmoMinW d a b s
  | .amoMinD d a b => Sys2Proof.Machine.execAmoMinD d a b s
  | .amoMaxW d a b => Sys2Proof.Machine.execAmoMaxW d a b s
  | .amoMaxD d a b => Sys2Proof.Machine.execAmoMaxD d a b s
  | .amoMinnW d a b => Sys2Proof.Machine.execAmoMinnW d a b s
  | .amoMinnD d a b => Sys2Proof.Machine.execAmoMinnD d a b s
  | .amoMaxnW d a b => Sys2Proof.Machine.execAmoMaxnW d a b s
  | .amoMaxnD d a b => Sys2Proof.Machine.execAmoMaxnD d a b s
  | .amoAndD d a b => Sys2Proof.Machine.execAmoAndD d a b s
  | .amoOrD d a b => Sys2Proof.Machine.execAmoOrD d a b s
  | .amoXorD d a b => Sys2Proof.Machine.execAmoXorD d a b s
  | .amoSwapW d a b => Sys2Proof.Machine.execAmoSwapW d a b s
  | .amoSwapD d a b => Sys2Proof.Machine.execAmoSwapD d a b s
  | .amoFaddF32 d a b => Sys2Proof.Machine.execAmoFaddF32 d a b s
  | .amoFaddBf16x4 d a b => Sys2Proof.Machine.execAmoFaddBf16x4 d a b s
  | .amoIncbW d a b => Sys2Proof.Machine.execAmoIncbW d a b s
  | .casW d a b => Sys2Proof.Machine.execCasW d a b s
  | .casD d a b => Sys2Proof.Machine.execCasD d a b s
  | .beq a b off => Sys2Proof.Machine.execBeq a b off s
  | .bne a b off => Sys2Proof.Machine.execBne a b off s
  | .blt a b off => Sys2Proof.Machine.execBlt a b off s
  | .bge a b off => Sys2Proof.Machine.execBge a b off s
  | .bltn a b off => Sys2Proof.Machine.execBltn a b off s
  | .bgen a b off => Sys2Proof.Machine.execBgen a b off s
  | .j off => Sys2Proof.Machine.execJ off s
  | .jal off => Sys2Proof.Machine.execJal off s
  | .jalr d a imm => Sys2Proof.Machine.execJalr d a imm s
  | .jtab a b n1 => Sys2Proof.Machine.execJtab a b n1 s
  | .loop k a fin => Sys2Proof.Machine.execLoop k a fin s
  | .loopi k cnt fin => Sys2Proof.Machine.execLoopi k cnt fin s
  | .fence scope => Sys2Proof.Machine.execFence scope s
  | .cflush a => Sys2Proof.Machine.execCflush a s
  | .cinv a => Sys2Proof.Machine.execCinv a s
  | .tlbinv a => Sys2Proof.Machine.execTlbinv a s
  | .tlbw a b => Sys2Proof.Machine.execTlbw a b s
  | .mfs d sr => Sys2Proof.Machine.execMfs d sr s
  | .mts a sr => Sys2Proof.Machine.execMts a sr s
  | .sig sig => Sys2Proof.Machine.execSig sig s
  | .hurdle scope => Sys2Proof.Machine.execHurdle scope s
  | .hurdleS scope => Sys2Proof.Machine.execHurdleS scope s
  | .acq a shared => Sys2Proof.Machine.execAcq a shared s
  | .rel a => Sys2Proof.Machine.execRel a s
  | .bind a b => Sys2Proof.Machine.execBind a b s
  | .unbind a => Sys2Proof.Machine.execUnbind a s
  | .waitq a => Sys2Proof.Machine.execWaitq a s
  | .wake a b => Sys2Proof.Machine.execWake a b s
  | .decide slot => Sys2Proof.Machine.execDecide slot s
  | .baton a b => Sys2Proof.Machine.execBaton a b s
  | .hfork d a => Sys2Proof.Machine.execHfork d a s
  | .hreward a b => Sys2Proof.Machine.execHreward a b s
  | .hwait d a => Sys2Proof.Machine.execHwait d a s
  | .hcancel a b => Sys2Proof.Machine.execHcancel a b s
  | .dsend a b => Sys2Proof.Machine.execDsend a b s
  | .drecv d a => Sys2Proof.Machine.execDrecv d a s
  | .dpoll d => Sys2Proof.Machine.execDpoll d s
  | .xcoll a => Sys2Proof.Machine.execXcoll a s
  | .xwait a => Sys2Proof.Machine.execXwait a s
  | .vadd t p d a b => Sys2Proof.Machine.execVadd t p d a b s
  | .vsub t p d a b => Sys2Proof.Machine.execVsub t p d a b s
  | .vmul t p d a b => Sys2Proof.Machine.execVmul t p d a b s
  | .vmin t p d a b => Sys2Proof.Machine.execVmin t p d a b s
  | .vmax t p d a b => Sys2Proof.Machine.execVmax t p d a b s
  | .vand t p d a b => Sys2Proof.Machine.execVand t p d a b s
  | .vor t p d a b => Sys2Proof.Machine.execVor t p d a b s
  | .vxor t p d a b => Sys2Proof.Machine.execVxor t p d a b s
  | .vshl t p d a b => Sys2Proof.Machine.execVshl t p d a b s
  | .vshr t p d a b => Sys2Proof.Machine.execVshr t p d a b s
  | .vsra t p d a b => Sys2Proof.Machine.execVsra t p d a b s
  | .vabs t p d a => Sys2Proof.Machine.execVabs t p d a s
  | .vneg t p d a => Sys2Proof.Machine.execVneg t p d a s
  | .vadds t p d a b => Sys2Proof.Machine.execVadds t p d a b s
  | .vsubs t p d a b => Sys2Proof.Machine.execVsubs t p d a b s
  | .vfadd t p d a b => Sys2Proof.Machine.execVfadd t p d a b s
  | .vfsub t p d a b => Sys2Proof.Machine.execVfsub t p d a b s
  | .vfmul t p d a b => Sys2Proof.Machine.execVfmul t p d a b s
  | .vfmin t p d a b => Sys2Proof.Machine.execVfmin t p d a b s
  | .vfmax t p d a b => Sys2Proof.Machine.execVfmax t p d a b s
  | .vfabs t p d a => Sys2Proof.Machine.execVfabs t p d a s
  | .vfneg t p d a => Sys2Proof.Machine.execVfneg t p d a s
  | .vfexp2 t p d a => Sys2Proof.Machine.execVfexp2 t p d a s
  | .vflog2 t p d a => Sys2Proof.Machine.execVflog2 t p d a s
  | .vfrcp t p d a => Sys2Proof.Machine.execVfrcp t p d a s
  | .vfrsq t p d a => Sys2Proof.Machine.execVfrsq t p d a s
  | .vfmaF32 p d a b c => Sys2Proof.Machine.execVfmaF32 p d a b c s
  | .vfmaBf16 p d a b c => Sys2Proof.Machine.execVfmaBf16 p d a b c s
  | .vfmsF32 p d a b c => Sys2Proof.Machine.execVfmsF32 p d a b c s
  | .vfmsBf16 p d a b c => Sys2Proof.Machine.execVfmsBf16 p d a b c s
  | .vcmp cond t p d a b => Sys2Proof.Machine.execVcmp cond t p d a b s
  | .vcvtF32Bf16 rnd sat z p d a => Sys2Proof.Machine.execVcvtF32Bf16 rnd sat z p d a s
  | .vcvtBf16F32 z p d a => Sys2Proof.Machine.execVcvtBf16F32 z p d a s
  | .vcvtF32E4m3 rnd sat z p d a => Sys2Proof.Machine.execVcvtF32E4m3 rnd sat z p d a s
  | .vcvtF32E5m2 rnd sat z p d a => Sys2Proof.Machine.execVcvtF32E5m2 rnd sat z p d a s
  | .vcvtBf16E4m3 rnd sat z p d a => Sys2Proof.Machine.execVcvtBf16E4m3 rnd sat z p d a s
  | .vcvtBf16E5m2 rnd sat z p d a => Sys2Proof.Machine.execVcvtBf16E5m2 rnd sat z p d a s
  | .vcvtE4m3Bf16 z p d a => Sys2Proof.Machine.execVcvtE4m3Bf16 z p d a s
  | .vcvtE5m2Bf16 z p d a => Sys2Proof.Machine.execVcvtE5m2Bf16 z p d a s
  | .vcvtF32S32 rtz sat z p d a => Sys2Proof.Machine.execVcvtF32S32 rtz sat z p d a s
  | .vcvtS32F32 rnd sat p d a => Sys2Proof.Machine.execVcvtS32F32 rnd sat p d a s
  | .vcvtF32N32 rtz sat z p d a => Sys2Proof.Machine.execVcvtF32N32 rtz sat z p d a s
  | .vcvtN32F32 rnd sat p d a => Sys2Proof.Machine.execVcvtN32F32 rnd sat p d a s
  | .vcvtS32S16 sat p d a => Sys2Proof.Machine.execVcvtS32S16 sat p d a s
  | .vcvtS16S8 sat p d a => Sys2Proof.Machine.execVcvtS16S8 sat p d a s
  | .vcvtE2m1E4m3 rnd sat z p d a b => Sys2Proof.Machine.execVcvtE2m1E4m3 rnd sat z p d a b s
  | .vsel sz p d a => Sys2Proof.Machine.execVsel sz p d a s
  | .vsplat sz d a => Sys2Proof.Machine.execVsplat sz d a s
  | .vmovx sz d a b => Sys2Proof.Machine.execVmovx sz d a b s
  | .vins sz d a b => Sys2Proof.Machine.execVins sz d a b s
  | .vshuf p d a b => Sys2Proof.Machine.execVshuf p d a b s
  | .vrot p d a b => Sys2Proof.Machine.execVrot p d a b s
  | .viota sz d => Sys2Proof.Machine.execViota sz d s
  | .vradd p d a => Sys2Proof.Machine.execVradd p d a s
  | .vrmax p d a => Sys2Proof.Machine.execVrmax p d a s
  | .vrmin p d a => Sys2Proof.Machine.execVrmin p d a s
  | .vdot p d a b => Sys2Proof.Machine.execVdot p d a b s
  | .pand d a b => Sys2Proof.Machine.execPand d a b s
  | .por d a b => Sys2Proof.Machine.execPor d a b s
  | .pxor d a b => Sys2Proof.Machine.execPxor d a b s
  | .pnot d a => Sys2Proof.Machine.execPnot d a s
  | .pcnt d a => Sys2Proof.Machine.execPcnt d a s
  | .pfirst d a => Sys2Proof.Machine.execPfirst d a s
  | .pset d a => Sys2Proof.Machine.execPset d a s
  | .vld d a imm => Sys2Proof.Machine.execVld d a imm s
  | .vst src a imm => Sys2Proof.Machine.execVst src a imm s
  | .vldx p d a b => Sys2Proof.Machine.execVldx p d a b s
  | .vstx p src a b => Sys2Proof.Machine.execVstx p src a b s
  | .vldb d a => Sys2Proof.Machine.execVldb d a s
  | .mma a => Sys2Proof.Machine.execMma a s
  | .mcell a => Sys2Proof.Machine.execMcell a s
  | .mzero k => Sys2Proof.Machine.execMzero k s
  | .mdrain a => Sys2Proof.Machine.execMdrain a s
  | .bufdef k a => Sys2Proof.Machine.execBufdef k a s
  | .publish k => Sys2Proof.Machine.execPublish k s
  | .ewait a b => Sys2Proof.Machine.execEwait a b s
  | .scur k a => Sys2Proof.Machine.execScur k a s
  | .srd a => Sys2Proof.Machine.execSrd a s
  | .swr a => Sys2Proof.Machine.execSwr a s
  | .lapq d => Sys2Proof.Machine.execLapq d s
  | .route r => Sys2Proof.Machine.execRoute r s
  | .sj r t indexed n => Sys2Proof.Machine.execSj r t indexed n s
  | .sloop r n cnt => Sys2Proof.Machine.execSloop r n cnt s
  | .sdbnz r n t => Sys2Proof.Machine.execSdbnz r n t s
  | .smov r n src => Sys2Proof.Machine.execSmov r n src s
  | .scurSwitch r n cnt => Sys2Proof.Machine.execScurSwitch r n cnt s
  | .stok r slot => Sys2Proof.Machine.execStok r slot s
  | .swaith r => Sys2Proof.Machine.execSwaith r s
  | .shalt r => Sys2Proof.Machine.execShalt r s
  | .supervisorResume ag fix => Sys2Proof.Machine.execSupervisorResume ag fix s
  | .heatDeadline rec => Sys2Proof.Machine.execHeatDeadline rec s
  | .runnerRetire serial => Sys2Proof.Machine.execRunnerRetire serial s
  | .streamComplete mc slot => Sys2Proof.Machine.execStreamComplete mc slot s
  | .streamFault mc slot => Sys2Proof.Machine.execStreamFault mc slot s
  | .cursorExhausted tile cur => Sys2Proof.Machine.execCursorExhausted tile cur s
  | .matrixCmdBegin quad idx => Sys2Proof.Machine.execMatrixCmdBegin quad idx s
  | .matrixCmdComplete quad idx => Sys2Proof.Machine.execMatrixCmdComplete quad idx s
  | .leaseGrant quad => Sys2Proof.Machine.execLeaseGrant quad s
  | .hurdleComplete serial => Sys2Proof.Machine.execHurdleComplete serial s
  | .jobHurdleArrival serial pkg => Sys2Proof.Machine.execJobHurdleArrival serial pkg s
  | .gangAtSeal serial => Sys2Proof.Machine.execGangAtSeal serial s
  | .sealCommit ctx => Sys2Proof.Machine.execSealCommit ctx s
  | .idleSeal ctx => Sys2Proof.Machine.execIdleSeal ctx s
  | .reclamationDone ctx mc => Sys2Proof.Machine.execReclamationDone ctx mc s
  | .rollback ctx => Sys2Proof.Machine.execRollback ctx s
  | .collectiveComplete idx others order => Sys2Proof.Machine.execCollectiveComplete idx others order s
  | .quietMarker ctx port => Sys2Proof.Machine.execQuietMarker ctx port s
  | .incarnationAdvance pkg => Sys2Proof.Machine.execIncarnationAdvance pkg s
  | .ttimeReached q => Sys2Proof.Machine.execTtimeReached q s
  | .loadCommit serial clean => Sys2Proof.Machine.execLoadCommit serial clean s
  | .releaseComplete baton => Sys2Proof.Machine.execReleaseComplete baton s
  | .aging q => Sys2Proof.Machine.execAging q s
  | .timeTriggeredSwitch idx => Sys2Proof.Machine.execTimeTriggeredSwitch idx s
  | .decisionToken serial => Sys2Proof.Machine.execDecisionToken serial s
  | .decisionFlip serial => Sys2Proof.Machine.execDecisionFlip serial s
  | .preempt serial => Sys2Proof.Machine.execPreempt serial s
  | .restore serial => Sys2Proof.Machine.execRestore serial s
  | .lockHolderNotice holder waiter => Sys2Proof.Machine.execLockHolderNotice holder waiter s
  | .journalDone seq => Sys2Proof.Machine.execJournalDone seq s
  | .issue seq => Sys2Proof.Machine.execIssue seq s
  | .kick w => Sys2Proof.Machine.execKick w s
  | .submit q buf => Sys2Proof.Machine.execSubmit q buf s
  | .cqctlConsumerWrite c off w => Sys2Proof.Machine.execCqctlConsumerWrite c off w s
  | .epkick w => Sys2Proof.Machine.execEpkick w s
  | .inCopyComplete idx words => Sys2Proof.Machine.execInCopyComplete idx words s
  | .hostWakeArmedWrite serial v => Sys2Proof.Machine.execHostWakeArmedWrite serial v s
  | .errInjectWrite ag v => Sys2Proof.Machine.execErrInjectWrite ag v s
  | .errInjectFire ag kind addr => Sys2Proof.Machine.execErrInjectFire ag kind addr s
  | .configWrite item => Sys2Proof.Machine.execConfigWrite item s
  | .contextCreate ctx => Sys2Proof.Machine.execContextCreate ctx s
  | .contextTeardown ctx => Sys2Proof.Machine.execContextTeardown ctx s
  | .quote nonce => Sys2Proof.Machine.execQuote nonce s
  | .scrubSector addr bad => Sys2Proof.Machine.execScrubSector addr bad s
  | .boot f => Sys2Proof.Machine.execBoot f s
  | .islandSet n freq gated => Sys2Proof.Machine.execIslandSet n freq gated s
  | .frequencyStep n => Sys2Proof.Machine.execFrequencyStep n s
  | .streamWord mc slot => Sys2Proof.Machine.execStreamWord mc slot s
  | .trap => Sys2Proof.Machine.execTrap s
  | .tret => Sys2Proof.Machine.execTret s
  | .genbump => Sys2Proof.Machine.execGenbump s
  | .wball => Sys2Proof.Machine.execWball s
  | .idle => Sys2Proof.Machine.execIdle s
  | .sealreq => Sys2Proof.Machine.execSealreq s
  | .finish => Sys2Proof.Machine.execFinish s
  | .mlease => Sys2Proof.Machine.execMlease s
  | .mrel => Sys2Proof.Machine.execMrel s
  | .mwait => Sys2Proof.Machine.execMwait s
  | .swait => Sys2Proof.Machine.execSwait s
  | .undospill => Sys2Proof.Machine.execUndospill s
  | .vectorLanding => Sys2Proof.Machine.execVectorLanding s
  | .scalarResultWrite => Sys2Proof.Machine.execScalarResultWrite s
  | .accessResponse => Sys2Proof.Machine.execAccessResponse s
  | .loopEval => Sys2Proof.Machine.execLoopEval s
  | .postedRefusal => Sys2Proof.Machine.execPostedRefusal s
  | .deferredFailureReport => Sys2Proof.Machine.execDeferredFailureReport s
  | .remoteTileAccess => Sys2Proof.Machine.execRemoteTileAccess s
  | .cacheFill => Sys2Proof.Machine.execCacheFill s
  | .writeBack => Sys2Proof.Machine.execWriteBack s
  | .memsideAccess => Sys2Proof.Machine.execMemsideAccess s
  | .homeAtomic => Sys2Proof.Machine.execHomeAtomic s
  | .objectGrant => Sys2Proof.Machine.execObjectGrant s
  | .objectRelease => Sys2Proof.Machine.execObjectRelease s
  | .wakeDelivery => Sys2Proof.Machine.execWakeDelivery s
  | .messageAccept => Sys2Proof.Machine.execMessageAccept s
  | .tlbFill => Sys2Proof.Machine.execTlbFill s
  | .outTransfer => Sys2Proof.Machine.execOutTransfer s
  | .starterPass => Sys2Proof.Machine.execStarterPass s
  | .pushBufferAppend => Sys2Proof.Machine.execPushBufferAppend s
  | .deadlockScan => Sys2Proof.Machine.execDeadlockScan s
  | .starterTakeover => Sys2Proof.Machine.execStarterTakeover s
  | .thermalTrip => Sys2Proof.Machine.execThermalTrip s

end Sys2Proof.Machine
end

