-- ==== Sys2Proof/Machine/Turn.lean ====
section
/-! DEFINITION. What a core, a switch or the track time does in its turn: which boundary cause is taken when, what an instruction in
progress is tried again for, when a member stops for a token, what is fetched (R42, R59, R93, R104, R106, R125, R237, R240, R242,
R263, R282, R348, R369, R372, R434). -/

namespace Sys2Proof.Machine

/-- What comes of a turn: the state it leaves, or an instruction to be performed at a state. -/
inductive Action where
  | become (s : State)
  | perform (i : Instr) (s : State)
  | broken (f : Fault)

/-! ### Boundary causes (R240, R263, R434) -/

/-- A cause that a handler holds until its TRET: a refusal of a posted STL, or UNDO_FULL. -/
def holdable (t : Trap) : Bool := (t.cause == .refused && t.posted) || t.cause == .undoFull

/-- The cause waits for TRET. -/
def heldInHandler (c : Core) (t : Trap) : Bool := c.inHandler && holdable t

/-- The instruction that the core is frozen on completes before a cause is taken: an access or step in progress, a pending scalar
result, IDLE; HFORK past its home step (R365); a runner that is being retired takes none (R366). -/
def completesFirst (c : Core) : Bool :=
  !c.replies.isEmpty ||
  match c.wait with
  | .access | .step | .flush _ | .fence | .rel _ _ | .fork | .retired | .tlbMiss | .scalar | .idle => true
  | _ => false

/-- The home has woken the member that waits in WAITQ: its wake is on its way (R253, R434). -/
def woken (s : State) (a : Agent) (c : Core) : Bool :=
  match c.wait, c.gang with
  | .waitq _, some serial =>
    match tfind s.gangs serial with
    | some g => s.net.any fun p => p.kind == .wake serial (memberNumber g a)
    | none => false
  | _, _ => false

/-- The boundary cause that the core takes now: the oldest, those last that a handler of another would hold. -/
def takeable (c : Core) : Option Trap :=
  if completesFirst c then none
  else
    match c.pend.find? fun t => !holdable t with
    | some t => some t
    | none => c.pend.find? fun t => !heldInHandler c t

/-- A request whose wait has no effect until its answer is withdrawn; a hurdle arrival as well (R369, R434). -/
def withdrawWait (s : State) (a : Agent) : State :=
  let c := coreOf s a
  match c.gang with
  | none => if c.blocked && c.wait == .dsend then withdrawSend s (agentCode a) else s
  | some serial =>
    match tfind s.gangs serial with
    | none => s
    | some g =>
      match c.wait with
      | .hurdle _ _ => withdrawArrival s serial (memberNumber g a)
      | w => if c.blocked then withdrawRequest s serial (memberNumber g a) w else s

/-- The cause t is taken. -/
def takePending (s : State) (a : Agent) (t : Trap) : State :=
  let s1 := withdrawWait s a
  let c := coreOf s1 a
  takeCause (setCore s1 a { c with pend := c.pend.erase t, blocked := false }) a t

/-! ### Stopping for a token (R42, R348) -/

/-- The gang of a core, when it is one of the fabric. -/
def gangStopping (s : State) (c : Core) : Bool := (gangOf s c).any fun g => g.stopping

/-- A token is being applied to the core's gang. -/
def tokenApplied (s : State) (c : Core) : Bool := (gangOf s c).any fun g => g.applying.isSome

/-- The core stops at its boundary: a request at a home and a hurdle arrival are withdrawn, pops are returned. -/
def stopMember (s : State) (a : Agent) : State :=
  let s1 := withdrawWait s a
  setCore s1 a { unissued (coreOf s1 a) with mode := .stopped }

/-! ### Fetching (R59, R93) -/

/-- The instruction at the pc, or the cause of its decode. -/
def fetch (s : State) (a : Agent) : Except Trap Instr :=
  let c := coreOf s a
  match decode (wordAt c c.pc) with
  | .error _ => .error { cause := .illegal }
  | .ok i => if i.usableOn (agentKind a) then .ok i else .error { cause := .illegal }

/-- The instruction at the pc is performed, or its decode raises ILLEGAL; a word fetched with an uncorrectable error is consumed
(R235, R271): the spec gives no trap_addr for it. -/
def issueAt (s : State) (a : Agent) : Action :=
  let c := coreOf s a
  if codeMarked c && c.wait == .none then
    .become (takeCause { s with fresh := s.fresh + 1 } a { cause := .ue, addr := Config.freeValue s.fresh })
  else
    match fetch s a with
    | .ok i => .perform i s
    | .error t => .become (takeCause s a t)

/-! ### The turn of a core -/

/-- A wait of an instruction that has not issued, or of one that has no effect on its core while it waits: in the tc in which it holds
the core is frozen (R102). -/
def notIssued (w : Wait) : Bool :=
  match w with
  | .pop _ _ | .push _ | .scoreboard | .commandQueue | .commandLease | .mlease | .mwait | .swait | .streams | .starterQueue
  | .collectives => true
  | _ => false

/-- What freezes the tc whose landings are to be made: with them made (c1), the instruction at the pc would not issue. Then nothing
lands in it, and nothing counts (R102, R103). The quads go on: a request for the lease, or its passing, takes effect (R160). In a tc
that an instruction before still takes none issues (R179). -/
def frozenOn (s : State) (a : Agent) (c1 : Core) : Option (Wait × Tbl Quad) :=
  let s1 := setCore s a c1
  match c1.landing, fetch s1 a with
  | false, .ok i =>
    match exec i s1 with
    | .next s2 => if notIssued (coreOf s2 a).wait then some ((coreOf s2 a).wait, s2.quads) else none
    | _ => none
  | _, _ => none

/-- The tc whose landings are to be made: it is frozen by a push into a full FIFO (R104) or by the instruction that would issue in
it (R103), until a cause is taken there; otherwise the landings are made. -/
def landingTurn (s : State) (a : Agent) : Action :=
  let c := coreOf s a
  let made : Action := .perform (if scalarDue c then .scalarResultWrite else .vectorLanding) s
  match landTc (agentKind a) c with
  | none =>
    match takeable c with
    | some t => .become (takePending s a t)
    | none => made
  | some c1 =>
    match takeable c1, frozenOn s a c1 with
    | none, some (w, qs) => .become { setCore s a { c with wait := w } with quads := qs }
    | _, _ => made

/-- The steps of a core that nothing stops: loop evaluation, landings, boundary causes, the instruction. -/
def runningTurn (s : State) (a : Agent) : Action :=
  let c := coreOf s a
  if c.evalAt.isSome then .perform .loopEval s
  else if c.landing then landingTurn s a
  else
    match takeable c with
    | some t => .become (takePending s a t)
    | none => issueAt s a

/-- A core whose request is on its way: a wait at a home or a DSEND is withdrawn for a cause, every other answer comes first. -/
def blockedTurn (s : State) (a : Agent) : Action :=
  let c := coreOf s a
  if (atHomeWait c && !woken s a c) || c.wait == .dsend then
    match takeable c with
    | some t => .become (takePending s a t)
    | none => .become s
  else .become s

/-- A wait that ends before the core stops for a token, though a save finds the core at the instruction (R357, R399, R430). -/
def fenceWait (w : Wait) : Bool :=
  match w with
  | .fence | .rel _ _ => true
  | _ => false

/-- A core of a gang that is being saved, or that a token stops, completes what it has in progress and nothing else. -/
def lastTurn (s : State) (a : Agent) (token : Bool) : Action :=
  let c := coreOf s a
  if inProgress c || (token && (fenceWait c.wait || woken s a c)) then
    if c.blocked then .become s
    else if c.landing then .perform .vectorLanding s
    else issueAt s a
  else .become (if token then stopMember s a else s)

/-- A stopped member lets its results land (R42). -/
def stoppedTurn (s : State) (a : Agent) : Action :=
  let c := coreOf s a
  if c.landing || !c.inflight.isEmpty || !c.scalars.isEmpty then .perform .vectorLanding (setCore s a { c with landing := true })
  else .become s

/-- The turn of the core s.cur. A core that has finished still takes the causes of class L that its switch meets (R123, R125, R321). -/
def coreTurn (s : State) : Action :=
  let a := s.cur
  let c := coreOf s a
  match c.mode with
  | .running =>
    if gangStopping s c then lastTurn s a false
    else if tokenApplied s c then lastTurn s a true
    else if c.blocked then blockedTurn s a
    else runningTurn s a
  | .stopped => stoppedTurn s a
  | .sFreeze | .finished =>
    match c.pend.find? fun t => takerOf t == .lap with
    | some t => .become (takePending s a t)
    | none => .become s
  | _ => .become s

/-! ### The turn of a switch (R42, R91, R125) -/

/-- The gang of a core is at the seal: its switches stand at their boundaries until the commit (R125, R402). -/
def gangAtSeal (s : State) (c : Core) : Bool := (gangOf s c).any fun g => g.atSeal

/-- The trap_addr of a switch word fetched with an error (R321). -/
def swcodeIdent (c : Core) : Word := c.spc.setWidth 64 ||| (1#64 <<< 13) ||| (1#64 <<< 61)

/-- The core of a tile consumes the error of its switch's word, once (R123, R321). -/
def consumeSwcode (s : State) (a : Agent) : State :=
  let t : Trap := { cause := .ue, addr := swcodeIdent (coreOf s a) }
  if (coreOf s a).pend.contains t then s else setCore s a (addPend (coreOf s a) t)

/-- The switch of tile n issues unless it is halted, waits for a hurdle, or its gang is stopped or at the seal; a word fetched with
an error does not issue. Only a switch that the load has not written can hold a word that its decoder refuses. -/
def switchTurn (s : State) (n : Nat) : Action :=
  let c := coreOf s (.tile n)
  if c.mode = .off || c.swHalted || c.swWaitH || gangStopping s c || tokenApplied s c || gangAtSeal s c then .become s
  else if swcodeMarked c then .become (consumeSwcode s (.tile n))
  else
    match decodeSwitch (switchWord c) with
    | .ok i => .perform i { s with cur := .tile n }
    | .error _ => .broken .switchWord

/-! ### Track time (R54, R282) -/

/-- The run of a heat advances: its context runs and none of its runners is saved. -/
def heatRuns (s : State) (rec : Nat) (h : Heat) : Bool :=
  (contextOf s h.ctx).running &&
  !s.gangs.any fun e => e.2.heat == some rec && ownHandle e.2 == h.handle && (e.2.state == .saved || e.2.state == .restoring)

/-- Track time advances. -/
def passTime (s : State) (ns : Nat) : State :=
  { s with trackTime := s.trackTime + BitVec.ofNat 64 ns,
           heats := s.heats.map fun e => (e.1, if heatRuns s e.1 e.2 then { e.2 with run := e.2.run + ns } else e.2) }

/-! ### What comes from outside -/

/-- An uncorrectable error arises (R271); with both copies of a journal entry uncorrectable the Starter stops (R236). -/
def upsetAt (s : State) (u : Upset) : State :=
  match u with
  | .core a m => if agentExists a then setCore s a { coreOf s a with marks := m :: (coreOf s a).marks.erase m } else s
  | .accumulator q k => if q < 512 ∧ k < 65536 then setQuad s q { quadOf s q with marks := insertNat k (quadOf s q).marks } else s
  | .journal copyB d =>
    let st := s.starter
    let i := d % 8192
    let t : Starter := if copyB then { st with jbBad := insertNat i st.jbBad } else { st with jaBad := insertNat i st.jaBad }
    let s1 : State := { s with starter := t }
    if entryBad t.jaBad (i / 4) && entryBad t.jbBad (i / 4) && !t.stopped then stopStarter s1 else s1

/-- The supervisor core that another package names: the service core or the Starter core of an agent address's class and index
(R350). -/
def farCore (s : State) (x : Nat) : Option Agent :=
  if x / 2 ^ 12 = 2 ∧ x % 2 ^ 12 < 8 then some (.svc (x % 2 ^ 12))
  else if x = 3 * 2 ^ 12 then some (.starter s.starter.active)
  else none

/-- A message of another package has come: for a member of a gang, or, with serial 0, which no gang has, for a supervisor core (R351). -/
def incomingAt (s : State) (pkg serial member : Nat) (m : Message) : State :=
  if pkg < 2048 ∧ pkg ≠ s.ownPkg then
    let port := portOfPkg s pkg
    if serial ≠ 0 then send s { src := portCode port, addr := port, kind := .incoming serial member m }
    else
      match farCore s member with
      | some a => send s { src := portCode port, addr := port, kind := .message (agentCode a) m }
      | none => s
  else s

/-- The package that packet i, a message, goes to refuses it: the DSEND raises REFUSED (R351). -/
def refuseAt (s : State) (i : Nat) : State :=
  match s.net[i]? with
  | some p =>
    match p.kind with
    | .message dst _ =>
      if dst % 8 = 7 then { s with net := s.net.set i { p with kind := .reply p.src (.fail { cause := .refused }) } } else s
    | _ => s
  | none => s

/-- The sensors are read (R309). -/
def readSensors (s : State) (power : Nat) (temps : List (Nat × Nat)) : State :=
  let ts := temps.foldl (fun t e => tput t e.1 e.2) s.mgmt.temps
  let s1 : State := { s with mgmt := { s.mgmt with power := power, temps := ts } }
  if tripsAt ts && !s.mgmt.thermalStop then urgent s1 [.event .thermalTrip] else s1

/-- Another package says whether a gang of the job runs there (R252). -/
def elsewhereAt (s : State) (ctx : Nat) (b : Bool) : State :=
  match tfind s.contexts ctx with
  | some x => setContext s ctx { x with elsewhere := b }
  | none => s

/-- An instruction of the table that is no word of a core or a switch. -/
def isEvent (i : Instr) : Bool := (encode i).isNone

/-- A seal of the job is pending on another package: nothing of the context is placed here, and LAPQ says so; a request of a sealing
baton makes the next hurdle of every running gang of the job sealing (R268, R270). -/
def farPending (s : State) (ctx : Nat) (request : Bool) : State :=
  let x := contextOf s ctx
  if !x.laps || x.pkgs.all (· == s.ownPkg) then s
  else
    let s1 := setContext s ctx { x with sealPending := true }
    if request then sealAll s1 ctx else s1

/-- The turn that stands first on the agenda; with an empty agenda the core that steps has its turn. -/
def nextTurn (s : State) : Action :=
  match s.agenda with
  | [] => coreTurn s
  | .event i pick :: r => if isEvent i then .perform i { s with agenda := r, pick := pick } else .become { s with agenda := r }
  | .core a :: r => if agentExists a then coreTurn { s with agenda := r, cur := a } else .become { s with agenda := r }
  | .switch n :: r => if n < 2048 then switchTurn { s with agenda := r } n else .become { s with agenda := r }
  | .time ns :: r => .become (passTime { s with agenda := r } ns)
  | .feed q i n :: r => .become (feedTurn { s with agenda := r } q i n)
  | .upset u :: r => .become (upsetAt { s with agenda := r } u)
  | .incoming pkg serial member m :: r => .become (incomingAt { s with agenda := r } pkg serial member m)
  | .data pkg ctx seq bs :: r => .become (takeData { s with agenda := r } ctx seq pkg bs)
  | .refuse i :: r => .become (refuseAt { s with agenda := r } i)
  | .elsewhere ctx b :: r => .become (elsewhereAt { s with agenda := r } ctx b)
  | .farSeal serial :: r => .become (farSeal { s with agenda := r } serial)
  | .farPending ctx request :: r => .become (farPending { s with agenda := r } ctx request)
  | .reading p t :: r => .become (readSensors { s with agenda := r } p t)
  | .hostRead bar off n :: r => .become (hostReadAt { s with agenda := r } bar off n)

/-! ### Placing an instruction -/

/-- A core at a boundary, about to fetch: nothing of an instruction is in progress and no cause is due. -/
def readyCore (c : Core) : Core :=
  { clearIssue c with mode := .running, landing := false, busy := 0, evalAt := none, pend := [],
                      marks := c.marks.filter fun m => !m.inCode }

/-- The gang of a core issues. -/
def issuing (s : State) (c : Core) : Tbl Gang :=
  s.gangs.map fun e => (e.1, if c.gang = some e.1 then { e.2 with stopping := false, applying := none, atSeal := false } else e.2)

/-- A core's instruction word stands at the pc of core a, which steps next. -/
def placeCoreWord (s : State) (a : Agent) (w : IWord) : State :=
  let c := coreOf s a
  setCore { s with cur := a, agenda := [], gangs := issuing s c } a
    { readyCore c with code := tset c.code 0#32 (c.slot.toNat * 4096 + c.pc.toNat / 4) w }

/-- A switch word stands at the spc of tile 0, whose switch has the next turn. -/
def placeSwitchWord (s : State) (w : SwWord) : State :=
  let c := coreOf s (.tile 0)
  setCore { s with agenda := [.switch 0], gangs := issuing s c } (.tile 0)
    { c with mode := .running, swHalted := false, swWaitH := false, marks := c.marks.filter fun m => !m.inCode,
             swcode := tset c.swcode shaltWord (c.slot.toNat * 1024 + c.spc.toNat) w }

/-- An instruction by its bits: a switch word of 64 bits at tile 0; a word of 32 bits at tile 0, a stream form at memory core 0. -/
def placeWord (s : State) (nbits w : Nat) : State :=
  if nbits = 64 then placeSwitchWord s (BitVec.ofNat 64 w)
  else placeCoreWord s (if w % 64 = 0x30 then .mem 0 else .tile 0) (BitVec.ofNat 32 w)

end Sys2Proof.Machine
end

