-- ==== Sys2Proof/Machine/Step.lean ====
section
/-! DEFINITION. The step of the machine, and where the host places an instruction to be run next. -/

namespace Sys2Proof.Machine

/-- One step: the first turn of the agenda, or a step of the core that steps. -/
def step (s : State) : Host.Outcome State Fault Refusal :=
  match nextTurn s with
  | .become t => .next t
  | .perform i t => exec i t
  | .broken f => .fault f

/-- s with an instruction where the next step fetches it. -/
def State.withFetchWord (s : State) (nbits w : Nat) : State := placeWord s nbits w

end Sys2Proof.Machine
end

