-- ==== Sys2Proof/Safety.lean ====
section
/-! DEFINITION. What a safe run is: every step of it answers a next state. The one stop of the model is the switch word that a
decoder refuses, which the load of an image never writes (R63, R91). -/

namespace Sys2Proof.Machine

/-- The step answers a next state. -/
def State.Answers (s : State) : Prop := ∃ t, step s = .next t

/-- n steps from s all answer. -/
def SafeFor (n : Nat) (s : State) : Prop :=
  match n with
  | 0 => True
  | n + 1 => ∃ t, step s = .next t ∧ SafeFor n t

/-- However long it runs, it never stops. -/
def Safe (s : State) : Prop := ∀ n, SafeFor n s

/-- The word at the switch pc of a core decodes. -/
def switchDecodes (c : Core) : Bool := (decodeSwitch (switchWord c)).toOption.isSome

/-- Every switch of the package stands at a word that its decoder takes. -/
def State.switchesDecode (s : State) : Prop := ∀ n, n < 2048 → switchDecodes (coreOf s (.tile n)) = true

end Sys2Proof.Machine
end

