-- ==== Sys2Proof/Certificates/Slice0/Obligations.lean ====
section
/-! DEFINITION. The statements for the provers. The tables and predicates in front of a statement say, in words of the spec, what
its instructions compute and when they go through. -/

namespace Sys2Proof.Says

open Machine

/-- The core that steps. -/
abbrev own (s : State) : Core := coreOf s s.cur

/-- The kind of the core that steps. -/
abbrev kind (s : State) : CoreKind := agentKind s.cur

/-- What a scalar register that is no port reads as: x0 is zero (R48). -/
def reg (c : Core) (r : Reg) : Word := if r = 0#5 then 0#64 else c.x[r.toNat]

/-- Nothing that an instruction names is pending: no multi-cycle scalar for a register it reads (a port read names none) or writes,
no vector-unit result bound for such a register (R93, R94, R98). -/
abbrev Unlocked (k : CoreKind) (c : Core) (reads dests : List Reg) : Prop :=
  (∀ r ∈ reads, isPort k r = false → scalarBusy c r = false ∧ landBusy c r = false) ∧
  (∀ r ∈ dests, scalarBusy c r = false ∧ (isPort k r = false → landBusy c r = false))

/-- The instruction completes at the core that steps and leaves it as c completed; the rest of the package is as it was. -/
abbrev Completes (i : Instr) (s : State) (c : Core) : Prop := exec i s = .next (setCore s s.cur (retire c))

/-- Nothing outside the core that steps differs, and every byte of memory reads as before. -/
def OnlyOwnCore (s t : State) : Prop :=
  t = { s with cores := t.cores } ∧ (∀ a, a ≠ s.cur → coreOf t a = coreOf s a) ∧ (∀ a, tget t.mem 0#8 a = tget s.mem 0#8 a)

end Sys2Proof.Says

open Sys2Proof Sys2Proof.Machine Sys2Proof.Says

/-! ### The scalar integer family -/

namespace Sys2Proof.Says

/-- Destination, first and second source and value of the single-tc forms with two sources, written with numbers (R332, R356). -/
def twoSource (i : Instr) : Option (Reg × Reg × Reg × (Word → Word → Word)) :=
  match i with
  | .add d a b => some (d, a, b, fun x y => BitVec.ofNat 64 (x.toNat + y.toNat))
  | .sub d a b => some (d, a, b, fun x y => BitVec.ofInt 64 (x.toInt - y.toInt))
  | .and d a b => some (d, a, b, fun x y => BitVec.ofNat 64 (x.toNat &&& y.toNat))
  | .or d a b => some (d, a, b, fun x y => BitVec.ofNat 64 (x.toNat ||| y.toNat))
  | .xor d a b => some (d, a, b, fun x y => BitVec.ofNat 64 (x.toNat ^^^ y.toNat))
  | .andn d a b => some (d, a, b, fun x y => BitVec.ofNat 64 (x.toNat &&& (2 ^ 64 - 1 - y.toNat)))
  | .sll d a b => some (d, a, b, fun x y => BitVec.ofNat 64 (x.toNat * 2 ^ (y.toNat % 64)))
  | .srl d a b => some (d, a, b, fun x y => BitVec.ofNat 64 (x.toNat / 2 ^ (y.toNat % 64)))
  | .sra d a b => some (d, a, b, fun x y => BitVec.ofInt 64 (x.toInt / 2 ^ (y.toNat % 64)))
  | .slt d a b => some (d, a, b, fun x y => if x.toInt < y.toInt then 1#64 else 0#64)
  | .sltn d a b => some (d, a, b, fun x y => if x.toNat < y.toNat then 1#64 else 0#64)
  | .min d a b => some (d, a, b, fun x y => BitVec.ofInt 64 (min x.toInt y.toInt))
  | .max d a b => some (d, a, b, fun x y => BitVec.ofInt 64 (max x.toInt y.toInt))
  | .minn d a b => some (d, a, b, fun x y => BitVec.ofNat 64 (min x.toNat y.toNat))
  | .maxn d a b => some (d, a, b, fun x y => BitVec.ofNat 64 (max x.toNat y.toNat))
  | _ => none

/-- Destination, source and value of the single-tc forms with one source and perhaps an immediate, written with numbers (R333, R356, R381). LIS names its destination as its source. -/
def oneSource (i : Instr) : Option (Reg × Reg × (Word → Word)) :=
  match i with
  | .addi d a imm => some (d, a, fun x => BitVec.ofInt 64 (x.toInt + imm.toInt))
  | .andi d a imm => some (d, a, fun x => BitVec.ofNat 64 (x.toNat &&& imm.toNat))
  | .ori d a imm => some (d, a, fun x => BitVec.ofNat 64 (x.toNat ||| imm.toNat))
  | .xori d a imm => some (d, a, fun x => BitVec.ofNat 64 (x.toNat ^^^ imm.toNat))
  | .slti d a imm => some (d, a, fun x => if x.toInt < imm.toInt then 1#64 else 0#64)
  | .sltni d a imm => some (d, a, fun x => if (x.toNat : Int) < imm.toInt % 2 ^ 64 then 1#64 else 0#64)
  | .lis d imm => some (d, d, fun x => BitVec.ofNat 64 (x.toNat * 2 ^ 21 + imm.toNat))
  | .extz d a pos len1 => some (d, a, fun x => BitVec.ofNat 64 (x.toNat / 2 ^ pos.toNat % 2 ^ (len1.toNat + 1)))
  | .exts d a pos len1 => some (d, a, fun x => BitVec.ofInt 64 ((BitVec.ofNat (len1.toNat + 1) (x.toNat / 2 ^ pos.toNat)).toInt))
  | _ => none

/-- Destination, source and value of the shift-immediate forms, written with numbers (R400). -/
def shiftImm (i : Instr) : Option (Reg × Reg × (Word → Word)) :=
  match i with
  | .slli d a sh => some (d, a, fun x => BitVec.ofNat 64 (x.toNat * 2 ^ sh.toNat))
  | .srli d a sh => some (d, a, fun x => BitVec.ofNat 64 (x.toNat / 2 ^ sh.toNat))
  | .srai d a sh => some (d, a, fun x => BitVec.ofInt 64 (x.toInt / 2 ^ sh.toNat))
  | .rori d a sh => some (d, a, fun x => BitVec.ofNat 64 (x.toNat / 2 ^ sh.toNat + x.toNat * 2 ^ (64 - sh.toNat)))
  | _ => none

/-- Number of set bits of x (R345). -/
def ones (x : Word) : Nat := ((List.range 64).filter fun i => x.getLsbD i).length

/-- Zero bits above the highest set bit: how many i have no set bit at i or above (R345). -/
def zerosAbove (x : Word) : Nat := ((List.range 64).filter fun i => x.toNat < 2 ^ i).length

/-- Zero bits below the lowest set bit: how many i have no set bit at i or below (R345). -/
def zerosBelow (x : Word) : Nat := ((List.range 64).filter fun i => x.toNat % 2 ^ (i + 1) = 0).length

/-- Destination, source and value of the counting forms (R345). -/
def counting (i : Instr) : Option (Reg × Reg × (Word → Word)) :=
  match i with
  | .clz d a => some (d, a, fun x => BitVec.ofNat 64 (zerosAbove x))
  | .ctz d a => some (d, a, fun x => BitVec.ofNat 64 (zerosBelow x))
  | .popc d a => some (d, a, fun x => BitVec.ofNat 64 (ones x))
  | _ => none

/-- Tc to the result, destination, sources and value of the multi-cycle forms, written with numbers (R349, R394). -/
def multiCycle (i : Instr) : Option (Nat × Reg × Reg × Reg × (Word → Word → Word)) :=
  match i with
  | .mul d a b => some (3, d, a, b, fun x y => BitVec.ofNat 64 (x.toNat * y.toNat))
  | .mulh d a b => some (3, d, a, b, fun x y => BitVec.ofInt 64 (x.toInt * y.toInt / 2 ^ 64))
  | .mulhn d a b => some (3, d, a, b, fun x y => BitVec.ofNat 64 (x.toNat * y.toNat / 2 ^ 64))
  | .div d a b => some (20, d, a, b, fun x y =>
      if y.toInt = 0 then BitVec.allOnes 64 else BitVec.ofInt 64 (x.toInt.tdiv y.toInt))
  | .divn d a b => some (20, d, a, b, fun x y => if y.toNat = 0 then BitVec.allOnes 64 else BitVec.ofNat 64 (x.toNat / y.toNat))
  | .rem d a b => some (20, d, a, b, fun x y => if y.toInt = 0 then x else BitVec.ofInt 64 (x.toInt - y.toInt * x.toInt.tdiv y.toInt))
  | .remn d a b => some (20, d, a, b, fun x y => if y.toNat = 0 then x else BitVec.ofNat 64 (x.toNat - y.toNat * (x.toNat / y.toNat)))
  | _ => none

/-- The destination of a scalar integer form (R332 to R334, R345, R346, R349, R356, R381, R394, R400). -/
def scalarDest (i : Instr) : Option Reg :=
  match i with
  | .add d _ _ | .sub d _ _ | .and d _ _ | .or d _ _ | .xor d _ _ | .andn d _ _ | .sll d _ _ | .srl d _ _ | .sra d _ _
  | .slt d _ _ | .sltn d _ _ | .min d _ _ | .max d _ _ | .minn d _ _ | .maxn d _ _ | .cmov d _ _ => some d
  | .clz d _ | .ctz d _ | .popc d _ | .addi d _ _ | .andi d _ _ | .ori d _ _ | .xori d _ _ | .slli d _ _ | .srli d _ _
  | .srai d _ _ | .rori d _ _ | .slti d _ _ | .sltni d _ _ | .li d _ | .lis d _ => some d
  | .exts d _ _ _ | .extz d _ _ _ | .ins d _ _ _ => some d
  | _ => none

end Sys2Proof.Says

/-- R48, R50 to R52, R123: x0 reads as zero and discards writes; another register that is no port reads as it holds and takes what is
written; a port of a tile core gives and takes away the head of its inbound FIFO, or freezes on an empty one, and an error in the popped word
becomes a UE that names the FIFO; a write to a port
appends to the outbound FIFO of its direction, or freezes on a full one. -/
def Obligations.ScalarRegisterAccess : Prop :=
  (∀ k c r, isPort k r = false → readX k c r = .ok (reg c r, c)) ∧
  (∀ k c r v, isPort k r = false → ∃ c', writeX k c r v = .ok c' ∧ reg c' 0#5 = 0#64 ∧
    (∀ q, reg c' q = if q = r ∧ r ≠ 0#5 then v else reg c q) ∧ c' = { c with x := c'.x }) ∧
  (∀ (n : Nat) c r w ws, isPort (agentKind (.tile n)) r = true → c.pulled = [] → c.errInject.getLsbD 0 = false →
    fifoA c (portDir r) = w :: ws → ∃ c', readX (agentKind (.tile n)) c r = .ok (w, c') ∧ fifoA c' (portDir r) = ws ∧
      c' = { c with fifoA := c'.fifoA, stirred := true, marks := c'.marks, pend := c'.pend,
                    taken := c.taken ++ [(portDir r, w.setWidth 1024)] } ∧
      (ErrorMark.fifo false (portDir r) 0 ∉ c.marks → c'.pend = c.pend) ∧
      (ErrorMark.fifo false (portDir r) 0 ∈ c.marks →
        c'.pend = c.pend ++ [{ cause := .ue, addr := BitVec.ofNat 64 (portDir r + 2 ^ 62) }])) ∧
  (∀ (n : Nat) c r, isPort (agentKind (.tile n)) r = true → c.pulled = [] → fifoA c (portDir r) = [] →
    readX (agentKind (.tile n)) c r = .error (.pop r.toNat false)) ∧
  (∀ (n : Nat) c r v, isPort (agentKind (.tile n)) r = true → (fifoA c (4 + portDir r)).length < 4 →
    ∃ c', writeX (agentKind (.tile n)) c r v = .ok c' ∧ fifoA c' (4 + portDir r) = fifoA c (4 + portDir r) ++ [v] ∧
      c' = { c with fifoA := c'.fifoA, stirred := true }) ∧
  (∀ (n : Nat) c r v, isPort (agentKind (.tile n)) r = true → 4 ≤ (fifoA c (4 + portDir r)).length →
    writeX (agentKind (.tile n)) c r v = .error (.push r.toNat))

/-- R332, R356: ADD, SUB, AND, OR, XOR, ANDN, SLL, SRL, SRA, SLT, SLTN, MIN, MAX, MINN, MAXN complete with the value their rule gives,
whatever register or port each operand names, once nothing they name is pending and the ports have a word and room. -/
def Sys2Proof.Says.TwoSourceResults : Prop :=
  ∀ i d a b f, twoSource i = some (d, a, b, f) → ∀ s x y c1 c2 c3, Unlocked (kind s) (own s) [a, b] [d] →
    readX (kind s) (own s) a = .ok (x, c1) → readX (kind s) c1 b = .ok (y, c2) → writeX (kind s) c2 d (f x y) = .ok c3 →
    Completes i s c3

/-- R333, R356, R381: ADDI, ANDI, ORI, XORI, SLTI, SLTNI, LIS, EXTZ and EXTS complete with the value their rule gives, on operands that
an encoding admits. -/
def Sys2Proof.Says.OneSourceResults : Prop :=
  ∀ i d a f, oneSource i = some (d, a, f) → i.WellFormed = true → ∀ s x c1 c2, Unlocked (kind s) (own s) [a] [d] →
    readX (kind s) (own s) a = .ok (x, c1) → writeX (kind s) c1 d (f x) = .ok c2 → Completes i s c2

/-- R345: CLZ, CTZ and POPC complete with the counts their table gives, and their words are those of the table. -/
def Obligations.CountingResults : Prop :=
  (∀ i d a f, counting i = some (d, a, f) → ∀ s x c1 c2, Unlocked (kind s) (own s) [a] [d] →
    readX (kind s) (own s) a = .ok (x, c1) → writeX (kind s) c1 d (f x) = .ok c2 → Completes i s c2) ∧
  (∀ d a : Reg, encode (.clz d a) = some (32, 0x16000001 + d.toNat * 2 ^ 6 + a.toNat * 2 ^ 11) ∧
    encode (.ctz d a) = some (32, 0x17000001 + d.toNat * 2 ^ 6 + a.toNat * 2 ^ 11) ∧
    encode (.popc d a) = some (32, 0x18000001 + d.toNat * 2 ^ 6 + a.toNat * 2 ^ 11))

/-- R400: SLLI, SRLI, SRAI and RORI complete with the value of their table for every amount, 0 among them, which leaves xa
unchanged, and their words are those of the table. -/
def Obligations.ShiftImmediateResults : Prop :=
  (∀ i d a f, shiftImm i = some (d, a, f) → ∀ s x c1 c2, Unlocked (kind s) (own s) [a] [d] →
    readX (kind s) (own s) a = .ok (x, c1) → writeX (kind s) c1 d (f x) = .ok c2 → Completes i s c2) ∧
  (∀ (d a : Reg) (sh : BitVec 6), let w := 6 + d.toNat * 2 ^ 6 + a.toNat * 2 ^ 11 + sh.toNat * 2 ^ 16
    encode (.slli d a sh) = some (32, w) ∧ encode (.srli d a sh) = some (32, w + 2 ^ 22) ∧
    encode (.srai d a sh) = some (32, w + 2 * 2 ^ 22) ∧ encode (.rori d a sh) = some (32, w + 3 * 2 ^ 22))

/-- R346: CMOV writes xa when xb is not zero, and neither writes nor pushes otherwise; both sources are read, and ports popped, in
either case; it does not read xd; its word is that of the rule. -/
def Obligations.CmovResult : Prop :=
  (∀ d a b s x y c1 c2 c3, Unlocked (kind s) (own s) [a, b] [d] → readX (kind s) (own s) a = .ok (x, c1) →
    readX (kind s) c1 b = .ok (y, c2) → (if y = 0#64 then .ok c2 else writeX (kind s) c2 d x) = .ok c3 →
    Completes (.cmov d a b) s c3) ∧
  (∀ d a b : Reg, encode (.cmov d a b) = some (32, 0x19000001 + d.toNat * 2 ^ 6 + a.toNat * 2 ^ 11 + b.toNat * 2 ^ 16))

/-- R356, R381: INS replaces bits pos to pos + len − 1 of xd by the low bits of xa; LI writes its sign-extended immediate. -/
def Sys2Proof.Says.InsertAndConstantResults : Prop :=
  (∀ d a pos len1 s x y v c1 c2 c3, bitFieldOk pos len1 = true → Unlocked (kind s) (own s) [a, d] [d] →
    readX (kind s) (own s) a = .ok (x, c1) → readX (kind s) c1 d = .ok (y, c2) → writeX (kind s) c2 d v = .ok c3 →
    (∀ i, i < 64 → v.getLsbD i = if pos.toNat ≤ i ∧ i ≤ pos.toNat + len1.toNat then x.getLsbD (i - pos.toNat) else y.getLsbD i) →
    Completes (.ins d a pos len1) s c3) ∧
  (∀ d imm s c1, Unlocked (kind s) (own s) [] [d] → writeX (kind s) (own s) d (BitVec.ofInt 64 imm.toInt) = .ok c1 →
    Completes (.li d imm) s c1)

/-- R334, R60: ADDPC writes the byte offset of its label, zero-extended; a label outside the slot raises ILLEGAL with the target. -/
def Sys2Proof.Says.AddpcResult : Prop :=
  ∀ d (imm : BitVec 21) s, let t := ((own s).pc.toNat : Int) + 4 * imm.toInt
    (∀ c1, 0 ≤ t → t ≤ 0x3FFC → Unlocked (kind s) (own s) [] [d] → writeX (kind s) (own s) d (BitVec.ofInt 64 t) = .ok c1 →
      Completes (.addpc d imm) s c1) ∧
    (t < 0 ∨ 0x3FFC < t → exec (.addpc d imm) s = .next (takeCause s s.cur { cause := .illegal, addr := BitVec.ofInt 64 t }))

/-- R94, R349, R394: MUL, MULH, MULHN, DIV, DIVN, REM, REMN complete with their result pending for 3 or 20 tc, for every pair of
operands, division by zero and −2^63 by −1 among them. -/
def Sys2Proof.Says.MultiCycleResults : Prop :=
  ∀ i n d a b f, multiCycle i = some (n, d, a, b, f) → ∀ s x y c1 c2, Unlocked (kind s) (own s) [a, b] [d] →
    readX (kind s) (own s) a = .ok (x, c1) → readX (kind s) c1 b = .ok (y, c2) →
    Completes i s { c2 with scalars := c2.scalars ++ [{ reg := d, remaining := n, value := f x y }] }

/-- The frame of the scalar integer forms; ADDPC where it raises no cause. Whether the instruction completes or waits, nothing outside its core
changes, every scalar register but the destination reads as before, vector and predicate registers, loop slots, special, trap
and window registers, accumulated results, scratch and caches are as before; only FIFOs of the core that it names as ports,
the pc, the checker, err_inject and the error marks with the cause they raise, and the record of an instruction in progress may differ. A multi-cycle
form changes no scalar register at all when it issues, and adds to the pending results. -/
def Sys2Proof.Says.ScalarFrame : Prop :=
  (∀ i n d a b f, multiCycle i = some (n, d, a, b, f) → ∀ s t, exec i s = .next t →
    OnlyOwnCore s t ∧ ∃ e : Core, coreOf t s.cur =
      { own s with scalars := e.scalars, fifoA := e.fifoA, stirred := e.stirred, marks := e.marks, errInject := e.errInject, pend := e.pend, pc := e.pc,
                   checker := e.checker, landing := e.landing, evalAt := e.evalAt, wait := e.wait, blocked := e.blocked,
                   pulled := e.pulled, taken := e.taken, replies := e.replies }) ∧
  ∀ i d s, (scalarDest i = some d ∨ ∃ imm : BitVec 21, i = .addpc d imm ∧ 0 ≤ ((own s).pc.toNat : Int) + 4 * imm.toInt ∧
      ((own s).pc.toNat : Int) + 4 * imm.toInt ≤ 0x3FFC) → ∀ t, exec i s = .next t →
    OnlyOwnCore s t ∧ (∀ r, r ≠ d → reg (coreOf t s.cur) r = reg (own s) r) ∧ ∃ e : Core, coreOf t s.cur =
      { own s with x := e.x, fifoA := e.fifoA, stirred := e.stirred, marks := e.marks, errInject := e.errInject, pend := e.pend,
                   pc := e.pc, checker := e.checker, landing := e.landing, evalAt := e.evalAt, wait := e.wait, blocked := e.blocked, pulled := e.pulled,
                   taken := e.taken, replies := e.replies }

/-- R93, R94, R98: an instruction that names a register with a pending scalar, or a register that is no port and that a vector-unit
result is bound for, does not issue: its tc passes with nothing else changed. That the tc of such a wait is not frozen, and that results
land in it, is the model's reading (log entry 18). -/
def Sys2Proof.Says.PendingRegisterHolds : Prop :=
  ∀ i d a b f, twoSource i = some (d, a, b, f) → ∀ s,
    (∃ r ∈ [a, b, d], isPort (kind s) r = false ∧ (scalarBusy (own s) r = true ∨ landBusy (own s) r = true)) →
    exec i s = .next (setCore s s.cur { own s with landing := true, wait := .scalar })

/-- The results of the single-tc scalar forms. -/
def Obligations.ScalarResults : Prop := Says.TwoSourceResults ∧ Says.OneSourceResults ∧ Says.InsertAndConstantResults ∧ Says.AddpcResult
/-! ### Control -/

namespace Sys2Proof.Says

/-- Sources, word offset and condition of a conditional branch, written with numbers (R340). -/
def branchForm (i : Instr) : Option (Reg × Reg × BitVec 13 × (Word → Word → Bool)) :=
  match i with
  | .beq a b off => some (a, b, off, fun x y => decide (x.toNat = y.toNat))
  | .bne a b off => some (a, b, off, fun x y => decide (x.toNat ≠ y.toNat))
  | .blt a b off => some (a, b, off, fun x y => decide (x.toInt < y.toInt))
  | .bge a b off => some (a, b, off, fun x y => decide (y.toInt ≤ x.toInt))
  | .bltn a b off => some (a, b, off, fun x y => decide (x.toNat < y.toNat))
  | .bgen a b off => some (a, b, off, fun x y => decide (y.toNat ≤ x.toNat))
  | _ => none

/-- The link register that a jump writes (R373, R374). -/
def linkDest (i : Instr) : Option Reg :=
  match i with
  | .jal _ => some 1#5
  | .jalr d _ _ => some d
  | _ => none

/-- An armed loop slot ends at the pc (R107). -/
def standsAtLoopEnd (c : Core) : Prop := (c.loop0.armed = true ∧ c.loop0.fin = c.pc) ∨ (c.loop1.armed = true ∧ c.loop1.fin = c.pc)

/-- A byte offset within the executing slot that a whole word stands at (R60). -/
def inRange (t : Int) : Prop := 0 ≤ t ∧ t ≤ 0x3FFC

/-- The core after a branch, jump or JTAB has completed at pc t with its taken bit fed (R274). -/
def goneTo (c : Core) (t : Int) (taken : Bool) : Core := feedBranch (retireTo c (BitVec.ofInt 14 t)) taken

/-- The instruction raises a precise cause at the core that steps. -/
abbrev Raises (i : Instr) (s : State) (cause : Cause) (addr : Word) : Prop :=
  exec i s = .next (takeCause s s.cur { cause := cause, addr := addr })

/-- The slot a loop instruction arms, and its state after (R105, R383). -/
def armed (c : Core) (slot : Bool) (fin : Nat) (cnt : BitVec 32) : Core :=
  let l : LoopSlot := { armed := true, start := c.pc + 4#14, fin := BitVec.ofNat 14 (c.pc.toNat + 4 * fin), count := cnt, initial := cnt }
  if slot then { c with loop1 := l } else { c with loop0 := l }

/-- A slot with a count of 0 stays disarmed (R105). -/
def disarmed (c : Core) (slot : Bool) : Core :=
  if slot then { c with loop1 := { c.loop1 with armed := false } } else { c with loop0 := { c.loop0 with armed := false } }

/-- A loop instruction passes the checks that come before its count (R383). -/
def loopPasses (c : Core) (fin : Nat) : Prop :=
  c.inHandler = false ∧ 0 < fin ∧ c.pc.toNat + 4 * fin ≤ 0x3FFC ∧ ¬ standsAtLoopEnd c

/-- The trap address of a loop instruction that fails a check: the end where it lies outside the slot and no earlier check failed. -/
def loopAddr (c : Core) (fin : Nat) : Word :=
  if c.inHandler = false ∧ 0 < fin ∧ 0x3FFC < c.pc.toNat + 4 * fin then BitVec.ofNat 64 (c.pc.toNat + 4 * fin) else 0#64

/-- What has gone into the registers of core c in the landings of one tc: c' holds every due result that is alone with its register
in this tc, under its mask, and every other register as it was (R95, R97, R111). -/
def landedInto (c c' : Core) (due : List Landing) (dueX : List ScalarPending) : Prop :=
  (∀ l ∈ due, l.kind = .v → (∀ m ∈ due, m.kind = .v → m.reg = l.reg → m = l) → ∀ h : l.reg < 32,
    c'.v[l.reg] = (c.v[l.reg] &&& ~~~l.mask) ||| (l.value &&& l.mask)) ∧
  (∀ l ∈ due, l.kind = .p → (∀ m ∈ due, m.kind = .p → m.reg = l.reg → m = l) → ∀ h : l.reg < 8, 0 < l.reg →
    c'.p[l.reg] = l.value.setWidth 128) ∧
  (∀ e ∈ dueX, (∀ m ∈ dueX, m.reg = e.reg → m = e) → (∀ l ∈ due, l.kind = .x → l.reg ≠ e.reg.toNat) → e.reg ≠ 0#5 →
    reg c' e.reg = e.value) ∧
  (∀ l ∈ due, l.kind = .x → (∀ m ∈ due, m.kind = .x → m.reg = l.reg → m = l) → (∀ e ∈ dueX, e.reg.toNat ≠ l.reg) →
    ∀ r : Reg, r.toNat = l.reg → r ≠ 0#5 → reg c' r = l.value.setWidth 64) ∧
  (∀ r (h : r < 32), (∀ l ∈ due, l.kind = .v → l.reg ≠ r) → c'.v[r] = c.v[r]) ∧
  (∀ r (h : r < 8), (∀ l ∈ due, l.kind = .p → l.reg ≠ r) → c'.p[r] = c.p[r]) ∧
  (∀ r : Reg, (∀ l ∈ due, l.kind = .x → l.reg ≠ r.toNat) → (∀ e ∈ dueX, e.reg ≠ r) → reg c' r = reg c r)

/-- The results in flight of a core one landing phase on (R95). -/
def older (c : Core) : List Landing := c.inflight.map fun l => { l with remaining := l.remaining - 1, age := l.age + 1 }

/-- The pending scalar results of a core one tc on (R94). -/
def olderX (c : Core) : List ScalarPending := c.scalars.map fun e => { e with remaining := e.remaining - 1, age := e.age + 1 }

end Sys2Proof.Says

/-- R340, R60, R107: BEQ, BNE, BLT, BGE, BLTN, BGEN go on at their target when their condition holds and at the next word otherwise,
with the operands read in both cases; a target outside the slot, and a branch at an armed loop end, raise ILLEGAL. -/
def Sys2Proof.Says.BranchResults : Prop :=
  ∀ i a b off f, branchForm i = some (a, b, off, f) → ∀ s, let t := ((own s).pc.toNat : Int) + 4 * off.toInt
    (∀ x y c1 c2, inRange t → ¬ standsAtLoopEnd (own s) → Unlocked (kind s) (own s) [a, b] [] →
      readX (kind s) (own s) a = .ok (x, c1) → readX (kind s) c1 b = .ok (y, c2) →
      exec i s = .next (setCore s s.cur (goneTo c2 (if f x y then t else (own s).pc.toNat + 4) (f x y)))) ∧
    (¬ inRange t → Raises i s .illegal (BitVec.ofInt 64 t)) ∧
    (inRange t → standsAtLoopEnd (own s) → Raises i s .illegal 0#64)

/-- R373, R374, R107: J, JAL and JALR go on at their target; JAL leaves the address of the next instruction in x1 and JALR in xd; a
target outside the slot raises ILLEGAL, one of JALR that is no word address ALIGN, a jump at an armed loop end ILLEGAL. -/
def Sys2Proof.Says.JumpResults : Prop :=
  (∀ (off : BitVec 26) s, let t := ((own s).pc.toNat : Int) + 4 * off.toInt
    (inRange t → ¬ standsAtLoopEnd (own s) → exec (.j off) s = .next (setCore s s.cur (goneTo (own s) t true))) ∧
    (inRange t → ¬ standsAtLoopEnd (own s) → Unlocked (kind s) (own s) [] [1#5] →
      exec (.jal off) s = .next (setCore s s.cur (goneTo (putX (own s) 1 (BitVec.ofNat 64 ((own s).pc.toNat + 4))) t true))) ∧
    (¬ inRange t → Raises (.j off) s .illegal (BitVec.ofInt 64 t) ∧ Raises (.jal off) s .illegal (BitVec.ofInt 64 t)) ∧
    (inRange t → standsAtLoopEnd (own s) → Raises (.j off) s .illegal 0#64 ∧ Raises (.jal off) s .illegal 0#64)) ∧
  (∀ d a (imm : BitVec 16) s x c1, Unlocked (kind s) (own s) [a] [d] → readX (kind s) (own s) a = .ok (x, c1) →
    let t := BitVec.ofInt 64 (x.toInt + imm.toInt)
    (∀ c2, t.toNat % 4 = 0 → t.toNat < 0x4000 → ¬ standsAtLoopEnd (own s) →
      writeX (kind s) c1 d (BitVec.ofNat 64 ((own s).pc.toNat + 4)) = .ok c2 →
      exec (.jalr d a imm) s = .next (setCore s s.cur (goneTo c2 t.toNat true))) ∧
    (t.toNat % 4 ≠ 0 → Raises (.jalr d a imm) s .align t) ∧
    (t.toNat % 4 = 0 → 0x4000 ≤ t.toNat → Raises (.jalr d a imm) s .illegal t) ∧
    (t.toNat % 4 = 0 → t.toNat < 0x4000 → standsAtLoopEnd (own s) → Raises (.jalr d a imm) s .illegal 0#64))

/-- R105, R383: LOOP and LOOPI arm their slot with start, end and count; a count of 0 leaves the slot disarmed and goes on after the
body; LOOP with a count of more than 32 bits, and both where a check fails, raise ILLEGAL. -/
def Sys2Proof.Says.LoopArming : Prop :=
  (∀ slot a (fin : BitVec 16) s x c1, loopPasses (own s) fin.toNat → Unlocked (kind s) (own s) [a] [] →
    readX (kind s) (own s) a = .ok (x, c1) →
    (0 < x.toNat → x.toNat < 2 ^ 32 → Completes (.loop slot a fin) s (armed c1 slot fin.toNat (BitVec.ofNat 32 x.toNat))) ∧
    (x.toNat = 0 → exec (.loop slot a fin) s =
      .next (setCore s s.cur (retireTo (disarmed c1 slot) (BitVec.ofNat 14 ((own s).pc.toNat + 4 * fin.toNat + 4))))) ∧
    (2 ^ 32 ≤ x.toNat → Raises (.loop slot a fin) s .illegal 0#64)) ∧
  (∀ slot (cnt : BitVec 12) (fin : BitVec 13) s, loopPasses (own s) fin.toNat →
    (0 < cnt.toNat → Completes (.loopi slot cnt fin) s (armed (own s) slot fin.toNat (BitVec.ofNat 32 cnt.toNat))) ∧
    (cnt.toNat = 0 → exec (.loopi slot cnt fin) s =
      .next (setCore s s.cur (retireTo (disarmed (own s) slot) (BitVec.ofNat 14 ((own s).pc.toNat + 4 * fin.toNat + 4)))))) ∧
  (∀ slot a (fin : BitVec 16) s, ¬ loopPasses (own s) fin.toNat → Raises (.loop slot a fin) s .illegal (loopAddr (own s) fin.toNat)) ∧
  (∀ slot (cnt : BitVec 12) (fin : BitVec 13) s, ¬ loopPasses (own s) fin.toNat →
    Raises (.loopi slot cnt fin) s .illegal (loopAddr (own s) fin.toNat))

/-- R106: LOOP_EVAL, with an armed slot that ended where the last instruction stood. One slot: its count falls by 1, and execution
goes to its start, or falls through with the slot disarmed. Both: L1 first; when it reaches 0 it reloads and L0 counts; when both reach 0
execution falls through and both disarm. -/
def Sys2Proof.Says.LoopEvaluation : Prop :=
  ∀ s e, (own s).evalAt = some e → ∃ c', exec .loopEval s = .next (setCore s s.cur c') ∧ c'.evalAt = none ∧
    (let l0 := (own s).loop0; let l1 := (own s).loop1
     let h0 := l0.armed = true ∧ l0.fin = e; let h1 := l1.armed = true ∧ l1.fin = e
     let n0 := l0.count - 1#32; let n1 := l1.count - 1#32
     (h0 → ¬ h1 → n0 ≠ 0#32 → c'.pc = l0.start ∧ c'.loop0 = { l0 with count := n0 } ∧ c'.loop1 = l1) ∧
     (h0 → ¬ h1 → n0 = 0#32 → c'.pc = e + 4#14 ∧ c'.loop0 = { l0 with count := 0, armed := false } ∧ c'.loop1 = l1) ∧
     (h1 → ¬ h0 → n1 ≠ 0#32 → c'.pc = l1.start ∧ c'.loop1 = { l1 with count := n1 } ∧ c'.loop0 = l0) ∧
     (h1 → ¬ h0 → n1 = 0#32 → c'.pc = e + 4#14 ∧ c'.loop1 = { l1 with count := 0, armed := false } ∧ c'.loop0 = l0) ∧
     (h0 → h1 → n1 ≠ 0#32 → c'.pc = l1.start ∧ c'.loop1 = { l1 with count := n1 } ∧ c'.loop0 = l0) ∧
     (h0 → h1 → n1 = 0#32 → n0 ≠ 0#32 → c'.pc = l0.start ∧ c'.loop1 = { l1 with count := l1.initial } ∧ c'.loop0 = { l0 with count := n0 }) ∧
     (h0 → h1 → n1 = 0#32 → n0 = 0#32 → c'.pc = e + 4#14 ∧ c'.loop0.armed = false ∧ c'.loop1.armed = false) ∧
     ∃ x : Core, c' = { own s with evalAt := none, pc := x.pc, loop0 := x.loop0, loop1 := x.loop1, checker := x.checker })

/-- R414, R107: TRAP completes and BREAK becomes due at the next instruction's boundary; at an armed loop end it raises ILLEGAL. -/
def Sys2Proof.Says.TrapRaisesBreakAfterwards : Prop :=
  ∀ s, (¬ standsAtLoopEnd (own s) → ∃ c', exec .trap s = .next (setCore s s.cur (retire c')) ∧
      c' = { own s with pend := (own s).pend ++ [{ cause := .brk }] }) ∧
    (standsAtLoopEnd (own s) → Raises .trap s .illegal 0#64)

/-- R241, R111, R415, R416: TRET in a handler none of whose results is in flight goes on at trap_pc bits 2..13 times 4, leaves the
handler, restores the checker, and puts the records captured at entry back in flight, each due relative to the tc after; outside
a handler, and at an armed loop end, it raises ILLEGAL; while a result is in flight its tc passes. -/
def Sys2Proof.Says.TretReturns : Prop :=
  ∀ s, ((own s).inHandler = true → ¬ standsAtLoopEnd (own s) → (own s).inflight = [] → ∃ c', exec .tret s = .next (setCore s s.cur c') ∧
      c'.pc = BitVec.ofNat 14 ((own s).trapPc.toNat / 4 % 4096 * 4) ∧ c'.inHandler = false ∧ c'.records = [] ∧
      c'.inflight = (own s).records.map (fun l => { l with remaining := l.remaining + 1 }) ∧
      (wordAt (own s) (own s).pc = 0x0100001B#32 → c'.checker = (own s).heldChecker) ∧ c'.loop0 = (own s).loop0 ∧ c'.loop1 = (own s).loop1 ∧ c'.x = (own s).x ∧
      c'.v = (own s).v ∧ c'.p = (own s).p ∧ c'.trapPc = (own s).trapPc) ∧
    ((own s).inHandler = false → Raises .tret s .illegal 0#64) ∧
    ((own s).inHandler = true → standsAtLoopEnd (own s) → Raises .tret s .illegal 0#64) ∧
    ((own s).inHandler = true → ¬ standsAtLoopEnd (own s) → (own s).inflight ≠ [] →
      exec .tret s = .next (setCore s s.cur { own s with landing := true, wait := .scalar }))

/-- R274, R406: SIG has no effect while checking is off or a handler runs; otherwise it raises SIGFAULT with its pc on a mismatch,
and arms the checker with its signature. -/
def Sys2Proof.Says.SignatureCheck : Prop :=
  ∀ sig s, ((own s).sigCtl = false ∨ (own s).inHandler = true → Completes (.sig sig) s (own s)) ∧
    ((own s).sigCtl = true → (own s).inHandler = false →
      ((own s).checker.armed = true → (own s).checker.crc ≠ (own s).checker.expected →
        Raises (.sig sig) s .sigFault (BitVec.ofNat 64 (own s).pc.toNat)) ∧
      ((own s).checker.armed = false ∨ (own s).checker.crc = (own s).checker.expected →
        Completes (.sig sig) s { own s with checker := { crc := 0xFFFF#16, armed := true, expected := sig } }))

/-- The frame of branches, J, JAL, JALR, LOOP, LOOPI, SIG, TRAP, TRET and LOOP_EVAL: unless the instruction raises a cause, nothing
outside the core changes, every scalar register but a link register reads as before, and special, vector, predicate, trap and
window registers, pending results, scratch and caches are as before; the loop slots, the pc, the checker, FIFOs named as ports, the
causes due and the record of the instruction in progress may differ, and what a handler's entry has saved at TRET. -/
def Sys2Proof.Says.ControlFrame : Prop :=
  ∀ i s t, (branchForm i).isSome = true ∨ (∃ off, i = .j off) ∨ (∃ off, i = .jal off) ∨ (∃ d a imm, i = .jalr d a imm) ∨
      (∃ k a e, i = .loop k a e) ∨ (∃ k n e, i = .loopi k n e) ∨ (∃ w, i = .sig w) ∨ i = .trap ∨ i = .tret ∨ i = .loopEval →
    exec i s = .next t → (∃ tr, t = takeCause s s.cur tr) ∨
    OnlyOwnCore s t ∧ (∀ r, linkDest i ≠ some r → reg (coreOf t s.cur) r = reg (own s) r) ∧
    (i ≠ .tret → (coreOf t s.cur).inflight = (own s).inflight ∧ (coreOf t s.cur).records = (own s).records ∧
      (coreOf t s.cur).inHandler = (own s).inHandler ∧ (coreOf t s.cur).undoInHandler = (own s).undoInHandler) ∧
    ∃ e : Core, coreOf t s.cur =
      { own s with x := e.x, loop0 := e.loop0, loop1 := e.loop1, inflight := e.inflight, records := e.records,
                   inHandler := e.inHandler, undoInHandler := e.undoInHandler, fifoA := e.fifoA, stirred := e.stirred,
                   marks := e.marks, errInject := e.errInject, pend := e.pend, pc := e.pc, checker := e.checker, landing := e.landing, evalAt := e.evalAt, wait := e.wait,
                   blocked := e.blocked, pulled := e.pulled, taken := e.taken, replies := e.replies }

/-- R95 to R97, R111, R94: the landings of a tc in which every result due goes to a register: what is due is written, a vector result
under its mask, everything else in flight comes one tc nearer in its order, cycle counts, a further tc of the instruction before is passed, and nothing outside the core changes.
VECTOR_LANDING makes them, and SCALAR_RESULT_WRITE when a multi-cycle scalar result is among them. -/
def Sys2Proof.Says.LandingsOfATc : Prop :=
  ∀ s, (own s).landing = true → (own s).evalAt = none →
    (∀ l ∈ (own s).inflight, l.remaining ≤ 1 → kind s ≠ .tile ∨ l.reg < 28) →
    (∀ e ∈ (own s).scalars, e.remaining ≤ 1 → isPort (kind s) e.reg = false) →
    ∃ c', exec .vectorLanding s = .next (setCore s s.cur c') ∧
      ((∃ e ∈ (own s).scalars, e.remaining ≤ 1) → exec .scalarResultWrite s = .next (setCore s s.cur c')) ∧
      c'.cycle = (own s).cycle + 1#64 ∧ c'.landing = decide (0 < (own s).busy) ∧ c'.busy = (own s).busy - 1 ∧ c'.pc = (own s).pc ∧
      c'.inflight = (older (own s)).filter (fun l => l.remaining != 0) ∧
      c'.scalars = (olderX (own s)).filter (fun e => e.remaining != 0) ∧
      landedInto (own s) c' ((older (own s)).filter fun l => l.remaining == 0) ((olderX (own s)).filter fun e => e.remaining == 0) ∧
      ∃ e : Core, c' = { own s with x := e.x, v := e.v, p := e.p, inflight := e.inflight, scalars := e.scalars, cycle := e.cycle,
                                    landing := e.landing, busy := e.busy, wait := e.wait }

/-- Multi-cycle scalars, what holds an instruction for them, and the landings of a tc. -/
def Obligations.ResultsInFlight : Prop := Says.MultiCycleResults ∧ Says.PendingRegisterHolds ∧ Says.LandingsOfATc

/-- Branches and jumps. -/
def Obligations.BranchesAndJumps : Prop := Says.BranchResults ∧ Says.JumpResults

/-- LOOP and the evaluation of the loop slots. -/
def Obligations.HardwareLoops : Prop := Says.LoopArming ∧ Says.LoopEvaluation

/-- TRAP, TRET and SIG. -/
def Obligations.TrapReturnSignature : Prop := Says.TrapRaisesBreakAfterwards ∧ Says.TretReturns ∧ Says.SignatureCheck
/-! ### Causes and the step -/

namespace Sys2Proof.Says

/-- The core stands at an instruction boundary: the landings of its last tc are made, no loop end waits to be evaluated, and the
instruction at the pc has popped nothing. -/
def atRest (c : Core) : Prop := c.landing = false ∧ c.evalAt = none ∧ c.pulled = []

/-- The causes that a program's handler takes (R237); a deferred REMOTE_LOST is not one. -/
def handlerTakes (t : Trap) : Prop :=
  t.cause ≠ .ue ∧ t.cause ≠ .sigFault ∧ t.cause ≠ .undoQuota ∧ t.cause ≠ .stageQuota ∧ ¬ (t.cause = .remoteLost ∧ t.deferred = true)

/-- Nothing stops the core that steps from fetching: it runs, its gang is neither being saved nor under a token, no request of its is on
its way, no cause that it could take is due, and its word holds no error. -/
def fetches (s : State) : Prop :=
  s.agenda = [] ∧ (own s).mode = .running ∧ gangStopping s (own s) = false ∧ tokenApplied s (own s) = false ∧
  (own s).blocked = false ∧ (own s).evalAt = none ∧ (own s).landing = false ∧ takeable (own s) = none ∧
  codeMarked (own s) = false

/-- What no address of the package holds: a code of R237 that is never raised. -/
def neverRaised (n : Nat) : Prop := n = 0 ∨ 0x16 ≤ n

end Sys2Proof.Says

/-- R239: a cause of class H, taken by a core that is in no handler, saves code, pc and address, sets in_handler and the records, which
are the results in flight, holds the checker state with a fresh checker, leaves the loop slots and the registers, and goes on at trap_vec
bits 2..13 times 4. -/
def Sys2Proof.Says.HandlerEntry : Prop :=
  ∀ s a t, handlerTakes t → (coreOf s a).inHandler = false → atRest (coreOf s a) → ∃ c', takeCause s a t = setCore s a c' ∧
    c'.trapCause = BitVec.ofNat 64 t.cause.code.toNat ∧ c'.trapPc = BitVec.ofNat 64 (coreOf s a).pc.toNat ∧ c'.trapAddr = t.addr ∧
    c'.sub = t.sub ∧ c'.posted = t.posted ∧ c'.bySwitch = t.switch ∧ c'.inHandler = true ∧
    c'.records = (coreOf s a).inflight ∧ c'.inflight = [] ∧ c'.heldChecker = (coreOf s a).checker ∧ c'.checker.crc = 0xFFFF#16 ∧
    c'.pc = BitVec.ofNat 14 ((coreOf s a).trapVec.toNat / 4 % 4096 * 4) ∧
    ∃ e : Core, c' = { coreOf s a with
      trapCause := e.trapCause, trapPc := e.trapPc, trapAddr := e.trapAddr, sub := e.sub, posted := e.posted, bySwitch := e.bySwitch,
      inHandler := e.inHandler, records := e.records, inflight := e.inflight, heldChecker := e.heldChecker, checker := e.checker,
      undoRaised := e.undoRaised, undoInHandler := e.undoInHandler, pc := e.pc, landing := e.landing, wait := e.wait,
      blocked := e.blocked, pulled := e.pulled, taken := e.taken, replies := e.replies }

/-- R240: a class-H cause at a core that is in a handler is a double fault: the trap registers keep the first cause, the supervisor is
told both, and the gang is stopped and saved as at pre-emption. It says what taking the cause does; a posted refusal that comes in a
handler is held until TRET and not taken there (R240). -/
def Sys2Proof.Says.DoubleFaultSavesTheGang : Prop :=
  ∀ s a t g, handlerTakes t → (coreOf s a).inHandler = true → (coreOf s a).gang = some g →
    ∃ s', takeCause s a t = s' ∧ (coreOf s' a).trapCause = (coreOf s a).trapCause ∧ (coreOf s' a).trapPc = (coreOf s a).trapPc ∧
      (coreOf s' a).trapAddr = (coreOf s a).trapAddr ∧ (coreOf s' a).inHandler = true ∧
      (∃ first, s'.notices = s.notices ++ [.doubleFault (agentCode a) first t] ∧ first.addr = (coreOf s a).trapAddr) ∧
      s'.agenda = .event (.preempt g) :: s.agenda ∧ s'.mem = s.mem ∧ s'.gangs = s.gangs

/-- R239, R237: a class-S cause freezes the core with its trap registers set and tells the supervisor; a class-L cause triggers a
rollback of a context that runs laps and stops the job of another. That a class-L cause sets the trap registers as well is the model's
reading (log entry 26). -/
def Sys2Proof.Says.SupervisorAndLapCauses : Prop :=
  (∀ s a t, t.cause = .undoQuota ∨ t.cause = .stageQuota → atRest (coreOf s a) → ∃ s', takeCause s a t = s' ∧
    (coreOf s' a).mode = .sFreeze ∧ (coreOf s' a).trapCause = BitVec.ofNat 64 t.cause.code.toNat ∧
    (coreOf s' a).trapPc = BitVec.ofNat 64 (coreOf s a).pc.toNat ∧ (coreOf s' a).trapAddr = t.addr ∧
    (coreOf s' a).pc = (coreOf s a).pc ∧ (coreOf s' a).x = (coreOf s a).x ∧ (coreOf s' a).inflight = (coreOf s a).inflight ∧
    s'.notices = s.notices ++ [.frozen (agentCode a) t] ∧ s'.mem = s.mem) ∧
  (∀ s n t x, t.cause = .ue ∨ t.cause = .sigFault ∨ (t.cause = .remoteLost ∧ t.deferred = true) →
    ctxOf s (coreOf s (.tile n)) = some x → ∃ s', takeCause s (.tile n) t = s' ∧
    (coreOf s' (.tile n)).trapCause = BitVec.ofNat 64 t.cause.code.toNat ∧
    ((contextOf s x).laps = true → s'.agenda = .event (.rollback x) :: s.agenda ∧ (contextOf s' x).trigger = some t.cause) ∧
    ((contextOf s x).laps = false → (contextOf s x).stopped = none →
      (contextOf s' x).stopped = some t.cause ∧ (contextOf s' x).running = (contextOf s x).running ∧ s'.notices = s.notices ++ [.jobStopped x t.cause] ∧
      ∀ e ∈ s.gangs, e.2.ctx = x → e.2.state ≠ .saved → Turn.event (.preempt e.1) ∈ s'.agenda))

/-- R237: each cause has the code of the table, no two causes one code, and no cause a code that is never raised. -/
def Sys2Proof.Says.CauseCodes : Prop :=
  (∀ c d : Cause, c.code = d.code → c = d) ∧ (∀ c : Cause, ¬ neverRaised c.code.toNat) ∧
  Cause.illegal.code = 1#8 ∧ Cause.priv.code = 2#8 ∧ Cause.align.code = 3#8 ∧ Cause.page.code = 4#8 ∧ Cause.perm.code = 5#8 ∧
  Cause.cid.code = 6#8 ∧ Cause.boundary.code = 7#8 ∧ Cause.lease.code = 8#8 ∧ Cause.refused.code = 9#8 ∧ Cause.remoteLost.code = 10#8 ∧
  Cause.ue.code = 11#8 ∧ Cause.sigFault.code = 12#8 ∧ Cause.undoFull.code = 13#8 ∧ Cause.undoQuota.code = 14#8 ∧
  Cause.stageQuota.code = 15#8 ∧ Cause.deadlock.code = 16#8 ∧ Cause.heatState.code = 17#8 ∧ Cause.overlap.code = 18#8 ∧
  Cause.loadFail.code = 19#8 ∧ Cause.jtab.code = 20#8 ∧ Cause.brk.code = 21#8

/-- A step runs the decoded instruction: when the word at the pc of the core that steps decodes to an instruction that its kind of core
takes, the step is exec of that instruction at that state; a word that does not decode, or one its kind refuses, raises ILLEGAL there; the
word that stands where withFetchWord puts it is the one that runs. -/
def Obligations.StepRunsDecodedInstruction : Prop :=
  (∀ s i, fetches s → decode (wordAt (own s) (own s).pc) = .ok i → i.usableOn (kind s) = true → step s = exec i s) ∧
  (∀ s, fetches s → (∀ i, decode (wordAt (own s) (own s).pc) = .ok i → i.usableOn (kind s) = false) →
    step s = .next (takeCause s s.cur { cause := .illegal })) ∧
  (∀ s n i, s.agenda = [.switch n] → n < 2048 → (coreOf s (.tile n)).mode ≠ .off → (coreOf s (.tile n)).swHalted = false →
    (coreOf s (.tile n)).swWaitH = false → gangStopping s (coreOf s (.tile n)) = false → tokenApplied s (coreOf s (.tile n)) = false →
    gangAtSeal s (coreOf s (.tile n)) = false → swcodeMarked (coreOf s (.tile n)) = false → decodeSwitch (switchWord (coreOf s (.tile n))) = .ok i → step s = exec i { s with agenda := [], cur := .tile n }) ∧
  (∀ s i pick rest, s.agenda = .event i pick :: rest → encode i = none → step s = exec i { s with agenda := rest, pick := pick }) ∧
  (∀ (s : State) w i, w < 2 ^ 32 → decode (BitVec.ofNat 32 w) = .ok i → i.usableOn (if w % 64 = 0x30 then .mem else .tile) = true →
    step (s.withFetchWord 32 w) = exec i (s.withFetchWord 32 w)) ∧
  (∀ (s : State) w i, w < 2 ^ 64 → decodeSwitch (BitVec.ofNat 64 w) = .ok i →
    step (s.withFetchWord 64 w) = exec i { s.withFetchWord 64 w with agenda := [], cur := .tile 0 })

/-- R93, R237, R109: a cause that is due and that the core can take is taken at the next boundary in place of the instruction, and
leaves the list of causes due: the core with the cause enters its handler at the same pc. -/
def Sys2Proof.Says.BoundaryCauseIsTaken : Prop :=
  ∀ s t, s.agenda = [] → (own s).mode = .running → gangStopping s (own s) = false → tokenApplied s (own s) = false →
    (own s).blocked = false → atRest (own s) → (own s).wait = .none → takeable (own s) = some t → handlerTakes t →
    (own s).inHandler = false → ∃ s', step s = .next s' ∧ (coreOf s' s.cur).trapPc = BitVec.ofNat 64 (own s).pc.toNat ∧
      (coreOf s' s.cur).trapCause = BitVec.ofNat 64 t.cause.code.toNat ∧ (coreOf s' s.cur).pend = (own s).pend.erase t ∧
      (coreOf s' s.cur).inHandler = true ∧ (coreOf s' s.cur).x = (own s).x ∧ s'.mem = s.mem

/-- R53, R56, R59: on a tile core LOOP, MTS, MFS, CAS, INS and LIS with a field that would name a port are refused, and no other core
refuses them; the matrix, buffer and cursor forms run on tile cores only, the stream forms on memory cores only. -/
def Sys2Proof.Says.FieldsThatWouldNameAPort : Prop :=
  (∀ (r q : Reg) slot fin sr pos len1 imm k,
    ((Instr.loop slot r fin).usableOn k = true ↔ ¬ (k = .tile ∧ 28 ≤ r.toNat)) ∧ ((Instr.mts r sr).usableOn k = true ↔ ¬ (k = .tile ∧ 28 ≤ r.toNat)) ∧
    ((Instr.mfs r sr).usableOn k = true ↔ ¬ (k = .tile ∧ 28 ≤ r.toNat)) ∧ ((Instr.casW r q q).usableOn k = true ↔ ¬ (k = .tile ∧ 28 ≤ r.toNat)) ∧
    ((Instr.casD r q q).usableOn k = true ↔ ¬ (k = .tile ∧ 28 ≤ r.toNat)) ∧ ((Instr.ins r q pos len1).usableOn k = true ↔ ¬ (k = .tile ∧ 28 ≤ r.toNat)) ∧
    ((Instr.lis r imm).usableOn k = true ↔ ¬ (k = .tile ∧ 28 ≤ r.toNat))) ∧
  (∀ (a b : Reg) n m k, ((Instr.mma a).usableOn k = true ↔ k = .tile) ∧ ((Instr.mcell a).usableOn k = true ↔ k = .tile) ∧
    ((Instr.mzero n).usableOn k = true ↔ k = .tile) ∧ ((Instr.mdrain a).usableOn k = true ↔ k = .tile) ∧
    (Instr.mlease.usableOn k = true ↔ k = .tile) ∧ (Instr.mrel.usableOn k = true ↔ k = .tile) ∧ (Instr.mwait.usableOn k = true ↔ k = .tile) ∧
    ((Instr.bufdef m a).usableOn k = true ↔ k = .tile) ∧ ((Instr.publish m).usableOn k = true ↔ k = .tile) ∧
    ((Instr.ewait a b).usableOn k = true ↔ k = .tile) ∧ ((Instr.srd a).usableOn k = true ↔ k = .mem) ∧
    ((Instr.swr a).usableOn k = true ↔ k = .mem) ∧ (Instr.swait.usableOn k = true ↔ k = .mem))

/-- The model answers every instruction in every state, and a step stops only at a switch word that does not decode. -/
def Obligations.NoStop : Prop :=
  (∀ i s, ∃ t, exec i s = .next t) ∧ (∀ s : State, s.switchesDecode → s.Answers)

/-- Taking a cause: its code, its taker, what is saved, where the pc goes, when. -/
def Obligations.ExceptionEntry : Prop := Says.HandlerEntry ∧ Says.DoubleFaultSavesTheGang ∧ Says.SupervisorAndLapCauses ∧ Says.CauseCodes ∧ Says.BoundaryCauseIsTaken ∧ Says.FieldsThatWouldNameAPort
/-! ### Encodings, memory's form, reset -/

/-- Words of the spec's own examples, one or more of each format, decode to the instruction the example gives. -/
def Obligations.ExampleWordsDecode : Prop :=
  decode 0x00073141#32 = .ok (.add 5 6 7) ∧ decode 0x09073141#32 = .ok (.slt 5 6 7) ∧ decode 0x00643142#32 = .ok (.addi 5 6 100) ∧
  decode 0x10C8314C#32 = .ok (.extz 5 6 8 3) ∧ decode 0x00C83146#32 = .ok (.rori 5 6 8) ∧
  decode 0x00032149#32 = .ok (.li 5 100) ∧ decode 0xFFFFF14B#32 = .ok (.addpc 5 (BitVec.ofInt 21 (-2))) ∧
  decode 0x01062912#32 = .ok (.amoAddD 4 5 6) ∧ decode 0x01062913#32 = .ok (.casD 4 5 6) ∧
  decode 0x00681614#32 = .ok (.beq 11 0 13) ∧ decode 0xFFE80A54#32 = .ok (.bne 5 0 (BitVec.ofInt 13 (-3))) ∧
  decode 0xFFFFFF95#32 = .ok (.j (BitVec.ofInt 26 (-2))) ∧ decode 0x00082857#32 = .ok (.jalr 1 5 8) ∧
  decode 0x0091A01E#32 = .ok (.sig 0x1234) ∧ decode 0x0301281F#32 = .ok (.acq 5 true) ∧ decode 0x00062822#32 = .ok (.dsend 5 6) ∧
  decode 0x0902001F#32 = .ok (.decide 2) ∧ decode 0x000028EF#32 = .ok (.bufdef 3 5) ∧ decode 0x0100001B#32 = .ok .tret ∧
  decode 0#32 = .error .allZero ∧ decode 0x0100005B#32 = .error .reserved ∧ decode 0x00000032#32 = .error .major

/-- Decode of encode is the instruction, for every instruction of a core or a switch whose operands an encoding admits, with every
operand at every value. -/
def Obligations.DecodeOfEncode : Prop :=
  ∀ i nbits w, i.WellFormed = true → encode i = some (nbits, w) → decodeTableWord nbits w = some i

/-- Encode of decode is the word: a word that decodes is the one word of its instruction, whose operands an encoding admits, so every
reserved bit of it is as the encoding says; no word decodes to an event. -/
def Obligations.EncodeOfDecode : Prop :=
  (∀ w i, decode w = .ok i → i.WellFormed = true ∧ encode i = some (32, w.toNat)) ∧
  (∀ w i, decodeSwitch w = .ok i → i.WellFormed = true ∧ encode i = some (64, w.toNat))

/-- Every step keeps memory in its canonical form: addresses rise strictly, and no entry is what an unlisted byte reads as. -/
def Obligations.StepKeepsMemoryCanonical : Prop :=
  ∀ s t, Memory.wf s.mem = true → step s = .next t → Memory.wf t.mem = true

/-- Memory is in its canonical form at reset, lists nothing and reads as 0 everywhere; what an unlisted byte reads as is the model's
choice (log entry 2). -/
def Sys2Proof.Says.ResetMemory : Prop :=
  Memory.wf State.reset.mem = true ∧ State.reset.mem = [] ∧ ∀ a n, memBytes State.reset a n = List.replicate n 0#8

/-- R302, R220, R235, R54: after reset and before boot no core runs, no gang is placed, no context exists, every queue is unbound, the
host interface is not ready, lease_run reads 16, and every TLB, data cache and receive queue is empty. That the cores are off, that no
cause is due and that the network is empty there is the model's choice (log entry 1). -/
def Sys2Proof.Says.ResetState : Prop :=
  (∀ a, (coreOf State.reset a).mode = .off ∧ (coreOf State.reset a).gang = none ∧ (coreOf State.reset a).leaseRun = 16 ∧
    (coreOf State.reset a).tlb = [] ∧ (coreOf State.reset a).lines = [] ∧ (coreOf State.reset a).recvq = [] ∧
    (coreOf State.reset a).pend = []) ∧
  State.reset.gangs = [] ∧ (∀ x, (contextOf State.reset x).resident = false) ∧
  (∀ q, (tget State.reset.starter.queues {} q).bound = false) ∧ State.reset.mgmt.ready = false ∧ State.reset.net = []

/-- What reset leaves, and that its memory is canonical. -/
def Obligations.ResetStateAndMemory : Prop := Says.ResetMemory ∧ Says.ResetState
/-! ### Loads, stores, translation -/

namespace Sys2Proof.Says

/-- Bytes of a width code (R58). -/
abbrev nbytes (w : BitVec 2) : Nat := 2 ^ w.toNat

/-- What a load of a width and a natural bit writes for a value (R58, R81), written with numbers. -/
def extended (w : BitVec 2) (nat : Bool) (v : Nat) : Word :=
  if nat then BitVec.ofNat 64 (v % 2 ^ (8 * nbytes w))
  else if v % 2 ^ (8 * nbytes w) < 2 ^ (8 * nbytes w - 1) then BitVec.ofNat 64 (v % 2 ^ (8 * nbytes w))
  else BitVec.ofInt 64 ((v % 2 ^ (8 * nbytes w) : Nat) - 2 ^ (8 * nbytes w) : Int)

/-- An access of n bytes at va by core c1 goes into the data cache: its translation passes, the page has no M, the package is reachable,
and the line of the context stands under key (R178, R211). -/
def lineFound (s : State) (c1 : Core) (ac : AccessClass) (va : Word) (c2 : Core) (key : Nat) : Prop :=
  ∃ e phys, translate s (kind s) c1 ac va = .ok e phys c2 ∧ kind s = .tile ∧ leafM e = false ∧ unroutable s phys = false ∧
    findWay c2 ((ctxOf s c2).getD 0) va.toNat = some key

/-- A load of n bytes hits in a line: every byte it reads is dirty, or its sector is filled with the current generation (R178). -/
def hits (c : Core) (l : Line) (va n : Nat) : Prop :=
  (∀ j, j < n → l.dirty.getLsbD (va % 128 + j) = true) ∨
  (l.filled.getLsbD (va % 128 / 32) = true ∧ l.gens.extractLsb' (8 * (va % 128 / 32)) 8 = c.gen)

/-- n bytes of a line as a number (R4). -/
def lineBytes (l : Line) (va n : Nat) : Nat := l.data.toNat / 2 ^ (8 * (va % 128)) % 2 ^ (8 * n)

/-- The core after an answered access, its remaining answers and one more LDNF counted, with its bit set when suppressed (R101). -/
def ldnfDone (c : Core) (r : List Reply) (sup : Bool) : Core :=
  { c with replies := r, nfCount := c.nfCount + 1,
           nfStat := if sup = true ∧ c.nfCount < 64 then c.nfStat ||| BitVec.ofNat 64 (2 ^ c.nfCount) else c.nfStat }

/-- The instruction has asked and waits: its core is blocked with wait w at the same pc, nothing is written, the packet stands last on the
network, and nothing but cores and the network differs. -/
def asks (i : Instr) (s : State) (w : Wait) (p : Packet) : Prop :=
  ∃ t, exec i s = .next t ∧ t = { s with cores := t.cores, net := t.net } ∧ t.net.getLast? = some p ∧
    (∀ q ∈ s.net, q ∈ t.net) ∧ (coreOf t s.cur).blocked = true ∧ (coreOf t s.cur).wait = w ∧ (coreOf t s.cur).pc = (own s).pc ∧
    (coreOf t s.cur).x = (own s).x ∧ (∀ a, a ≠ s.cur → coreOf t a = coreOf s a)

/-- The page of va is entry e in the core's TLB, and an access with these needs passes every check (R209, R211, R181, R217, R295): the address
is below 2^56, e is the first entry of the core's context whose page holds it, it is valid, grants what is needed (reading, writing, M),
is no host page, has no configuration identity or the leg's, and leads to installed memory of this package or of one that is not lost. -/
def mapped (s : State) (c : Core) (r w m : Bool) (va : Word) (e : Leaf) : Prop :=
  kind s ≠ .supervisor ∧ va.toNat < 2 ^ 56 ∧
  (∃ l t rest, c.tlb = l ++ t :: rest ∧ (∀ x ∈ l, ¬ (x.ctx = (ctxOf s c).getD 0 ∧ leafCovers x.leaf va.toNat = true)) ∧
    t.ctx = (ctxOf s c).getD 0 ∧ leafCovers t.leaf va.toNat = true ∧ t.leaf = e) ∧
  leafV e = true ∧ (leafCfg e = 0#8 ∨ leafCfg e = cfgOf s c) ∧ (r = true → leafR e = true) ∧ (w = true → leafW e = true) ∧
  (m = true → leafM e = true) ∧ leafH e = false ∧
  (leafPkg e = s.ownPkg ∨ (leafInc e = incarnation s (leafPkg e) ∧ tget s.routes 0#24 (leafPkg e) ≠ 0#24)) ∧
  installed (leafPkg e * 2 ^ 48 + leafFrame e * 4096 + va.toNat % 2 ^ pageBits (leafSize e)) = true

/-- The domain physical address that entry e gives va (R25, R211). -/
def physAt (e : Leaf) (va : Word) : Nat := leafPkg e * 2 ^ 48 + leafFrame e * 4096 + va.toNat % 2 ^ pageBits (leafSize e)

/-- The physical offsets of the n bytes at offset o in the halves that the core sees (R172). -/
def seen (c : Core) (o n : Nat) : List Nat := (List.range n).map fun i => visible c.bufs (o + i)

/-- A local access of n bytes at offset o is in bounds: within the scratch, and, where the leg has laps, outside the undo area, be it through
a buffer (R166, R262). -/
def inScratch (s : State) (c : Core) (o n : Nat) : Prop :=
  o < scratchSize (kind s) ∧ (undoReserved s (kind s) c = true → o + n ≤ 0xF0000 ∧ ∀ p ∈ seen c o n, p < 0xF0000)

/-- Sectors of 32 bytes that a write to physical offsets ps is the first to touch in the lap, in the order in which it comes to them; none
where no undo logging runs (R256, R262, R427). -/
def firstWritten (s : State) (k : CoreKind) (c : Core) (ps : List Nat) : List Nat :=
  if undoActive s k c = true then ps.foldl (fun fs p => if p / 32 ∈ fs ∨ p / 32 ∈ c.logged then fs else fs ++ [p / 32]) [] else []

/-- Byte j of the scratch undo record of sector x, with the bytes that core c holds: the sector's offset, the lap, zeros, the old
bytes (R262). -/
def undoRecordByte (c : Core) (lap x j : Nat) : Nat :=
  if j < 4 then 32 * x / 2 ^ (8 * j) % 2 ^ 8
  else if j < 8 then lap / 2 ^ (8 * (j - 4)) % 2 ^ 8
  else if j < 32 then 0
  else (tget c.scratch 0#8 (32 * x + (j - 32))).toNat

/-- Core c' is c with the sectors fs logged: a record of each stands behind those of the area, which has grown by 64 bytes for each (R262). -/
def logs (s : State) (c c' : Core) (fs : List Nat) : Prop :=
  c'.undoFill = c.undoFill + 64 * fs.length ∧ (∀ x, x ∈ c'.logged ↔ x ∈ fs ∨ x ∈ c.logged) ∧
  ∀ i x j, fs[i]? = some x → j < 64 → (tget c'.scratch 0#8 (0xF0000 + c.undoFill + 64 * i + j)).toNat =
    undoRecordByte c (contextOf s ((ctxOf s c).getD 0)).lapId.toNat x j

/-- Offset q is not among the offsets ps of a write, nor in the records of the sectors fs that it logs. -/
def untouched (c : Core) (fs ps : List Nat) (q : Nat) : Prop :=
  q ∉ ps ∧ ¬ (0xF0000 + c.undoFill ≤ q ∧ q < 0xF0000 + c.undoFill + 64 * fs.length)

/-- Core c' is core c after a write to the physical offsets ps, whatever its bytes: the sectors fs are logged, no other byte of scratch and no
other error mark differs, and UNDO_FULL becomes due, naming the first sector logged, where the area is then to be spilled and
none is pending (R262, R263, R271). -/
def scratchStored (s : State) (c c' : Core) (fs ps : List Nat) (due : Prop) : Prop :=
  c' = { c with scratch := c'.scratch, marks := c'.marks, logged := c'.logged, undoFill := c'.undoFill, undoRaised := c'.undoRaised,
                pend := c'.pend } ∧
  logs s c c' fs ∧ (∀ q, untouched c fs ps q → tget c'.scratch 0#8 q = tget c.scratch 0#8 q) ∧
  (∀ m, m ∈ c'.marks ↔ m ∈ c.marks ∧ ∀ q, m = .scratch q → untouched c fs ps q) ∧
  (fs ≠ [] ∧ due ∧ c.undoRaised = false ∧ c.undoInHandler = false → c'.undoRaised = true ∧
    c'.pend = c.pend ++ [{ cause := .undoFull, addr := BitVec.ofNat 64 (32 * fs.headD 0) }]) ∧
  (¬ (fs ≠ [] ∧ due ∧ c.undoRaised = false ∧ c.undoInHandler = false) → c'.undoRaised = c.undoRaised ∧ c'.pend = c.pend)

/-- A write of a core's own instruction that would log the sectors fs is refused: the area is to be spilled first, or, in a handler, has no room
for their records (R263). -/
def noUndoRoom (c : Core) (fs : List Nat) : Prop :=
  fs ≠ [] ∧ ((c.inHandler = false ∧ 0xE000 ≤ c.undoFill) ∨ (c.inHandler = true ∧ 0x10000 < c.undoFill + 64 * fs.length))

/-- A write of an engine or a remote store that would log the sectors fs stalls: the area has no room for their records (R263). -/
def undoStalls (c : Core) (fs : List Nat) : Prop := fs ≠ [] ∧ 0x10000 < c.undoFill + 64 * fs.length

/-- What the errors among bytes of scratch come to: the first of them is consumed (R271). -/
def scratchUE (c : Core) (ps : List Nat) : List Trap :=
  ((ps.filter fun p => decide (ErrorMark.scratch p ∈ c.marks)).take 1).map fun p => { cause := .ue, addr := BitVec.ofNat 64 p }

/-- The scalar register that a load or atomic writes. -/
def accessDest (i : Instr) : Option Reg :=
  match i with
  | .ld d _ _ _ _ | .ldnf d _ _ _ _ | .ldl d _ _ _ _ => some d
  | .amoAddW d _ _ | .amoAddD d _ _ | .amoMinW d _ _ | .amoMinD d _ _ | .amoMaxW d _ _ | .amoMaxD d _ _ | .amoMinnW d _ _
  | .amoMinnD d _ _ | .amoMaxnW d _ _ | .amoMaxnD d _ _ | .amoAndD d _ _ | .amoOrD d _ _ | .amoXorD d _ _ | .amoSwapW d _ _
  | .amoSwapD d _ _ | .amoFaddF32 d _ _ | .amoFaddBf16x4 d _ _ | .amoIncbW d _ _ | .casW d _ _ | .casD d _ _ => some d
  | _ => none

/-- Operation, bytes, registers, and whether the old value is zero-extended, of the AMO members (R335). -/
def amoForm (i : Instr) : Option (AtomicOp × Nat × Reg × Reg × Reg × Bool) :=
  match i with
  | .amoAddW d a b => some (.add, 4, d, a, b, false)
  | .amoAddD d a b => some (.add, 8, d, a, b, false)
  | .amoMinW d a b => some (.min, 4, d, a, b, false)
  | .amoMinD d a b => some (.min, 8, d, a, b, false)
  | .amoMaxW d a b => some (.max, 4, d, a, b, false)
  | .amoMaxD d a b => some (.max, 8, d, a, b, false)
  | .amoMinnW d a b => some (.minn, 4, d, a, b, true)
  | .amoMinnD d a b => some (.minn, 8, d, a, b, true)
  | .amoMaxnW d a b => some (.maxn, 4, d, a, b, true)
  | .amoMaxnD d a b => some (.maxn, 8, d, a, b, true)
  | .amoAndD d a b => some (.and, 8, d, a, b, false)
  | .amoOrD d a b => some (.or, 8, d, a, b, false)
  | .amoXorD d a b => some (.xor, 8, d, a, b, false)
  | .amoSwapW d a b => some (.swap, 4, d, a, b, false)
  | .amoSwapD d a b => some (.swap, 8, d, a, b, false)
  | .amoFaddF32 d a b => some (.fadd, 4, d, a, b, true)
  | .amoFaddBf16x4 d a b => some (.faddBf16x4, 8, d, a, b, false)
  | .amoIncbW d a b => some (.incb, 4, d, a, b, true)
  | _ => none

/-- What an atomic of n bytes writes to xd for the old bytes (R335, R343). -/
def oldValue (n : Nat) (zero : Bool) (old : Word) : Word :=
  extended (if n = 4 then 2#2 else 3#2) zero old.toNat

/-- The operand of an atomic of n bytes: its low 8n bits (R335). -/
def operand (n : Nat) (x : Word) : Word := BitVec.ofNat 64 (x.toNat % 2 ^ (8 * n))

/-- What an integer atomic of n bytes stores for old and operand, both below 2^(8n); none where it stores nothing (R82, R336, R343). -/
def newValue (op : AtomicOp) (n old x cmp : Nat) : Option Nat :=
  let s (v : Nat) : Int := if v < 2 ^ (8 * n - 1) then v else (v : Int) - 2 ^ (8 * n)
  match op with
  | .add => some ((old + x) % 2 ^ (8 * n))
  | .min => some (if s x < s old then x else old)
  | .max => some (if s old < s x then x else old)
  | .minn => some (min old x)
  | .maxn => some (max old x)
  | .and => some (old &&& x)
  | .or => some (old ||| x)
  | .xor => some (old ^^^ x)
  | .swap => some x
  | .incb => some (if x ≤ old then 0 else old + 1)
  | .cas => if old = cmp then some x else none
  | .fadd => atomicNew .fadd n old x cmp
  | .faddBf16x4 => atomicNew .faddBf16x4 n old x cmp

/-- The outcome of the checks of R211 on an entry, in their order. -/
def checked (s : State) (cfg : BitVec 8) (e : Leaf) (ac : AccessClass) (va : Nat) (r : Option Cause) : Prop :=
  let readable := e.getLsbD 49 = true; let writable := e.getLsbD 50 = true
  let permitted := (ac.need = .r ∧ readable) ∨ (ac.need = .w ∧ writable) ∨ (ac.need = .rw ∧ readable ∧ writable) ∨ ac.need = .none
  let plain := ¬ (ac.scalar = true ∧ e.getLsbD 55 = true) ∧ (ac.memSide = true → e.getLsbD 52 = true)
  let cfgOk := leafCfg e = 0#8 ∨ leafCfg e = cfg
  let incOk := leafPkg e = s.ownPkg ∨ leafInc e = incarnation s (leafPkg e)
  (e.getLsbD 48 = false → r = some .page) ∧
  (e.getLsbD 48 = true → ¬ cfgOk → r = some .cid) ∧
  (e.getLsbD 48 = true → cfgOk → ¬ (permitted ∧ plain) → r = some .perm) ∧
  (e.getLsbD 48 = true → cfgOk → permitted → plain → ¬ incOk → r = some .remoteLost) ∧
  (e.getLsbD 48 = true → cfgOk → permitted → plain → incOk → ac.run = false → installed (leafPhys e va) = false → r = some .page) ∧
  (e.getLsbD 48 = true → cfgOk → permitted → plain → incOk → ac.run = true ∨ installed (leafPhys e va) = true → r = none)

end Sys2Proof.Says

/-- R206, R209, R211: an address above 2^56 is PAGE; a tile or memory core without an entry for the address misses; with one, its checks
decide in their order, and an access that passes goes to the entry's package, frame and page offset, the entry becoming the most recent. -/
def Obligations.TranslationChecks : Prop :=
  (∀ s c ac (va : Word), 2 ^ 56 ≤ va.toNat → translate s .tile c ac va = .fail .page ∧ translate s .mem c ac va = .fail .page ∧
    translate s .supervisor c ac va = .fail .page) ∧
  (∀ s k c ac (va : Word), k ≠ .supervisor → va.toNat < 2 ^ 56 →
    (∀ e ∈ c.tlb, ¬ (e.ctx = (ctxOf s c).getD 0 ∧ leafCovers e.leaf va.toNat = true)) → translate s k c ac va = .miss) ∧
  (∀ s k c ac (va : Word) l t r, k ≠ .supervisor → va.toNat < 2 ^ 56 → c.tlb = l ++ t :: r →
    (∀ e ∈ l, ¬ (e.ctx = (ctxOf s c).getD 0 ∧ leafCovers e.leaf va.toNat = true)) →
    t.ctx = (ctxOf s c).getD 0 → leafCovers t.leaf va.toNat = true →
    ∃ o, checked s (cfgOf s c) t.leaf ac va.toNat o ∧
      (∀ x, o = some x → translate s k c ac va = .fail x) ∧
      (o = none → ∃ c', translate s k c ac va = .ok t.leaf
        (leafPkg t.leaf * 2 ^ 48 + leafFrame t.leaf * 4096 + va.toNat % 2 ^ pageBits (leafSize t.leaf)) c' ∧
        c' = { c with tlb := t :: c.tlb.filter (· != t) }))

/-- R378, R380, R101, R81: LD and LDNF raise ALIGN on an address that is no multiple of their width. A hit completes with the line's bytes,
extended as the form says; an answer from the home completes with its bytes; LDNF counts each load, and a suppressed fault, be it of the
translation, of a package that no port leads to or of the home, writes 0 and sets its bit of nf_stat; any such fault of LD is raised
precisely with the address. -/
def Sys2Proof.Says.LoadResults : Prop :=
  ∀ d a w nat (imm : BitVec 13) s x c1, Unlocked (kind s) (own s) [a] [d] → readX (kind s) (own s) a = .ok (x, c1) →
    let va := BitVec.ofInt 64 (x.toInt + imm.toInt)
    (va.toNat % nbytes w ≠ 0 → Raises (.ld d a w nat imm) s .align va ∧ Raises (.ldnf d a w nat imm) s .align va) ∧
    (va.toNat % nbytes w = 0 →
      (∀ c2 c3 c4 key, c1.replies = [] → lineFound s c1 { need := .r, kind := .load } va c2 key →
        hits c2 (lineAt c2 key) va.toNat (nbytes w) →
        writeX (kind s) (useWay c2 key) d (extended w nat (lineBytes (lineAt c2 key) va.toNat (nbytes w))) = .ok c3 →
        writeX (kind s) (ldnfDone (useWay c2 key) [] false) d (extended w nat (lineBytes (lineAt c2 key) va.toNat (nbytes w))) = .ok c4 →
        Completes (.ld d a w nat imm) s c3 ∧ Completes (.ldnf d a w nat imm) s c4) ∧
      (∀ v r c3 c4, c1.replies = .ok v :: r → writeX (kind s) { c1 with replies := r } d (extended w nat v.toNat) = .ok c3 →
        writeX (kind s) (ldnfDone c1 r false) d (extended w nat v.toNat) = .ok c4 →
        Completes (.ld d a w nat imm) s c3 ∧ Completes (.ldnf d a w nat imm) s c4) ∧
      (∀ t r c4, c1.replies = .fail t :: r →
        exec (.ld d a w nat imm) s = .next (takeCause (withNotice s s.cur { t with addr := va }) s.cur { t with addr := va }) ∧
        (t.cause = .page ∨ t.cause = .perm ∨ t.cause = .cid ∨ t.cause = .remoteLost →
          writeX (kind s) (ldnfDone c1 r true) d 0#64 = .ok c4 → Completes (.ldnf d a w nat imm) s c4)) ∧
      (∀ x, c1.replies = [] → translate s (kind s) c1 { need := .r, kind := .load } va = .fail x → x ≠ .deadlock →
        Raises (.ld d a w nat imm) s x va ∧
        (x = .page ∨ x = .perm ∨ x = .cid ∨ x = .remoteLost → ∀ c4, writeX (kind s) (ldnfDone c1 [] true) d 0#64 = .ok c4 →
          Completes (.ldnf d a w nat imm) s c4) ∧
        (¬ (x = .page ∨ x = .perm ∨ x = .cid ∨ x = .remoteLost) → Raises (.ldnf d a w nat imm) s x va)) ∧
      (∀ e phys c2, c1.replies = [] → translate s (kind s) c1 { need := .r, kind := .load } va = .ok e phys c2 → unroutable s phys = true →
        Raises (.ld d a w nat imm) s .remoteLost va ∧
        ∀ c4, writeX (kind s) (ldnfDone c2 [] true) d 0#64 = .ok c4 → Completes (.ldnf d a w nat imm) s c4))

/-- R212, R178, R193: a load whose page is in no TLB entry sends one miss message to translation service core lane / 4 and waits; one on a
page with M, and any load of a core without a data cache, is asked of the home; a cache miss asks the home for the 32 bytes of the
sector. None of them writes a register. -/
def Sys2Proof.Says.LoadRequests : Prop :=
  ∀ d a w nat (imm : BitVec 13) s x c1, Unlocked (kind s) (own s) [a] [d] → readX (kind s) (own s) a = .ok (x, c1) →
    c1.replies = [] → let va := BitVec.ofInt 64 (x.toInt + imm.toInt)
    va.toNat % nbytes w = 0 →
    (translate s (kind s) c1 { need := .r, kind := .load } va = .miss →
      asks (.ld d a w nat imm) s .tlbMiss
        { src := agentCode s.cur, addr := va.toNat,
          kind := .miss (agentCode (.svc (agentLane s.cur / 4)))
            { req := agentCode s.cur, va := va.toNat, ctx := (ctxOf s c1).getD 0, cfg := cfgOf s c1, kind := .load, tag := 0 } }) ∧
    (∀ e phys c2, translate s (kind s) c1 { need := .r, kind := .load } va = .ok e phys c2 → unroutable s phys = false →
      (leafM e = true ∨ kind s ≠ .tile →
        asks (.ld d a w nat imm) s .access
          { src := agentCode s.cur, addr := phys, kind := .load (nbytes w) e, ctx := (ctxOf s c2).getD 0 }) ∧
      (leafM e = false → kind s = .tile → ∀ key, findWay c2 ((ctxOf s c2).getD 0) va.toNat = some key →
        ¬ hits c2 (lineAt c2 key) va.toNat (nbytes w) →
        asks (.ld d a w nat imm) s .access
          { src := agentCode s.cur, addr := phys / 32 * 32, kind := .fill key (va.toNat % 128 / 32) e, ctx := (ctxOf s c2).getD 0 }))

/-- R409, R178, R193, R218: ST raises ALIGN on a misaligned address; on a page without M a tile writes its bytes into the line of the cache, marks
them dirty and fetches nothing; on a page with M, and at a core without a cache, it is posted to the home and the instruction
completes; a page of a package whose incarnation has advanced is reported as a deferred failure, and any other cause is raised. -/
def Obligations.StoreResults : Prop :=
  ∀ src a w (imm : BitVec 14) s x v c1 c2, Unlocked (kind s) (own s) [src, a] [] → readX (kind s) (own s) src = .ok (v, c1) →
    readX (kind s) c1 a = .ok (x, c2) → let va := BitVec.ofInt 64 (x.toInt + imm.toInt); let n := nbytes w
    (va.toNat % n ≠ 0 → Raises (.st src a w imm) s .align va) ∧
    (va.toNat % n = 0 → c2.replies = [] →
      (∀ c3 key, lineFound s c2 { need := .w, kind := .store } va c3 key →
        ∃ l', Completes (.st src a w imm) s (useWay (setLine c3 key l') key) ∧
          lineBytes l' va.toNat n = v.toNat % 2 ^ (8 * n) ∧
          (∀ j, l'.dirty.getLsbD j = ((lineAt c3 key).dirty.getLsbD j || decide (va.toNat % 128 ≤ j ∧ j < va.toNat % 128 + n))) ∧
          (∀ j, j < 1024 → (j < 8 * (va.toNat % 128) ∨ 8 * (va.toNat % 128) + 8 * n ≤ j) →
            l'.data.getLsbD j = (lineAt c3 key).data.getLsbD j) ∧
          l' = { lineAt c3 key with data := l'.data, dirty := l'.dirty }) ∧
      (∀ e phys c3, translate s (kind s) c2 { need := .w, kind := .store } va = .ok e phys c3 → (leafM e = true ∨ kind s ≠ .tile) →
        unroutable s phys = false →
        exec (.st src a w imm) s = .next (setCore { s with net := s.net ++
          [{ src := agentCode s.cur, addr := phys, kind := .store n (operand n v) e va.toNat, ctx := (ctxOf s (own s)).getD 0 }] }
          s.cur (retire c3))) ∧
      (translate s (kind s) c2 { need := .w, kind := .store } va = .fail .remoteLost → exec (.st src a w imm) s = .next
        (setCore { s with net := s.net ++ [{ src := agentCode s.cur, addr := 0, kind := .lost (agentCode s.cur) va.toNat, ctx := (ctxOf s c2).getD 0 }] }
          s.cur (retire c2))) ∧
      (∀ x, translate s (kind s) c2 { need := .w, kind := .store } va = .fail x → x ≠ .remoteLost → x ≠ .deadlock →
        Raises (.st src a w imm) s x va))

/-- R108, R375, R376: JTAB falls through without an access when its index is above n − 1; with the entry's answer it goes to its own address
plus 4 times the entry; a target outside the slot raises ILLEGAL; any fault of the entry read raises JTAB with the entry address and the
cause of LD.W as its sub-cause, ALIGN among them; at an armed loop end it raises ILLEGAL. -/
def Sys2Proof.Says.JtabResults : Prop :=
  ∀ a b (n1 : BitVec 8) s x y c1 c2, Unlocked (kind s) (own s) [a, b] [] → readX (kind s) (own s) a = .ok (x, c1) →
    readX (kind s) c1 b = .ok (y, c2) → let va := BitVec.ofNat 64 (y.toNat + 4 * x.toNat)
    let jumps (v : Nat) (c3 : Core) := let t := ((own s).pc.toNat : Int) + 4 * (BitVec.ofNat 32 v).toInt
      (inRange t → exec (.jtab a b n1) s = .next (setCore s s.cur (goneTo c3 t true))) ∧
      (¬ inRange t → Raises (.jtab a b n1) s .illegal (BitVec.ofInt 64 t))
    (standsAtLoopEnd (own s) → Raises (.jtab a b n1) s .illegal 0#64) ∧
    (¬ standsAtLoopEnd (own s) →
      (n1.toNat + 1 ≤ x.toNat → exec (.jtab a b n1) s = .next (setCore s s.cur (goneTo c2 ((own s).pc.toNat + 4) false))) ∧
      (x.toNat < n1.toNat + 1 →
        (va.toNat % 4 ≠ 0 →
          exec (.jtab a b n1) s = .next (takeCause s s.cur { cause := .jtab, addr := va, sub := Cause.align.code })) ∧
        (va.toNat % 4 = 0 →
          (∀ v r, c2.replies = .ok v :: r → jumps v.toNat { c2 with replies := r }) ∧
          (∀ c3 key, c2.replies = [] → lineFound s c2 { need := .r, kind := .jtab } va c3 key → hits c3 (lineAt c3 key) va.toNat 4 →
            jumps (lineBytes (lineAt c3 key) va.toNat 4) (useWay c3 key)) ∧
          (∀ t r, c2.replies = .fail t :: r →
            exec (.jtab a b n1) s = .next (takeCause s s.cur { cause := .jtab, addr := va, sub := t.cause.code })) ∧
          (∀ x, c2.replies = [] → translate s (kind s) c2 { need := .r, kind := .jtab } va = .fail x →
            exec (.jtab a b n1) s = .next (takeCause s s.cur { cause := .jtab, addr := va, sub := x.code })) ∧
          (∀ e phys c3, c2.replies = [] → translate s (kind s) c2 { need := .r, kind := .jtab } va = .ok e phys c3 →
            unroutable s phys = true →
            exec (.jtab a b n1) s = .next (takeCause s s.cur { cause := .jtab, addr := va, sub := Cause.remoteLost.code })))))

/-- R166, R379, R410, R172: LDL and STL. A misaligned offset raises ALIGN, a target beyond the gang BOUNDARY, an offset in the undo area of a
leg with laps BOUNDARY, be it through a buffer (R262; that the area is found behind a buffer's half is the model's reading, log entry
33). A local LDL completes with the bytes of the visible half in its issue tc, and consumes an error in them; a local STL completes with
its bytes there, which leaves no error in them. R262, R263: in a leg that logs, STL logs each sector that it is the first to write
in the lap, a record of its old bytes behind those of the undo area; where the area is to be spilled first it raises
UNDO_FULL, naming that sector, in its place, which in a handler is a double fault. A remote LDL is asked of its owner and completes
with the answer; a remote STL is posted. -/
def Obligations.TileSpaceAccesses : Prop :=
  (∀ d a w nat (imm : BitVec 13) s x c1, Unlocked (kind s) (own s) [a] [d] → readX (kind s) (own s) a = .ok (x, c1) →
    let t := BitVec.ofInt 32 (x.toInt + imm.toInt); let o := t.toNat % 2 ^ 20; let n := nbytes w
    (o % n ≠ 0 → Raises (.ldl d a w nat imm) s .align (BitVec.ofNat 64 t.toNat)) ∧
    (o % n = 0 → tileDest s s.cur c1 t = .bad → Raises (.ldl d a w nat imm) s .boundary (BitVec.ofNat 64 t.toNat)) ∧
    (o % n = 0 → tileDest s s.cur c1 t = .here o →
      (inScratch s c1 o n → c1.errInject.getLsbD 0 = false →
        scoreConflict c1.score (boundRanges c1.bufs (fun b => b.vis) o n) [] = false → ∀ c2,
        writeX (kind s) { c1 with pend := c1.pend ++ scratchUE c1 (seen c1 o n) } d
          (extended w nat (ofBytes ((seen c1 o n).map fun p => tget c1.scratch 0#8 p))) = .ok c2 →
        Completes (.ldl d a w nat imm) s c2) ∧
      (¬ inScratch s c1 o n →
        Raises (.ldl d a w nat imm) s .boundary (BitVec.ofNat 64 t.toNat))) ∧
    (∀ tile, o % n = 0 → tileDest s s.cur c1 t = .remote tile o → (undoReserved s (kind s) c1 = true → o < 0xF0000) →
      (c1.replies = [] → asks (.ldl d a w nat imm) s .access
        { src := agentCode s.cur, addr := t.toNat, kind := .remote (agentCode (.tile tile)) false n 0#64, ctx := (ctxOf s c1).getD 0 }) ∧
      (∀ v r c2, c1.replies = .ok v :: r → c1.errInject.getLsbD 0 = false →
        writeX (kind s) { c1 with replies := r } d (extended w nat v.toNat) = .ok c2 → Completes (.ldl d a w nat imm) s c2))) ∧
  (∀ src a w (imm : BitVec 14) s x v c1 c2, Unlocked (kind s) (own s) [src, a] [] → readX (kind s) (own s) src = .ok (v, c1) →
    readX (kind s) c1 a = .ok (x, c2) →
    let t := BitVec.ofInt 32 (x.toInt + imm.toInt); let o := t.toNat % 2 ^ 20; let n := nbytes w
    (o % n ≠ 0 → Raises (.stl src a w imm) s .align (BitVec.ofNat 64 t.toNat)) ∧
    (o % n = 0 → tileDest s s.cur c2 t = .here o → inScratch s c2 o n →
      scoreConflict c2.score [] (rangesOf (seen c2 o n)) = false → let fs := firstWritten s (kind s) c2 (seen c2 o n)
      (noUndoRoom c2 fs → Raises (.stl src a w imm) s .undoFull (BitVec.ofNat 64 (32 * fs.headD 0))) ∧
      (¬ noUndoRoom c2 fs → ∃ c3, Completes (.stl src a w imm) s c3 ∧ scratchStored s c2 c3 fs (seen c2 o n) (0xE000 ≤ c2.undoFill) ∧
        ((∀ i j, i < n → j < n → visible c2.bufs (o + i) = visible c2.bufs (o + j) → i = j) →
          ∀ i, i < n → (tget c3.scratch 0#8 (visible c2.bufs (o + i))).toNat = v.toNat / 2 ^ (8 * i) % 2 ^ 8))) ∧
    (o % n = 0 → tileDest s s.cur c2 t = .bad → Raises (.stl src a w imm) s .boundary (BitVec.ofNat 64 t.toNat)) ∧
    (o % n = 0 → tileDest s s.cur c2 t = .here o → ¬ inScratch s c2 o n →
      Raises (.stl src a w imm) s .boundary (BitVec.ofNat 64 t.toNat)) ∧
    (∀ tile, o % n = 0 → tileDest s s.cur c2 t = .remote tile o → (undoReserved s (kind s) c2 = true → o < 0xF0000) →
      exec (.stl src a w imm) s = .next (setCore { s with net := s.net ++
        [{ src := agentCode s.cur, addr := t.toNat, kind := .remote (agentCode (.tile tile)) true n (operand n v) }] } s.cur (retire c2))))

/-- R335, R336, R343, R211: an AMO and a CAS on a misaligned address raise ALIGN; on a page with M and with a destination they ask the home
with the low bits of the operand, and of the comparand, and complete with the old bytes extended as the table says; an AMO with
destination x0 is posted and completes at once. -/
def Obligations.AtomicResults : Prop :=
  (∀ i op n d a b zero, amoForm i = some (op, n, d, a, b, zero) → ∀ s va x c1 c2, Unlocked (kind s) (own s) [a, b] [d] →
    readX (kind s) (own s) a = .ok (va, c1) → readX (kind s) c1 b = .ok (x, c2) →
    (va.toNat % n ≠ 0 → Raises i s .align va) ∧
    (va.toNat % n = 0 →
      (∀ e phys c3, c2.replies = [] → translate s (kind s) c2 { need := .rw, memSide := true, kind := .atomic } va = .ok e phys c3 →
        unroutable s phys = false →
        (d ≠ 0#5 → asks i s .access
          { src := agentCode s.cur, addr := phys, kind := .atomic op n (operand n x) 0#64 true e va.toNat, ctx := (ctxOf s c3).getD 0 }) ∧
        (d = 0#5 → exec i s = .next (setCore { s with net := s.net ++ 
          [{ src := agentCode s.cur, addr := phys, kind := .atomic op n (operand n x) 0#64 false e va.toNat, ctx := (ctxOf s (own s)).getD 0 }] } s.cur (retire c3)))) ∧
      (∀ old r c3, c2.replies = .ok old :: r → writeX (kind s) { c2 with replies := r } d (oldValue n zero old) = .ok c3 →
        Completes i s c3))) ∧
  (∀ (wide : Bool) d a b s va x y c1 c2 c3, let i : Instr := if wide then .casD d a b else .casW d a b
    let n := if wide then 8 else 4
    Unlocked (kind s) (own s) [a, b, d] [d] → readX (kind s) (own s) a = .ok (va, c1) → readX (kind s) c1 b = .ok (x, c2) →
    readX (kind s) c2 d = .ok (y, c3) →
    (va.toNat % n ≠ 0 → Raises i s .align va) ∧
    (va.toNat % n = 0 →
      (∀ e phys c4, c3.replies = [] → translate s (kind s) c3 { need := .rw, memSide := true, kind := .atomic } va = .ok e phys c4 →
        unroutable s phys = false → asks i s .access
          { src := agentCode s.cur, addr := phys, kind := .atomic .cas n (operand n x) (operand n y) true e va.toNat, ctx := (ctxOf s c4).getD 0 }) ∧
      (∀ old r c4, c3.replies = .ok old :: r → writeX (kind s) { c3 with replies := r } d (oldValue n false old) = .ok c4 →
        Completes i s c4)))

/-- The frame of LD, LDNF, ST, LDL, STL, JTAB, the AMO members and CAS: unless the instruction raises a cause, only its core and the network
differ; no byte of memory, which only the home writes; every scalar register but the destination, and the vector, predicate, loop,
trap, window registers, results in flight and streams are as before; a form other than STL changes no byte of scratch. -/
def Sys2Proof.Says.AccessFrame : Prop :=
  ∀ i s t, (accessDest i).isSome = true ∨ (∃ r a w imm, i = .st r a w imm) ∨ (∃ r a w imm, i = .stl r a w imm) ∨ (∃ a b n, i = .jtab a b n) →
    exec i s = .next t → (∃ tr, t = takeCause (withNotice s s.cur tr) s.cur tr) ∨
    t = { s with cores := t.cores, net := t.net } ∧ (∀ a, tget t.mem 0#8 a = tget s.mem 0#8 a) ∧
    (∀ a, a ≠ s.cur → coreOf t a = coreOf s a) ∧
    (∀ r, accessDest i ≠ some r → reg (coreOf t s.cur) r = reg (own s) r) ∧
    ((∀ r a w imm, i ≠ .stl r a w imm) → (coreOf t s.cur).scratch = (own s).scratch) ∧
    ∃ e : Core, coreOf t s.cur =
      { own s with x := e.x, tlb := e.tlb, lines := e.lines, plru := e.plru, scratch := e.scratch, logged := e.logged,
                   undoFill := e.undoFill, nfCount := e.nfCount, nfStat := e.nfStat, fifoA := e.fifoA, stirred := e.stirred, marks := e.marks,
                   undoRaised := e.undoRaised, errInject := e.errInject,
                   pend := e.pend, pc := e.pc, checker := e.checker, landing := e.landing, evalAt := e.evalAt, wait := e.wait,
                   blocked := e.blocked, pulled := e.pulled, taken := e.taken, replies := e.replies }

/-- Loads and the table jump. -/
def Obligations.LoadsAndJtab : Prop := Says.LoadResults ∧ Says.LoadRequests ∧ Says.JtabResults
/-! ### Homes, owners and answers -/

namespace Sys2Proof.Says

/-- The network without the packet that the event concerns. -/
abbrev netLess (s : State) : List Packet := s.net.eraseIdx s.pick

/-- The address lies among the n bytes from base. -/
def within (a base n : Nat) : Prop := base ≤ a ∧ a < base + n

/-- The undo areas of context x hold the domain physical address, in either half (R25, R255, R259). -/
def inUndoArea (s : State) (x a : Nat) : Prop :=
  within a (s.ownPkg * 2 ^ 48 + (contextOf s x).undoN) (contextOf s x).undoSize ∨
  within a (s.ownPkg * 2 ^ 48 + (contextOf s x).undoS) (contextOf s x).undoSize

/-- The chunks of context x lie within its undo areas (R259). -/
def chunksWithin (s : State) (x : Nat) : Prop := ∀ h ∈ (contextOf s x).chunks, h.index < (contextOf s x).undoSize / 0x100000

/-- Every byte of memory outside the n bytes at addr, outside their duplicate where the page keeps one (R208), and outside the undo areas of
the context where the page is lap-tracked (R258), reads in t as in s. -/
def stored (s t : State) (e : Leaf) (x addr n : Nat) : Prop :=
  ∀ a, ¬ within a addr n → ¬ (leafD e = true ∧ within a (dupAddr addr) n) → ¬ (leafL e = true ∧ inUndoArea s x a) →
    tget t.mem 0#8 a = tget s.mem 0#8 a

/-- Nothing but the network and the records of cores differs, and every core is as before. -/
def onlyNet (s t : State) : Prop := t = { s with cores := t.cores, net := t.net } ∧ ∀ a, coreOf t a = coreOf s a

/-- Nothing but the network and core a differs, and no byte of memory. -/
def onlyNetAnd (s t : State) (a : Agent) : Prop :=
  t = { s with cores := t.cores, net := t.net } ∧ (∀ b, b ≠ a → coreOf t b = coreOf s b) ∧ ∀ m, tget t.mem 0#8 m = tget s.mem 0#8 m

/-- A write through an entry reaches its home: this package, or another whose incarnation is the entry's and to which a port leads (R217,
R295). -/
def reaches (s : State) (e : Leaf) : Prop :=
  leafPkg e = s.ownPkg ∨ (leafInc e = incarnation s (leafPkg e) ∧ tget s.routes 0#24 (leafPkg e) ≠ 0#24)

/-- The owner of a range leads it into the undo area that its leg reserves (R262). -/
def intoUndo (s : State) (a : Agent) (o n : Nat) : Prop :=
  undoReserved s (agentKind a) (coreOf s a) = true ∧ ∃ p ∈ seen (coreOf s a) o n, 0xF0000 ≤ p

/-- The trace ring of c' is that of c with one entry for an access, the oldest of 256 overwritten (R171). -/
def traced (c c' : Core) (store : Bool) (o n src : Nat) (refused : Bool) : Prop :=
  ∃ e : BitVec 128, c'.trace = (c.trace ++ [e]).drop (c.trace.length + 1 - 256) ∧
    e.toNat = src % 2 ^ 12 + (if store then 2 ^ 12 else 0) + Nat.log2 n % 4 * 2 ^ 13 + (if refused then 2 ^ 15 else 0) + o * 2 ^ 16 +
      c.cycle.toNat * 2 ^ 64

/-- The packet that the event concerns is a message of a core that a refusal, sent to that core before by the agent that is to accept the message,
has not yet reached (R205). -/
def behindRefusal (s : State) (p : Packet) (dst : Nat) : Prop :=
  ∃ q ∈ s.net.take s.pick, q.src = p.src ∧ (∃ d, q.kind = .refusal d) ∧
    agentOf dst = memberAgent (gangSpan s (coreOf s (agentOf p.src))).1 (q.addr / 2 ^ 20)

/-- A single window of an owner admits an access (R168): the pair's base and limit registers, the permission bit of the kind. -/
def windowAllows (c : Core) (i : Fin 4) (store : Bool) (o n src : Nat) : Prop :=
  let b := c.win[2 * i.val]; let l := c.win[2 * i.val + 1]
  b.getLsbD (if store then 63 else 62) = true ∧ b.toNat % 2 ^ 20 ≤ o ∧ o + n ≤ l.toNat % 2 ^ 20 + 1 ∧
  b.toNat / 2 ^ 32 % 2 ^ 12 ≤ src ∧ src ≤ l.toNat / 2 ^ 32 % 2 ^ 12

end Sys2Proof.Says

/-- R193, R170, R205, R354: an earlier packet of the same source to the same sector at a home, or to the same owner or receiver, is served
first: until then no event changes anything for the later one. -/
def Sys2Proof.Says.EarlierPacketGoesFirst : Prop :=
  ∀ s p q j, s.net[s.pick]? = some p → j < s.pick → s.net[j]? = some q → q.src = p.src →
    ((atHome q.kind = true ∧ atHome p.kind = true ∧ q.addr / 32 = p.addr / 32) ∨ (∃ d, destOf q.kind = some d ∧ destOf p.kind = some d)) →
    exec .memsideAccess s = .next s ∧ exec .homeAtomic s = .next s ∧ exec .cacheFill s = .next s ∧ exec .writeBack s = .next s ∧
    exec .remoteTileAccess s = .next s ∧ exec .messageAccept s = .next s

/-- R193, R188: MEMSIDE_ACCESS. A load takes its packet off the network and answers with the n bytes that memory holds; a store writes its n
bytes, little-endian, and their duplicate; a store to a page that is not lap-tracked changes nothing else. -/
def Sys2Proof.Says.MemsideAccessAtHome : Prop :=
  (∀ s p n e, picked s = some p → p.kind = .load n e → p.addr < windowBase → poisonedAt s p.addr n = false →
    (∀ k, agentOf p.src = .mem k → (coreOf s (.mem k)).errInject.getLsbD 0 = false) → ∃ t, exec .memsideAccess s = .next t ∧ onlyNet s t ∧
    t.net = netLess s ++ [{ src := p.src, addr := p.addr, kind := .reply p.src (.ok (BitVec.ofNat 64 (memRead s p.addr n))) }]) ∧
  (∀ s p n v e va, picked s = some p → p.kind = .store n v e va → p.addr < windowBase → chunksWithin s p.ctx →
    ∃ t, exec .memsideAccess s = .next t ∧ t.net = netLess s ∧ stored s t e p.ctx p.addr n ∧
    (leafL e = false → t = { s with net := netLess s, mem := t.mem, poisoned := t.poisoned }) ∧
    (leafD e = false → memBytes t p.addr n = toBytes n v.toNat) ∧
    (leafD e = true → memBytes t (dupAddr p.addr) n = toBytes n v.toNat))

/-- R82, R83, R194, R336, R343: HOME_ATOMIC reads, combines and writes in one step: memory takes the new value of the operation, a CAS whose
old bytes differ from its comparand writes nothing, and the old bytes go back to an issuer that asked for them. -/
def Sys2Proof.Says.HomeAtomicAtHome : Prop :=
  ∀ s p op n x cmp ret e va, picked s = some p → p.kind = .atomic op n x cmp ret e va → n = 4 ∨ n = 8 → x.toNat < 2 ^ (8 * n) →
    p.addr < windowBase → poisonedAt s p.addr n = false → chunksWithin s p.ctx → ∃ t, exec .homeAtomic s = .next t ∧
    stored s t e p.ctx p.addr n ∧
    (∀ v, newValue op n (memRead s p.addr n) x.toNat cmp.toNat = some v → leafD e = false → memRead t p.addr n = v % 2 ^ (8 * n)) ∧
    (newValue op n (memRead s p.addr n) x.toNat cmp.toNat = none → t.mem = s.mem) ∧
    (ret = true → t.net = netLess s ++ [{ src := p.src, addr := p.addr, kind := .reply p.src (.ok (BitVec.ofNat 64 (memRead s p.addr n))) }]) ∧
    (ret = false → t.net = netLess s) ∧ (leafL e = false → t = { s with net := t.net, mem := t.mem, poisoned := t.poisoned })

/-- R178, R180, R191, R218, R295: CACHE_FILL answers with the 32 bytes of the sector; WRITE_BACK writes the bytes of its mask and no other
byte of the sector; one to a package that is lost or that no port leads to writes nothing and is reported to its core. -/
def Sys2Proof.Says.FillAndWriteBack : Prop :=
  (∀ s p line sector e, picked s = some p → p.kind = .fill line sector e → ∃ t, exec .cacheFill s = .next t ∧ onlyNet s t ∧
    t.net = netLess s ++ [{ src := p.src, addr := p.addr, kind := .fillReply p.src line sector (BitVec.ofNat 256 (memRead s p.addr 32)) (poisonedAt s p.addr 32) }]) ∧
  (∀ s p mask data e, picked s = some p → p.kind = .writeBack mask data e → reaches s e → leafD e = false → chunksWithin s p.ctx →
    ∃ t, exec .writeBack s = .next t ∧ t.net = netLess s ∧
    (∀ a, ¬ (within a p.addr 32 ∧ mask.getLsbD (a - p.addr) = true) → ¬ (leafL e = true ∧ inUndoArea s p.ctx a) →
      tget t.mem 0#8 a = tget s.mem 0#8 a) ∧
    (∀ i, i < 32 → mask.getLsbD i = true → tget t.mem 0#8 (p.addr + i) = data.extractLsb' (8 * i) 8) ∧
    (leafL e = false → t = { s with net := netLess s, mem := t.mem, poisoned := t.poisoned })) ∧
  (∀ s p mask data e, picked s = some p → p.kind = .writeBack mask data e → ¬ reaches s e → ∃ t, exec .writeBack s = .next t ∧
    t = { s with net := t.net, starter := t.starter } ∧ (p.rel = none → t.starter = s.starter) ∧
    t.net = netLess s ++ [{ p with kind := .lost p.src (leafVtag e * 4096 + (p.addr - (leafPkg e * 2 ^ 48 + leafFrame e * 4096))) }])

/-- R258, R259: the first write of a lap to a sector of a lap-tracked page appends an undo record with the sector's old 32 bytes and tags the
sector with the lap; a sector that has the lap's tag is not logged again. -/
def Sys2Proof.Says.FirstWriteOfALapIsLogged : Prop :=
  (∀ s x who ta addr dup, (contextOf s x).laps = true → pkgOf addr = s.ownPkg →
    tget s.lapTags 0#2 (addr / 32) ≠ BitVec.ofNat 2 ((contextOf s x).lapId.toNat % 3 + 1) →
    (∃ i, i < (contextOf s x).undoSize / 0x100000 ∧ ∀ h ∈ (contextOf s x).chunks, ¬ (h.south = bitAt addr 47 ∧ h.index = i)) →
    ∃ r h,
      h ∈ (contextOf (logSector s x who ta addr dup) x).chunks ∧ r ∈ h.records ∧ h.mc = homeOf addr ∧ h.south = bitAt addr 47 ∧
      h.lap = (contextOf s x).lapId.toNat ∧ r.addr = addr / 32 * 32 % 2 ^ 48 ∧ r.lap = (contextOf s x).lapId.toNat ∧
      r.old = BitVec.ofNat 256 (memRead s (addr / 32 * 32) 32) ∧
      tget (logSector s x who ta addr dup).lapTags 0#2 (addr / 32) = BitVec.ofNat 2 ((contextOf s x).lapId.toNat % 3 + 1)) ∧
  (∀ s x who ta addr dup, (contextOf s x).laps = false ∨
    tget s.lapTags 0#2 (addr / 32) = BitVec.ofNat 2 ((contextOf s x).lapId.toNat % 3 + 1) → logSector s x who ta addr dup = s)

/-- R94, R178, R169, R218: ACCESS_RESPONSE hands an answer to its core, which goes on, or puts a fill's bytes under the dirty bytes of
the line; POSTED_REFUSAL makes REFUSED due with its address and the posted mark; DEFERRED_FAILURE_REPORT is held at
the core, and one for a core that has finished, or of an access whose gang has left its lanes, fails the release of that gang's baton where
that covers other packages (R38, R39), and no other. -/
def Sys2Proof.Says.AnswersReachTheCore : Prop :=
  (∀ s p dst r, picked s = some p → p.kind = .reply dst r → ∃ t, exec .accessResponse s = .next t ∧ onlyNetAnd s t (agentOf dst) ∧
    t.net = netLess s ∧ coreOf t (agentOf dst) = { coreOf s (agentOf dst) with replies := (coreOf s (agentOf dst)).replies ++ [r], blocked := false }) ∧
  (∀ s p dst line sector data, picked s = some p → p.kind = .fillReply dst line sector data false → sector < 4 →
    (coreOf s (agentOf dst)).errInject.getLsbD 0 = false → leafV (lineAt (coreOf s (agentOf dst)) line).leaf = true →
    (lineAt (coreOf s (agentOf dst)) line).phys + 32 * sector = p.addr →
    ∃ t, exec .accessResponse s = .next t ∧ onlyNetAnd s t (agentOf dst) ∧ t.net = netLess s ∧ (coreOf t (agentOf dst)).blocked = false ∧
      (let l := lineAt (coreOf s (agentOf dst)) line; let l' := lineAt (coreOf t (agentOf dst)) line
       l'.filled.getLsbD sector = true ∧ l'.gens.extractLsb' (8 * sector) 8 = (coreOf s (agentOf dst)).gen ∧ l'.dirty = l.dirty ∧
       (∀ i, i < 32 → l'.data.extractLsb' (256 * sector + 8 * i) 8 =
         if l.dirty.getLsbD (32 * sector + i) then l.data.extractLsb' (256 * sector + 8 * i) 8 else data.extractLsb' (8 * i) 8))) ∧
  (∀ s p dst, picked s = some p → p.kind = .refusal dst → ∃ t, exec .postedRefusal s = .next t ∧ onlyNetAnd s t (agentOf dst) ∧
    t.net = netLess s ∧ coreOf t (agentOf dst) = { coreOf s (agentOf dst) with
      pend := (coreOf s (agentOf dst)).pend ++ [{ cause := .refused, addr := BitVec.ofNat 64 p.addr, posted := true }] }) ∧
  (∀ s p dst va, picked s = some p → p.kind = .lost dst va → p.rel = none → (coreOf s (agentOf dst)).mode ≠ .finished →
    (coreOf s (agentOf dst)).mode ≠ .off → ∃ t, exec .deferredFailureReport s = .next t ∧ onlyNetAnd s t (agentOf dst) ∧
    t.net = netLess s ∧ coreOf t (agentOf dst) = { coreOf s (agentOf dst) with lost := (coreOf s (agentOf dst)).lost ++ [BitVec.ofNat 64 va] }) ∧
  (∀ s p dst va, picked s = some p → p.kind = .lost dst va →
    p.rel.isSome = true ∨ (coreOf s (agentOf dst)).mode = .finished ∨ (coreOf s (agentOf dst)).mode = .off →
    ∃ t, exec .deferredFailureReport s = .next t ∧ t = { s with net := netLess s, starter := t.starter } ∧
      ∀ q b, tfind s.starter.batons q = some b → tfind t.starter.batons q = some
        (if (p.rel = some q ∨ (p.rel = none ∧ ∃ g, gangOf s (coreOf s (agentOf dst)) = some g ∧ g.baton = q)) ∧
          2 ≤ b.bytes.toNat / 2 ^ 512 % 256 then { b with lost := true } else b))

/-- R168 to R172, R262, R263, R271: REMOTE_TILE_ACCESS. A load that one window of the owner admits is answered with the visible half's bytes,
and its issuer consumes an error in them; a store is written there, its first writes of the lap logged, and where the owner's undo
area has no room for their records it waits with nothing changed; an access that no single window admits, or that the owner would lead
into its undo area (that one is the model's choice, log entry 142), is refused, precisely for a load and as a posted refusal for a store, and
changes no scratch. Each access that is served adds one entry to the owner's trace ring of 256, whose oldest it overwrites, with source,
kind, width, refusal, offset and the owner's cycle. -/
def Sys2Proof.Says.RemoteAccessAtOwner : Prop :=
  ∀ s p dst store n v, picked s = some p → p.kind = .remote dst store n v →
    let a := agentOf dst; let o := p.addr % 2 ^ 20; let src := gangIndex s (agentOf p.src)
    ((∃ i, windowAllows (coreOf s a) i store o n src) → ¬ intoUndo s a o n →
      (store = false → ∃ t, exec .remoteTileAccess s = .next t ∧ traced (coreOf s a) (coreOf t a) false o n src false ∧
        t.net = netLess s ++ [{ src := p.src, addr := 2 ^ 60 + p.addr,
                                kind := .reply p.src (.ok (BitVec.ofNat 64 (ofBytes ((seen (coreOf s a) o n).map fun q =>
                                  tget (coreOf s a).scratch 0#8 q)))) }] ∧
        (scratchUE (coreOf s a) (seen (coreOf s a) o n) = [] →
          onlyNetAnd s t a ∧ coreOf t a = { coreOf s a with trace := (coreOf t a).trace }) ∧
        (agentOf p.src ≠ a → (coreOf t (agentOf p.src)).pend =
          (coreOf s (agentOf p.src)).pend ++ scratchUE (coreOf s a) (seen (coreOf s a) o n))) ∧
      (store = true → let fs := firstWritten s (agentKind a) (coreOf s a) (seen (coreOf s a) o n)
        (undoStalls (coreOf s a) fs → exec .remoteTileAccess s = .next s) ∧
        (¬ undoStalls (coreOf s a) fs → ∃ t c', exec .remoteTileAccess s = .next t ∧ onlyNetAnd s t a ∧ t.net = netLess s ∧
        traced (coreOf s a) (coreOf t a) true o n src false ∧ coreOf t a = { c' with trace := (coreOf t a).trace } ∧
        scratchStored s (coreOf s a) c' fs (seen (coreOf s a) o n) (0xE000 < c'.undoFill) ∧
        ((∀ i j, i < n → j < n → visible (coreOf s a).bufs (o + i) = visible (coreOf s a).bufs (o + j) → i = j) → ∀ i, i < n →
          (tget c'.scratch 0#8 (visible (coreOf s a).bufs (o + i))).toNat = v.toNat / 2 ^ (8 * i) % 2 ^ 8)))) ∧
    ((¬ ∃ i, windowAllows (coreOf s a) i store o n src) ∨ intoUndo s a o n → ∃ t, exec .remoteTileAccess s = .next t ∧ onlyNetAnd s t a ∧
      coreOf t a = { coreOf s a with trace := (coreOf t a).trace } ∧ traced (coreOf s a) (coreOf t a) store o n src true ∧
      (store = false → t.net = netLess s ++ [{ src := p.src, addr := 2 ^ 60 + p.addr,
                                               kind := .reply p.src (.fail { cause := .refused, addr := BitVec.ofNat 64 p.addr }) }]) ∧
      (store = true → t.net = netLess s ++ [{ src := p.src, addr := p.addr, kind := .refusal p.src }]))

/-- R212, R213, R351, R353: MESSAGE_ACCEPT puts a message, or a miss, at the end of its receiver's queue when there is room, and the sender of a
message goes on; with a full queue, or behind a refusal from the same agent (R205), nothing changes. TLB_FILL installs a valid entry in front of those
it does not overlap, and an access that waits for it is tried again; an invalid entry makes the access fail with PAGE; one for a miss whose
access is gone wakes nothing. -/
def Sys2Proof.Says.MessagesAndTlbFills : Prop :=
  (∀ s p dst m, picked s = some p → p.kind = .message dst m → dst % 8 ≠ 7 → behindRefusal s p dst → exec .messageAccept s = .next s) ∧
  (∀ s p dst m, picked s = some p → p.kind = .message dst m → dst % 8 ≠ 7 → p.src % 8 ≠ 7 → agentOf p.src ≠ agentOf dst → ¬ behindRefusal s p dst →
    (coreOf s (agentOf dst)).recvq.length < (if agentKind (agentOf dst) = .supervisor then 256 else 16) →
    ∃ t, exec .messageAccept s = .next t ∧ t = { s with cores := t.cores, net := netLess s } ∧
      (coreOf t (agentOf dst)).recvq = (coreOf s (agentOf dst)).recvq ++ [.message m] ∧
      (coreOf t (agentOf p.src)).blocked = false ∧ (coreOf t (agentOf p.src)).replies = (coreOf s (agentOf p.src)).replies ++ [.ok 0#64] ∧
      ∀ a, a ≠ agentOf dst → a ≠ agentOf p.src → coreOf t a = coreOf s a) ∧
  (∀ s p dst m, picked s = some p → p.kind = .message dst m → dst % 8 ≠ 7 →
    (if agentKind (agentOf dst) = .supervisor then 256 else 16) ≤ (coreOf s (agentOf dst)).recvq.length → exec .messageAccept s = .next s) ∧
  (∀ s p dst m, picked s = some p → p.kind = .miss dst m → (coreOf s (agentOf dst)).recvq.length < 256 →
    agentKind (agentOf dst) = .supervisor → ∃ t, exec .messageAccept s = .next t ∧ onlyNetAnd s t (agentOf dst) ∧ t.net = netLess s ∧
      coreOf t (agentOf dst) = { coreOf s (agentOf dst) with recvq := (coreOf s (agentOf dst)).recvq ++ [.miss m] }) ∧
  (∀ s p m leaf, picked s = some p → p.kind = .tlbFill m leaf → m.kind ≠ .streamRead → m.kind ≠ .streamWrite →
    let a := agentOf m.req; ∃ t, exec .tlbFill s = .next t ∧ onlyNetAnd s t a ∧ t.net = netLess s ∧
      (leafV leaf = true → (coreOf t a).tlb.head? = some { ctx := m.ctx, leaf := leaf } ∧
        (∀ e ∈ (coreOf t a).tlb.tail, ¬ (e.ctx = m.ctx ∧ leafOverlaps e.leaf leaf = true) ∧ e ∈ (coreOf s a).tlb) ∧
        (m.dead = false → (coreOf s a).wait = .tlbMiss → (coreOf t a).blocked = false ∧ (coreOf t a).replies = (coreOf s a).replies)) ∧
      (m.dead = true → (coreOf t a).blocked = (coreOf s a).blocked ∧ (coreOf t a).replies = (coreOf s a).replies) ∧
      (leafV leaf = false → (coreOf t a).tlb = (coreOf s a).tlb ∧ (m.dead = false → (coreOf s a).wait = .tlbMiss →
        (coreOf t a).replies = (coreOf s a).replies ++ [.fail { cause := .page, addr := BitVec.ofNat 64 m.va }])))

/-- Cache fills, write-backs, and the undo record of the first write of a lap. -/
def Obligations.WriteBacksAndLapLog : Prop := Says.FillAndWriteBack ∧ Says.FirstWriteOfALapIsLogged

/-- Accesses performed at their homes, in order. -/
def Obligations.HomeAccesses : Prop := Says.EarlierPacketGoesFirst ∧ Says.MemsideAccessAtHome ∧ Says.HomeAtomicAtHome

/-- What packets do where they arrive. -/
def Obligations.NetworkDeliveries : Prop := Says.AnswersReachTheCore ∧ Says.RemoteAccessAtOwner ∧ Says.MessagesAndTlbFills
/-! ### System registers, fences, cache and TLB control -/

namespace Sys2Proof.Says

/-- trap_stat (R238): sub in bits 0..7, posted 8, in_handler 9, records 10..13 while a handler runs, switch 14. -/
def trapStatus (c : Core) : Word :=
  BitVec.ofNat 64 (c.sub.toNat + (if c.posted then 256 else 0) + (if c.inHandler then 512 + c.records.length % 16 * 1024 else 0) +
    (if c.bySwitch then 16384 else 0))

/-- What a system register that a program may read reads as (R37, R54, R238); none for a number that R54 does not list and for lease_stat. -/
def sysValue (s : State) (sr : Nat) : Option Word :=
  let c := own s
  match sr with
  | 0x000 => some (match s.cur with
    | .tile n => BitVec.ofNat 64 (n % 32 + 32 * (2 * (n / 64) + n % 64 / 32) + 2048 * (n / 64))
    | .mem k => BitVec.ofNat 64 (2 ^ 63 + k % 2 ^ 63)
    | _ => 0#64)
  | 0x001 => some (match gangOf s c with
    | some g => BitVec.ofNat 64 (g.inst % 2 ^ 32 + g.first * 2 ^ 32 + (g.lanes - 1) * 2 ^ 37)
    | none => 0#64)
  | 0x002 => some (BitVec.ofNat 64 c.slot.toNat)
  | 0x003 => some (match ctxOf s c with
    | some x => BitVec.ofNat 64 (contextOf s x).lapId.toNat
    | none => 0#64)
  | 0x004 => some s.trackTime
  | 0x005 => some c.cycle
  | 0x006 => some (match gangOf s c with
    | some g => BitVec.ofNat 64 g.runner
    | none => 0#64)
  | 0x010 => some c.trapVec
  | 0x011 => some c.trapCause
  | 0x012 => some c.trapPc
  | 0x013 => some c.trapAddr
  | 0x014 => some (trapStatus c)
  | 0x020 => some (BitVec.ofNat 64 c.gen.toNat)
  | 0x021 => some c.nfStat
  | 0x030 => some c.win[0] | 0x031 => some c.win[1] | 0x032 => some c.win[2] | 0x033 => some c.win[3]
  | 0x034 => some c.win[4] | 0x035 => some c.win[5] | 0x036 => some c.win[6] | 0x037 => some c.win[7]
  | 0x040 => some (if c.sigCtl then 1#64 else 0#64)
  | 0x041 => some (BitVec.ofNat 64 c.checker.crc.toNat)
  | 0x060 => some (BitVec.ofNat 64 c.undoFill)
  | 0x061 => some (match ctxOf s c with
    | some x => BitVec.ofNat 64 ((contextOf s x).quota - (contextOf s x).undoUse)
    | none => 0#64)
  | 0x062 => some (match ctxOf s c with
    | some x => BitVec.ofNat 64 (contextOf s x).stageFill
    | none => 0#64)
  | _ => none

/-- What MTS of v to a register that a program may write leaves (R54, R168, R238, R274, R389); none for every other number below 0x400. -/
def sysWritten (c : Core) (sr : Nat) (v : Word) : Option Core :=
  match sr with
  | 0x010 => some { c with trapVec := v }
  | 0x011 => some { c with trapCause := v }
  | 0x012 => some { c with trapPc := v }
  | 0x013 => some { c with trapAddr := v }
  | 0x014 => some { c with sub := BitVec.ofNat 8 (v.toNat % 256), posted := v.toNat / 256 % 2 == 1 }
  | 0x021 => some { c with nfStat := v, nfCount := 0 }
  | 0x030 | 0x032 | 0x034 | 0x036 => some { c with win := c.win.setIfInBounds (sr - 0x030) (v &&& 0xC0000FFF000FFFFF#64) }
  | 0x031 | 0x033 | 0x035 | 0x037 => some { c with win := c.win.setIfInBounds (sr - 0x030) (v &&& 0x00000FFF000FFFFF#64) }
  | 0x040 => some (if v.toNat % 2 = 1 then { c with sigCtl := true, checker := { c.checker with crc := 0xFFFF#16, armed := false } }
      else { c with sigCtl := false })
  | _ => none

/-- A store or atomic on its way to its home. -/
def isStore (k : PacketKind) : Prop := (∃ n v e va, k = .store n v e va) ∨ ∃ op n x y r e va, k = .atomic op n x y r e va

/-- A store to a page with M, or an atomic, which needs one, on its way to its home. -/
def isMemSide (k : PacketKind) : Prop :=
  (∃ n v e va, k = .store n v e va ∧ leafM e = true) ∨ ∃ op n x y r e va, k = .atomic op n x y r e va

/-- Something of the core that steps that a FENCE of the scope waits for is in flight (R202): remote tile stores from scope 1 on, stores and
atomics to pages with M of this package from 2 on, accesses to other packages and their failure reports at 3. -/
def fenceWaits (s : State) (scope : Nat) : Prop :=
  ∃ p ∈ s.net, p.src = agentCode s.cur ∧
    ((1 ≤ scope ∧ ((∃ d n v, p.kind = .remote d true n v) ∨ ∃ d, p.kind = .refusal d)) ∨
     (2 ≤ scope ∧ (pkgOf p.addr = s.ownPkg ∨ windowBase ≤ p.addr) ∧ isMemSide p.kind) ∨
     (3 ≤ scope ∧ ((∃ d va, p.kind = .lost d va) ∨
       ((isStore p.kind ∨ ∃ m d e, p.kind = .writeBack m d e) ∧ pkgOf p.addr ≠ s.ownPkg ∧ p.addr < windowBase))))

/-- A write-back of the core that steps to an address of line a, or to any, is in flight. -/
def writeBackOpen (s : State) (line : Option Nat) : Prop :=
  ∃ p ∈ s.net, p.src = agentCode s.cur ∧ (∃ m d e, p.kind = .writeBack m d e) ∧ ∀ a, line = some a → p.addr / 128 = a

/-- The instruction has begun and is tried again: only its core's record of the wait differs. -/
def keepsTrying (i : Instr) (s : State) (w : Wait) : Prop :=
  exec i s = .next (setCore s s.cur { own s with wait := w, pulled := (own s).taken ++ (own s).pulled, taken := [] })

/-- A leaf entry that TLBW may send for an address (R213): reserved bits zero, a size code of 0 to 9, tag and frame aligned to the page size,
no host page with M, and, when valid, a page that holds the address. -/
def fillable (e : Leaf) (va : Nat) : Prop :=
  e.toNat / 2 ^ 57 % 2 ^ 7 = 0 ∧ e.toNat / 2 ^ 127 = 0 ∧ leafSize e ≤ 9 ∧ leafVtag e * 4096 % 2 ^ pageBits (leafSize e) = 0 ∧
  leafFrame e * 4096 % 2 ^ pageBits (leafSize e) = 0 ∧ ¬ (leafV e = true ∧ leafH e = true ∧ leafM e = true) ∧
  (leafV e = true → leafCovers e va = true)

end Sys2Proof.Says

/-- R54, R55, R238, R389: MFS writes the value of every system register that R54 gives a program; on a core of a program a number from 0x400
on raises PRIV; a number that R54 does not list raises ILLEGAL. On a supervisor core lease_run and err_inject read as they hold; that it
reads the registers of a gang and a context, which it does not have, as 0 is the model's reading (log entry 118). -/
def Sys2Proof.Says.MfsReadsSystemRegisters : Prop :=
  ∀ d (sr : BitVec 16) s,
    (∀ v c', sysValue s sr.toNat = some v → Unlocked (kind s) (own s) [] [d] → writeX (kind s) (own s) d v = .ok c' →
      Completes (.mfs d sr) s c') ∧
    (kind s ≠ .supervisor → 0x400 ≤ sr.toNat → Raises (.mfs d sr) s .priv 0#64) ∧
    (sr.toNat < 0x400 → sysValue s sr.toNat = none → sr.toNat ≠ 0x050 → Raises (.mfs d sr) s .illegal 0#64) ∧
    (∀ c', kind s = .supervisor → Unlocked (kind s) (own s) [] [d] →
      (sr.toNat = 0x400 → writeX (kind s) (own s) d (BitVec.ofNat 64 (own s).leaseRun) = .ok c' → Completes (.mfs d sr) s c') ∧
      (sr.toNat = 0x401 → writeX (kind s) (own s) d (own s).errInject = .ok c' → Completes (.mfs d sr) s c'))

/-- R54, R55, R168, R238, R274, R389: MTS writes each register that a program may write, reserved fields of the windows read as zero, bits 9
to 14 of trap_stat stay, setting sig_ctl bit 0 restarts the checker, writing nf_stat starts a new count; PRIV on a program's core from
0x400 on, ILLEGAL for every other number. R160: lease_run takes 1 to 64, and a supervisor core's write of another value raises
ILLEGAL. -/
def Sys2Proof.Says.MtsWritesSystemRegisters : Prop :=
  ∀ a (sr : BitVec 16) s,
    (∀ x c1 c2, Unlocked (kind s) (own s) [a] [] → readX (kind s) (own s) a = .ok (x, c1) → sysWritten c1 sr.toNat x = some c2 →
      Completes (.mts a sr) s c2) ∧
    (kind s ≠ .supervisor → 0x400 ≤ sr.toNat → Raises (.mts a sr) s .priv 0#64) ∧
    (sr.toNat < 0x400 → sysWritten (own s) sr.toNat 0#64 = none → Raises (.mts a sr) s .illegal 0#64) ∧
    (∀ x c1, kind s = .supervisor → sr.toNat = 0x400 → Unlocked (kind s) (own s) [a] [] → readX (kind s) (own s) a = .ok (x, c1) →
      (1 ≤ x.toNat ∧ x.toNat ≤ 64 → Completes (.mts a sr) s { c1 with leaseRun := x.toNat }) ∧
      (x.toNat = 0 ∨ 64 < x.toNat → Raises (.mts a sr) s .illegal 0#64))

/-- R202, R218: FENCE completes when nothing of its scope is in flight and no failure report is held, raises the oldest held report as a
deferred REMOTE_LOST when nothing is in flight, and otherwise waits, with nothing changed. That scope 3 waits for write-backs to other
packages as well is the model's reading (log entry 47). -/
def Sys2Proof.Says.FenceWaitsForItsScope : Prop :=
  ∀ (b : BitVec 2) s, (fenceWaits s b.toNat → keepsTrying (.fence b) s .fence) ∧
    (¬ fenceWaits s b.toNat → (own s).lost = [] → Completes (.fence b) s (own s)) ∧
    (∀ l r, ¬ fenceWaits s b.toNat → (own s).lost = l :: r →
      exec (.fence b) s = .next (takeCause s s.cur { cause := .remoteLost, addr := l, deferred := true }))

/-- R372: IDLE completes as soon as a message has come, a boundary cause is due, or, at a Starter core, a notice stands in its FIFO; until
then it waits. -/
def Sys2Proof.Says.IdleWaits : Prop :=
  ∀ s, ((own s).recvq ≠ [] ∨ (own s).pend ≠ [] ∨ ((∃ i, s.cur = .starter i) ∧ s.starter.notices ≠ []) → Completes .idle s (own s)) ∧
    ((own s).recvq = [] → (own s).pend = [] → ((∃ i, s.cur = .starter i) → s.starter.notices = []) → keepsTrying .idle s .idle)

/-- R179, R344, R360, R430: GENBUMP raises the generation by 1, in 1 tc, and touches no line but where the generation wraps a half, which
takes 3 tc; WBALL sends a
write-back for every dirty sector, leaves no byte dirty, and completes when none of its core is in flight. -/
def Sys2Proof.Says.GenerationAndWriteBackAll : Prop :=
  (∀ s, ∃ c', Completes .genbump s c' ∧ c'.gen = (own s).gen + 1#8 ∧ c' = { own s with gen := c'.gen, lines := c'.lines, busy := if (own s).gen = 255#8 ∨ (own s).gen = 127#8 then 2 else 0 } ∧
    ((own s).gen ≠ 255#8 → (own s).gen ≠ 127#8 → c'.lines = (own s).lines)) ∧
  (∀ s, (∀ e ∈ (own s).lines, e.2.dirty = 0#128) → ¬ writeBackOpen s none → ∃ c', Completes .wball s c' ∧
    c' = { own s with lines := c'.lines }) ∧
  (∀ s, (∃ e ∈ (own s).lines, e.2.dirty ≠ 0#128) ∨ writeBackOpen s none → ∃ t, exec .wball s = .next t ∧
    t = { s with cores := t.cores, net := t.net } ∧ t.net = s.net ++ (own s).lines.flatMap (fun e => lineWriteBacks s.cur e.2) ∧
    (coreOf t s.cur).wait = .fence ∧ (coreOf t s.cur).pc = (own s).pc ∧ ∀ e ∈ (coreOf t s.cur).lines, e.2.dirty = 0#128) ∧
  (∀ s, kind s ≠ .tile → (own s).lines = [] → ¬ writeBackOpen s none → Completes .wball s (own s))

/-- R344, R178, R210, R211: CINV of an address with a line of the context drops the line with its dirty bytes and sends nothing; CFLUSH sends the
line's dirty sectors home and drops the line at once, and completes when no write-back of the line is in flight, without translating
again; both complete with no line, on a page with M, and on a core without a cache; any cause of the translation is raised. That both act on a line
of the core's own context alone is the model's reading (log entry 49). -/
def Sys2Proof.Says.CacheLineControl : Prop :=
  ∀ a s va c1, Unlocked (kind s) (own s) [a] [] → readX (kind s) (own s) a = .ok (va, c1) → c1.replies = [] →
    (∀ e, mapped s c1 true false false va e →
      let known (key : Nat) : Prop := findWay c1 ((ctxOf s c1).getD 0) va.toNat = some key
      let goesOn (i : Instr) : Prop := ∃ t, exec i s = .next t ∧ (coreOf t s.cur).pc = (own s).pc + 4#14 ∧
        (coreOf t s.cur).x = c1.x ∧ t = { s with cores := t.cores }
      ((leafM e = true ∨ kind s ≠ .tile ∨ ∀ key, ¬ known key) → goesOn (.cinv a) ∧
        ((∀ l, (own s).wait ≠ .flush l) → goesOn (.cflush a) ∧ ∀ t, exec (.cflush a) s = .next t → (coreOf t s.cur).lines = c1.lines)) ∧
      (∀ key, leafM e = false → kind s = .tile → known key →
        (goesOn (.cinv a) ∧ ∀ t, exec (.cinv a) s = .next t → lineAt (coreOf t s.cur) key = {}) ∧
        ((∀ l, (own s).wait ≠ .flush l) → (lineAt c1 key).dirty = 0#128 → ¬ writeBackOpen s (some (physAt e va / 128)) →
          goesOn (.cflush a) ∧ ∀ t, exec (.cflush a) s = .next t → lineAt (coreOf t s.cur) key = {}))) ∧
    (∀ c2 key, lineFound s c1 { need := .r } va c2 key → Completes (.cinv a) s (setLine c2 key {})) ∧
    (∀ e phys c2 key, translate s (kind s) c1 { need := .r } va = .ok e phys c2 → leafM e = false → kind s = .tile →
      findWay c2 ((ctxOf s c2).getD 0) va.toNat = some key → (∀ l, (own s).wait ≠ .flush l) → (lineAt c2 key).dirty = 0#128 →
      ¬ writeBackOpen s (some (phys / 128)) →
      ∃ c3, Completes (.cflush a) s c3 ∧ c3.lines = (setLine c2 key {}).lines ∧ c3 = { c2 with lines := c3.lines }) ∧
    (∀ e phys c2, translate s (kind s) c1 { need := .r } va = .ok e phys c2 → (leafM e = true ∨ kind s ≠ .tile) →
      Completes (.cinv a) s c2 ∧ ((∀ l, (own s).wait ≠ .flush l) → Completes (.cflush a) s c2)) ∧
    (∀ e phys c2 key, translate s (kind s) c1 { need := .r } va = .ok e phys c2 → leafM e = false → kind s = .tile →
      findWay c2 ((ctxOf s c2).getD 0) va.toNat = some key →
      (∀ l, (own s).wait ≠ .flush l) →
      (∃ p ∈ lineWriteBacks s.cur (lineAt c2 key), p.addr / 128 = phys / 128) ∨ writeBackOpen s (some (phys / 128)) →
      ∃ t, exec (.cflush a) s = .next t ∧ t.net = s.net ++ lineWriteBacks s.cur (lineAt c2 key) ∧
        (coreOf t s.cur).wait = .flush (phys / 128) ∧ lineAt (coreOf t s.cur) key = {} ∧
        (coreOf t s.cur).pc = (own s).pc ∧ t = { s with cores := t.cores, net := t.net }) ∧
    (∀ l, (own s).wait = .flush l → (¬ writeBackOpen s (some l) → Completes (.cflush a) s c1) ∧
      (writeBackOpen s (some l) → exec (.cflush a) s =
        .next (setCore s s.cur { c1 with wait := .flush l, pulled := c1.taken ++ c1.pulled, taken := [] }))) ∧
    (∀ x, translate s (kind s) c1 { need := .r } va = .fail x → x ≠ .deadlock →
      Raises (.cinv a) s x va ∧ ((∀ l, (own s).wait ≠ .flush l) → Raises (.cflush a) s x va))

/-- R213, R214, R55: TLBW and TLBINV raise PRIV on a program's core. On a supervisor core TLBW sends its entry, built from its two registers,
to the requester of the miss its core took last, and clears that target; without one, or with an entry R213 refuses, it raises ILLEGAL.
TLBINV drops, at every core, each entry whose page holds the address, every entry when it names x0, and completes when no access through
such an entry is on its way; TLBW and TLBINV complete as soon as nothing is in flight. -/
def Sys2Proof.Says.TlbControl : Prop :=
  (∀ a b s x y c1 c2 m, kind s = .supervisor → Unlocked (kind s) (own s) [a, b] [] → readX (kind s) (own s) a = .ok (x, c1) →
    readX (kind s) c1 b = .ok (y, c2) → (own s).fillTarget = some m → fillable (y ++ x) m.va →
    ∃ t, exec (.tlbw a b) s = .next t ∧ (coreOf t s.cur).pc = (own s).pc + 4#14 ∧ (coreOf t s.cur).fillTarget = none ∧
      t.net = s.net ++ [{ src := agentCode s.cur, addr := m.va, kind := .tlbFill m (y ++ x) }]) ∧
  (∀ a s va c1, kind s = .supervisor → Unlocked (kind s) (own s) [a] [] → readX (kind s) (own s) a = .ok (va, c1) → s.net = [] →
    (∀ e ∈ s.cores, ∀ l ∈ e.2.lines, l.2.dirty = 0#128) →
    ∃ t, exec (.tlbinv a) s = .next t ∧ (coreOf t s.cur).pc = (own s).pc + 4#14 ∧ t = { s with cores := t.cores }) ∧
  (∀ a s va c1, kind s = .supervisor → Unlocked (kind s) (own s) [a] [] → readX (kind s) (own s) a = .ok (va, c1) →
    (own s).wait = .step → throughOpen s (a == 0#5) va.toNat = false →
    exec (.tlbinv a) s = .next (setCore s s.cur (retire c1))) ∧
  (∀ a b s, kind s ≠ .supervisor → Raises (.tlbw a b) s .priv 0#64 ∧ Raises (.tlbinv a) s .priv 0#64) ∧
  (∀ a b s x y c1 c2, kind s = .supervisor → Unlocked (kind s) (own s) [a, b] [] → readX (kind s) (own s) a = .ok (x, c1) →
    readX (kind s) c1 b = .ok (y, c2) →
    (c2.fillTarget = none → Raises (.tlbw a b) s .illegal 0#64) ∧
    (∀ m, c2.fillTarget = some m →
      (fillable (y ++ x) m.va → exec (.tlbw a b) s =
        .next (setCore { s with net := s.net ++ [{ src := agentCode s.cur, addr := m.va, kind := .tlbFill m (y ++ x) }] } s.cur
          (retire { c2 with fillTarget := none }))) ∧
      (¬ fillable (y ++ x) m.va → Raises (.tlbw a b) s .illegal 0#64))) ∧
  (∀ a s va, kind s = .supervisor → Unlocked (kind s) (own s) [a] [] → readX (kind s) (own s) a = .ok (va, own s) →
    (own s).wait ≠ .step → fillsOpen s (agentCode s.cur) = false → (own s).tlb = [] → (s.cores.map (·.1)).Nodup →
    throughOpen (invalidateTlbs s (a == 0#5) va.toNat) (a == 0#5) va.toNat = false → ∃ t, exec (.tlbinv a) s = .next t ∧
      (coreOf t s.cur).pc = (own s).pc + 4#14 ∧ t = { s with cores := t.cores, net := t.net } ∧
      (∀ b, (tfind s.cores (agentCode b)).isSome = true → ∀ e ∈ (coreOf t b).tlb, a ≠ 0#5 ∧ leafCovers e.leaf va.toNat = false) ∧
      (∀ b, b ≠ s.cur → (coreOf t b).x = (coreOf s b).x ∧ (coreOf t b).pc = (coreOf s b).pc ∧ (coreOf t b).scratch = (coreOf s b).scratch))

/-- The frame of the system forms: MFS, MTS, FENCE, IDLE, GENBUMP, WBALL, CFLUSH, CINV and TLBW change nothing outside their core and the
network, no byte of memory, no scalar register but MFS's destination, no vector or predicate register, loop slot, or scratch, unless they
raise a cause. That MTS of host_wake_armed by a supervisor core, which belongs to no gang, changes nothing outside the core either is the
model's choice (log 136). -/
def Sys2Proof.Says.SystemFrame : Prop :=
  ∀ i s t, (∃ d sr, i = .mfs d sr) ∨ (∃ a sr, i = .mts a sr) ∨ (∃ b, i = .fence b) ∨ i = .idle ∨ i = .genbump ∨ i = .wball ∨
      (∃ a, i = .cflush a) ∨ (∃ a, i = .cinv a) ∨ (∃ a b, i = .tlbw a b) →
    exec i s = .next t → (∃ tr, t = takeCause (withNotice s s.cur tr) s.cur tr) ∨
    t = { s with cores := t.cores, net := t.net } ∧ (∀ a, tget t.mem 0#8 a = tget s.mem 0#8 a) ∧ (∀ a, a ≠ s.cur → coreOf t a = coreOf s a) ∧
    (∀ r, (∀ sr, i ≠ .mfs r sr) → reg (coreOf t s.cur) r = reg (own s) r) ∧
    (coreOf t s.cur).v = (own s).v ∧ (coreOf t s.cur).p = (own s).p ∧ (coreOf t s.cur).loop0 = (own s).loop0 ∧
    (coreOf t s.cur).loop1 = (own s).loop1 ∧ (coreOf t s.cur).scratch = (own s).scratch ∧ (coreOf t s.cur).inflight = (own s).inflight ∧
    ((∀ a sr, i ≠ .mts a sr) → (coreOf t s.cur).trapVec = (own s).trapVec ∧ (coreOf t s.cur).trapPc = (own s).trapPc ∧
      (coreOf t s.cur).sigCtl = (own s).sigCtl ∧ (coreOf t s.cur).win = (own s).win ∧ (coreOf t s.cur).nfStat = (own s).nfStat)

/-- MFS and MTS. -/
def Obligations.SystemRegisters : Prop := Says.MfsReadsSystemRegisters ∧ Says.MtsWritesSystemRegisters

/-- FENCE and IDLE. -/
def Obligations.FenceAndIdle : Prop := Says.FenceWaitsForItsScope ∧ Says.IdleWaits

/-- Cache and TLB control. -/
def Obligations.CacheControl : Prop := Says.GenerationAndWriteBackAll ∧ Says.CacheLineControl ∧ Says.TlbControl

/-- The frames of the scalar, control and system instructions. -/
def Obligations.CoreFrames : Prop := Says.ScalarFrame ∧ Says.ControlFrame ∧ Says.SystemFrame
/-! ### The matrix block -/

namespace Sys2Proof.Says

/-- The quad of tile m. -/
abbrev quadRec (s : State) (m : Nat) : Quad := quadOf s (tileQuad m)

/-- Tile m steps, holds the lease of its quad, the queue has room, and its run may go on: it has not reached its limit, or no other core of
the quad waits (R149, R160). -/
def mayCommand (s : State) (m : Nat) : Prop :=
  s.cur = .tile m ∧ leaseOf (quadRec s m) (tileInQuad m) = .holding ∧ (quadRec s m).queue.length < 8 ∧
  ((quadRec s m).run < (quadRec s m).runLimit ∨ ∀ t, t < 4 → t ≠ tileInQuad m → leaseOf (quadRec s m) t ≠ .waiting)

/-- The descriptor operand of a matrix command names n bytes of the core's own scratch, aligned, outside an undo area; d is what they hold
(R154, R166). -/
def descriptorAt (s : State) (c : Core) (x : Word) (n d : Nat) : Prop :=
  let o := x.toNat % 2 ^ 20
  o % n = 0 ∧ tileDest s s.cur c (BitVec.ofNat 32 x.toNat) = .here o ∧ localBound s (kind s) c o n = none ∧
  d = ofBytes ((List.range n).map fun i => tget c.scratch 0#8 (visible c.bufs (o + i)))

/-- In state t the command with descriptor d and effect k has been accepted as the quad's youngest: its issuer goes on at the next word
with its scoreboard entries entered, the run counts one more, and the program of cells it works with is the one loaded before. -/
def acceptedAs (s t : State) (m : Nat) (k : CommandKind) (d : Nat) : Prop :=
  let q := quadRec s m
  ∃ cmd, (quadRec t m).queue = q.queue ++ [cmd] ∧ cmd.kind = k ∧ cmd.issuer = tileInQuad m ∧
    cmd.desc = BitVec.ofNat 256 d ∧ cmd.serial = q.next ∧ cmd.begun = false ∧ cmd.step = 0 ∧ cmd.cell = (q.cells[tileInQuad m]?).getD none ∧
    (quadRec t m).next = q.next + 1 ∧ (quadRec t m).run = (if q.run < q.runLimit then q.run + 1 else 1) ∧
    (quadRec t m).acc = q.acc ∧ (quadRec t m).lease = q.lease ∧
    (coreOf t (.tile m)).pc = (own s).pc + 4#14 ∧ (coreOf t (.tile m)).x = (own s).x ∧ t = { s with cores := t.cores, quads := t.quads } ∧
    (k ≠ .mcell → (quadRec t m).cells = q.cells)

/-- The ILLEGAL rows of R154 for an MMA descriptor: a reserved field or code, a pair that R148 does not accept, K of 0 or no multiple of its
group, a cell program missing or with a format it does not take. -/
def mmaRefused (d : Nat) (hasCell : Bool) : Prop :=
  let f (lo n : Nat) : Nat := d / 2 ^ lo % 2 ^ n
  let a := f (128 + 32) 3; let b := f (128 + 35) 3; let k := f (128 + 16) 16; let cell := f (128 + 41) 1
  f 22 10 ≠ 0 ∨ f 52 12 ≠ 0 ∨ f (64 + 22) 10 ≠ 0 ∨ f (64 + 52) 12 ≠ 0 ∨ f (128 + 42) 22 ≠ 0 ∨ f 192 64 ≠ 0 ∨ k = 0 ∨
  (cell = 1 ∧ (hasCell = false ∨ ¬ ((a = 0 ∨ a = 3) ∧ (b = 0 ∨ b = 6)))) ∨
  (cell = 0 ∧ ¬ ((a = 0 ∧ b ≤ 5) ∨ ((a = 1 ∨ a = 2) ∧ 1 ≤ b ∧ b ≤ 5))) ∨
  (cell = 0 ∧ (a = 1 ∨ a = 2) ∧ k % (if b ≤ 2 then 2 else 4) ≠ 0) ∨ (cell = 0 ∧ 3 ≤ b ∧ b ≤ 5 ∧ k % 32 ≠ 0)

/-- The byte that the last row of a region ends before lies within the limit, for every row (R154). -/
def endsWithin (rows : List Row) (limit : Nat) : Prop := ∀ r ∈ rows, r.start + r.len ≤ limit

/-- An MMA descriptor that passes every check of R154. -/
def mmaPasses (d : Nat) (hasCell : Bool) (limit : Nat) : Prop :=
  ¬ mmaRefused d hasCell ∧ d / 2 ^ 128 % 2 ^ 8 ≤ 127 ∧ d / 2 ^ 136 % 2 ^ 8 ≤ 127 ∧
  d % 16 = 0 ∧ d / 2 ^ 32 % 16 = 0 ∧ d / 2 ^ 64 % 16 = 0 ∧ d / 2 ^ 96 % 16 = 0 ∧
  endsWithin (regionA (BitVec.ofNat 256 d) ++ regionB (BitVec.ofNat 256 d)) limit

/-- The ILLEGAL rows of a drain descriptor (R157): a reserved field, more than 128 rows or columns, BLK16 with a size that is no multiple of
16, QSPLIT with a tile. -/
def drainRefused (d : Nat) : Prop :=
  let f (lo n : Nat) : Nat := d / 2 ^ lo % 2 ^ n
  f 22 10 ≠ 0 ∨ f 52 12 ≠ 0 ∨ f (64 + 26) 6 ≠ 0 ∨ f 128 64 ≠ 0 ∨ f 192 64 ≠ 0 ∨ 127 < f 64 8 ∨ 127 < f 72 8 ∨
  (f (64 + 23) 2 = 2 ∧ ((f 64 8 + 1) % 16 ≠ 0 ∨ (f 72 8 + 1) % 16 ≠ 0)) ∨ (f (64 + 23) 2 = 3 ∧ f 20 2 ≠ 0)

/-- A drain descriptor that passes every check. -/
def drainPasses (d : Nat) (limit : Nat) : Prop :=
  ¬ drainRefused d ∧ d % 16 = 0 ∧ d / 2 ^ 32 % 16 = 0 ∧ endsWithin (regionD (BitVec.ofNat 256 d)) limit

/-- A cell program that MCELL takes (R159): 1 to 4 operations, reserved fields zero, each with its codes, the last one to the state. -/
def cellPasses (d : Nat) : Prop :=
  1 ≤ d % 8 ∧ d % 8 ≤ 4 ∧ d / 8 % 2 ^ 61 = 0 ∧ ∀ i, i < 4 → let e := d / 2 ^ (64 + 16 * i) % 2 ^ 16
    (d % 8 ≤ i → e = 0) ∧ (i < d % 8 → e % 16 ≤ 4 ∧ e / 2 ^ 4 % 8 ≤ 6 ∧ e / 2 ^ 7 % 8 ≤ 6 ∧ e / 2 ^ 11 = 0 ∧
      (i + 1 = d % 8 → e / 2 ^ 10 % 2 = 0))

/-- No array of the quad holds an uncorrectable error. -/
def errorFree (s : State) (quad : Nat) : Prop := (quadOf s quad).marks = [] ∧ ∀ i, i < 4 → (quadCore s quad i).marks = []

/-- A bank's element at row i, column j. -/
def element (q : Quad) (bank i j : Nat) : BitVec 32 := tget q.acc 0#32 (bank * 16384 + i * 128 + j)

/-- Command c stands at position idx of the quad's queue and has begun, its gang is not stopped, no array of the quad holds an error, and no
earlier command keeps it from completing: one of its bank, or an MMA not fed whole before another MMA (R149, R164). -/
def completable (s : State) (quad idx : Nat) (c : Command) : Prop :=
  (quadOf s quad).queue[idx]? = some c ∧ c.begun = true ∧ errorFree s quad ∧ blockStopped s quad c = false ∧
  ∀ p ∈ (quadOf s quad).queue.take idx, (bankOf c ≠ none → bankOf p ≠ bankOf c) ∧
    (c.kind = .mma → p.kind = .mma → mmaSteps p.desc ≤ p.step)

/-- The entries of a command have left a scoreboard. -/
def scoreWithout (c : Core) (cmd : Command) : List ScoreEntry := c.score.filter fun e => e.owner != .matrix cmd.serial

/-- The command has left the queue of its quad, whose accumulators alone differ otherwise; no other quad differs, no core outside the
quad, and nothing else of the package. -/
def retired (s t : State) (quad : Nat) (c : Command) : Prop :=
  quadOf t quad = { quadOf s quad with acc := (quadOf t quad).acc, queue := (quadOf s quad).queue.filter fun d => d.serial != c.serial } ∧
  (∀ n, n ≠ quad → quadOf t n = quadOf s n) ∧ (∀ a, (∀ i, i < 4 → a ≠ .tile (quadTile quad i)) → coreOf t a = coreOf s a) ∧
  t = { s with cores := t.cores, quads := t.quads }

/-- The command's entries have left the scoreboards of the quad's cores, of which nothing else differs. -/
def onlyScores (s t : State) (quad : Nat) (c : Command) : Prop :=
  ∀ i, i < 4 → quadCore t quad i = { quadCore s quad i with score := scoreWithout (quadCore s quad i) c }

/-- n bits from bit lo of a command's descriptor. -/
def descField (c : Command) (lo n : Nat) : Nat := c.desc.toNat / 2 ^ lo % 2 ^ n

/-- n bytes, little-endian, from offset o of tile k of the quad, in the halves that were visible when the command was accepted (R174). -/
def fedAt (s : State) (quad : Nat) (c : Command) (k o n : Nat) : Nat :=
  ofBytes ((List.range n).map fun i =>
    tget (quadCore s quad k).scratch 0#8 (visible ((c.bound[k]?).getD (Vector.replicate 8 {})) (o + i)))

/-- The code of A[i][k] (R152). -/
def codeOfA (s : State) (quad : Nat) (c : Command) (i k : Nat) : Nat :=
  let e := match descField c 160 3 with
    | 0 => 2
    | 3 => 4
    | _ => 1
  fedAt s quad c (descField c 20 2) (descField c 0 20 + i * descField c 32 20 + k * e) e

/-- The code of B[k][j] (R152): in the scaled-row layout of R187 a code of 4 or, INT3, 3 bits in its group's string. -/
def codeOfB (s : State) (quad : Nat) (c : Command) (k j : Nat) : Nat :=
  let f := descField c 163 3; let base := descField c 64 20; let p := descField c 96 20
  if 3 ≤ f ∧ f ≤ 5 then
    let w := if f = 5 then 3 else 4; let n := if f = 5 then 12 else 16
    fedAt s quad c (descField c 84 2) (base + (2 * (k / 32) + 1) * p + j * n) n / 2 ^ (w * (k % 32)) % 2 ^ w
  else
    let e := match f with
      | 0 => 2
      | 6 => 4
      | _ => 1
    fedAt s quad c (descField c 84 2) (base + k * p + j * e) e

/-- A code of w bits as a signed number. -/
def signedCode (w x : Nat) : FVal := if x < 2 ^ (w - 1) then .fin false x 0 else .fin true (2 ^ w - x) 0

/-- The value of a code of A (R152). -/
def fedA (f x : Nat) : FVal :=
  match f with
  | 0 => decodeF bf16 x
  | 1 => decodeF e4m3 x
  | 2 => decodeF e5m2 x
  | _ => decodeF fp32 x

/-- The value of a code of B before its scale (R148, R152). -/
def fedB (f x : Nat) : FVal :=
  match f with
  | 0 => decodeF bf16 x
  | 1 => decodeF e4m3 x
  | 2 => decodeF e5m2 x
  | 3 => decodeF e2m1 x
  | 4 => signedCode 4 x
  | 5 => signedCode 3 x
  | _ => decodeF fp32 x

/-- The scale of column j of B in block row b (R142, R187): an E8M0 byte for MXFP4, a BF16 value for INT4 and INT3, 1 for the other formats. -/
def scaleOfB (s : State) (quad : Nat) (c : Command) (b j : Nat) : FVal :=
  let o := descField c 64 20 + 2 * b * descField c 96 20
  match descField c 163 3 with
  | 3 => decodeE8M0 (fedAt s quad c (descField c 84 2) (o + j) 1)
  | 4 | 5 => decodeF bf16 (fedAt s quad c (descField c 84 2) (o + 2 * j) 2)
  | _ => .fin false 1 0

/-- Products of a group step (R148). -/
def groupOf (c : Command) : Nat :=
  if descField c 169 1 = 1 ∨ descField c 160 3 = 0 then 1 else if descField c 163 3 ≤ 2 then 2 else 4

/-- Group step u of element (i, j) on FP32 code acc (R142): the exact sum of the step's products, times the scale, added with one rounding. -/
def groupStep (s : State) (quad : Nat) (c : Command) (i j u acc : Nat) : Nat :=
  let g := groupOf c
  let sum := FVal.sum ((List.range g).map fun v => (fedA (descField c 160 3) (codeOfA s quad c i (g * u + v))).mul
    (fedB (descField c 163 3) (codeOfB s quad c (g * u + v) j)))
  roundF fp32 .rne false ((decodeF fp32 acc).add ((scaleOfB s quad c (g * u / 32) j).mul sum))

/-- VFMIN or VFMAX of two codes (R135): the other operand of a NaN, the default NaN for two; −0 is below +0. -/
def extremum (F : Fmt) (max : Bool) (x y : Nat) : Nat :=
  if decodeF F x = .nan ∧ decodeF F y = .nan then F.nan
  else if decodeF F x = .nan then y
  else if decodeF F y = .nan then x
  else if max then (if (decodeF F x).below (decodeF F y) then y else x) else (if (decodeF F y).below (decodeF F x) then y else x)

/-- A cell operation on two FP32 codes (R159). -/
def cellOpValue (op x y : Nat) : Nat :=
  match op with
  | 0 => roundF fp32 .rne false ((decodeF fp32 x).add (decodeF fp32 y))
  | 1 => roundF fp32 .rne false ((decodeF fp32 x).add (decodeF fp32 y).negate)
  | 2 => roundF fp32 .rne false ((decodeF fp32 x).mul (decodeF fp32 y))
  | 3 => extremum fp32 false x y
  | _ => extremum fp32 true x y

/-- A step of cell program d on operands a and b and state st (R159): the operations in order over t0, t1 and the latest result, which is the new state. -/
def cellValue (d : BitVec 128) (a b st : Nat) : Nat :=
  let pick (r : Nat × Nat × Nat) (code : Nat) : Nat := match code with
    | 0 => a
    | 1 => b
    | 2 => st
    | 3 => r.1
    | 4 => r.2.1
    | 5 => 0
    | _ => 0x3F800000
  ((List.range (d.toNat % 8)).foldl (fun r i =>
    let e := d.toNat / 2 ^ (64 + 16 * i)
    let v := cellOpValue (e % 16) (pick r (e / 2 ^ 4 % 8)) (pick r (e / 2 ^ 7 % 8))
    if e / 2 ^ 10 % 2 = 1 then (r.1, v, v) else (v, r.2.1, v)) (0, 0, st)).2.2

/-- Step u of element (i, j) on FP32 code acc (R153): the cell program on the operands widened to FP32, or the group step. -/
def mmaStep (s : State) (quad : Nat) (c : Command) (i j u acc : Nat) : Nat :=
  let wide (f x : Nat) : Nat := if f = 0 then x * 2 ^ 16 else x
  if descField c 169 1 = 1 then
    cellValue (c.cell.getD 0#128) (wide (descField c 160 3) (codeOfA s quad c i u)) (wide (descField c 163 3) (codeOfB s quad c u j)) acc
  else groupStep s quad c i j u acc

/-- The FP32 code that element (i, j) of an MMA starts from at step 0 (R153). -/
def startsFrom (c : Command) (old : Nat) : Nat :=
  match descField c 167 2 with
  | 0 => old
  | 1 => 0
  | 2 => 0x7F800000
  | _ => 0xFF800000

/-- Bytes of an element of a drain (R157). -/
def drainSize (c : Command) : Nat :=
  match descField c 81 2 with
  | 0 => 4
  | 1 => 2
  | _ => 1

/-- Tile in quad and offset of element (i, j) of a drain (R157). -/
def drainPlace (c : Command) (i j : Nat) : Nat × Nat :=
  let dst := descField c 0 20; let stride := descField c 32 20; let e := drainSize c; let n := descField c 72 8 + 1
  match descField c 87 2 with
  | 0 => (descField c 20 2, dst + i * stride + j * e)
  | 1 => (descField c 20 2, dst + j * stride + i * e)
  | 2 => (descField c 20 2, dst + ((i / 16) * (n / 16) + j / 16) * 256 * e + ((i % 16) * 16 + j % 16) * e)
  | _ => (i % 4, dst + (i / 4) * stride + j * e)

/-- The physical offset of byte b of element (i, j) of a drain, in the half that was the shadow when the command was accepted (R158, R174). -/
def drainByte (c : Command) (i j b : Nat) : Nat :=
  shadow ((c.bound[(drainPlace c i 0).1]?).getD (Vector.replicate 8 {})) ((drainPlace c i j).2 + b)

/-- The physical offsets that a drain writes in tile k, in the order of its rows (R157). -/
def drainBytes (c : Command) (k : Nat) : List Nat :=
  ((List.range (descField c 64 8 + 1)).filter fun i => (drainPlace c i 0).1 == k).flatMap fun i =>
    (List.range (descField c 72 8 + 1)).flatMap fun j => (List.range (drainSize c)).map fun b => drainByte c i j b

/-- The code that a drain writes for an element (R143): a itself to FP32 without a scale, otherwise a times the scale, rounded once in the
descriptor's mode and saturation. -/
def drainValue (c : Command) (a : Nat) : Nat :=
  let F := match descField c 81 2 with
    | 0 => fp32
    | 1 => bf16
    | 2 => e4m3
    | _ => e5m2
  let rnd : Rnd := match descField c 83 2 with
    | 0 => .rne
    | 1 => .rtz
    | 2 => .rdn
    | _ => .rup
  let scale := if descField c 86 1 = 1 then decodeF fp32 (descField c 96 32) else .fin false 1 0
  if descField c 81 2 = 0 ∧ descField c 86 1 = 0 then a else roundF F rnd (descField c 85 1 == 1) ((decodeF fp32 a).mul scale)

/-- Byte b' of element (i', j') is not written after byte b of element (i, j): rows in rising order, then columns, then bytes (R157). -/
def notAfter (i' j' b' i j b : Nat) : Prop := i' < i ∨ (i' = i ∧ (j' < j ∨ (j' = j ∧ b' ≤ b)))

/-- UNDO_FULL becomes due at a core whose engine or remote write logs the sectors fs and leaves it as c' (R263). -/
def fullDue (c c' : Core) (fs : List Nat) : Prop :=
  fs ≠ [] ∧ 0xE000 < c'.undoFill ∧ c.undoRaised = false ∧ c.undoInHandler = false

/-- It names one of the sectors logged; where it is not due nothing is pended. -/
def fullNamed (c c' : Core) (fs : List Nat) : Prop :=
  (fullDue c c' fs → c'.undoRaised = true ∧ ∃ x ∈ fs, c'.pend = c.pend ++ [{ cause := .undoFull, addr := BitVec.ofNat 64 (32 * x) }]) ∧
  (¬ fullDue c c' fs → c'.undoRaised = c.undoRaised ∧ c'.pend = c.pend)

/-- Core c' is core c after a drain's writes to the physical offsets ps, in which the sectors fs are logged: nothing else of scratch differs and
no entry of the command stands in the scoreboard; UNDO_FULL becomes due, naming a sector logged, where the area is left above 0xE000 and none is
pending (R262, R263). -/
def drainedInto (s : State) (c c' : Core) (cmd : Command) (fs ps : List Nat) : Prop :=
  c' = { c with scratch := c'.scratch, marks := c'.marks, logged := c'.logged, undoFill := c'.undoFill, undoRaised := c'.undoRaised,
                pend := c'.pend, score := scoreWithout c cmd } ∧
  logs s c c' fs ∧ (∀ q, untouched c fs ps q → tget c'.scratch 0#8 q = tget c.scratch 0#8 q) ∧ c'.marks = c.marks ∧ fullNamed c c' fs

end Sys2Proof.Says

/-- R149, R152, R154, R156, R157, R160: MMA, MCELL, MZERO and MDRAIN of a core that holds the lease are accepted at the end of the quad's queue
when their descriptor passes its checks, no scoreboard holds them up and the queue has room; a ninth command and one the scoreboard holds
up freeze their core; a core in lease state none gets LEASE. -/
def Sys2Proof.Says.MatrixCommandsAreAccepted : Prop :=
  (∀ a s m x c1 d, mayCommand s m → Unlocked (kind s) (own s) [a] [] → readX (kind s) (own s) a = .ok (x, c1) →
    undoReserved s (kind s) c1 = false → descriptorAt s c1 x 32 d →
    (mmaPasses d ((((quadRec s m).cells[tileInQuad m]?).getD none).isSome) (2 ^ 20) →
      (∀ e ∈ mmaEntries s (tileQuad m) (BitVec.ofNat 256 d) (quadRec s m).next, (quadCore s (tileQuad m) e.1).score.length < 16 ∧
        scoreConflict (quadCore s (tileQuad m) e.1).score e.2.reads e.2.write = false) →
      ∃ t, exec (.mma a) s = .next t ∧ acceptedAs s t m .mma d) ∧
    (drainPasses d (2 ^ 20) →
      (∀ e ∈ drEntries s (tileQuad m) (BitVec.ofNat 256 d) (quadRec s m).next, (quadCore s (tileQuad m) e.1).score.length < 16 ∧
        scoreConflict (quadCore s (tileQuad m) e.1).score e.2.reads e.2.write = false) →
      ∃ t, exec (.mdrain a) s = .next t ∧ acceptedAs s t m .mdrain d) ∧
    ((∀ i, i < 4 → (quadCore s (tileQuad m) i).score = []) →
      (mmaPasses d ((((quadRec s m).cells[tileInQuad m]?).getD none).isSome) (2 ^ 20) →
        ∃ t, exec (.mma a) s = .next t ∧ (coreOf t (.tile m)).pc = (own s).pc + 4#14) ∧
      (drainPasses d (2 ^ 20) → ∃ t, exec (.mdrain a) s = .next t ∧ (coreOf t (.tile m)).pc = (own s).pc + 4#14))) ∧
  (∀ a s m x c1 d, mayCommand s m → Unlocked (kind s) (own s) [a] [] → readX (kind s) (own s) a = .ok (x, c1) →
    undoReserved s (kind s) c1 = true → descriptorAt s c1 x 32 d →
    (mmaPasses d ((((quadRec s m).cells[tileInQuad m]?).getD none).isSome) 0xF0000 →
      regionFault s (kind s) c1 (tileQuad m) visible (regionA (BitVec.ofNat 256 d) ++ regionB (BitVec.ofNat 256 d)) = none →
      admits s (tileQuad m) (mmaEntries s (tileQuad m) (BitVec.ofNat 256 d) (quadRec s m).next) = true →
      ∃ t, exec (.mma a) s = .next t ∧ acceptedAs s t m .mma d) ∧
    (drainPasses d 0xF0000 → regionFault s (kind s) c1 (tileQuad m) shadow (regionD (BitVec.ofNat 256 d)) = none →
      admits s (tileQuad m) (drEntries s (tileQuad m) (BitVec.ofNat 256 d) (quadRec s m).next) = true →
      ∃ t, exec (.mdrain a) s = .next t ∧ acceptedAs s t m .mdrain d)) ∧
  (∀ a s m x c1 d, mayCommand s m → Unlocked (kind s) (own s) [a] [] → readX (kind s) (own s) a = .ok (x, c1) →
    descriptorAt s c1 x 16 d → cellPasses d → ∃ t, exec (.mcell a) s = .next t ∧ acceptedAs s t m .mcell d ∧
      (quadRec t m).cells[tileInQuad m]? = some (some (BitVec.ofNat 128 d))) ∧
  (∀ b s m, mayCommand s m → ∃ t, exec (.mzero b) s = .next t ∧ acceptedAs s t m .mzero b.toNat) ∧
  (∀ b s m, s.cur = .tile m → leaseOf (quadRec s m) (tileInQuad m) = .none → Raises (.mzero b) s .lease 0#64) ∧
  (∀ a s m x c1, s.cur = .tile m → Unlocked (kind s) (own s) [a] [] → readX (kind s) (own s) a = .ok (x, c1) →
    leaseOf (quadRec s m) (tileInQuad m) = .none →
    Raises (.mma a) s .lease 0#64 ∧ Raises (.mcell a) s .lease 0#64 ∧ Raises (.mdrain a) s .lease 0#64) ∧
  (∀ b s m, s.cur = .tile m → leaseOf (quadRec s m) (tileInQuad m) = .holding → 8 ≤ (quadRec s m).queue.length →
    exec (.mzero b) s = .next (setCore s s.cur { own s with wait := .commandQueue }))

/-- R154, R152: an MMA whose descriptor shows an ILLEGAL row raises ILLEGAL with trap_addr 0; otherwise a base or stride that is no multiple
of 16 raises ALIGN with the value of the first such field in the order a_base, a_stride, b_base, b_stride; the descriptor address itself raises ALIGN
when it is not 32-byte aligned. That an m or n field above 127 is an ILLEGAL row is the model's reading (log entry 38). -/
def Sys2Proof.Says.MmaDescriptorChecks : Prop :=
  ∀ a s m x c1, s.cur = .tile m → leaseOf (quadRec s m) (tileInQuad m) = .holding → Unlocked (kind s) (own s) [a] [] →
    readX (kind s) (own s) a = .ok (x, c1) →
    (x.toNat % 2 ^ 20 % 32 ≠ 0 → Raises (.mma a) s .align (BitVec.ofNat 64 (x.toNat % 2 ^ 32))) ∧
    (∀ d, d < 2 ^ 256 → descriptorAt s c1 x 32 d →
      (mmaRefused d ((((quadRec s m).cells[tileInQuad m]?).getD none).isSome) ∨ 127 < d / 2 ^ 128 % 2 ^ 8 ∨ 127 < d / 2 ^ 136 % 2 ^ 8 →
        Raises (.mma a) s .illegal 0#64) ∧
      (¬ mmaRefused d ((((quadRec s m).cells[tileInQuad m]?).getD none).isSome) → d / 2 ^ 128 % 2 ^ 8 ≤ 127 → d / 2 ^ 136 % 2 ^ 8 ≤ 127 →
        (d % 16 ≠ 0 → Raises (.mma a) s .align (BitVec.ofNat 64 (d % 2 ^ 22))) ∧
        (d % 16 = 0 → d / 2 ^ 32 % 16 ≠ 0 → Raises (.mma a) s .align (BitVec.ofNat 64 (d / 2 ^ 32 % 2 ^ 20))) ∧
        (d % 16 = 0 → d / 2 ^ 32 % 16 = 0 → d / 2 ^ 64 % 16 ≠ 0 → Raises (.mma a) s .align (BitVec.ofNat 64 (d / 2 ^ 64 % 2 ^ 22))) ∧
        (d % 16 = 0 → d / 2 ^ 32 % 16 = 0 → d / 2 ^ 64 % 16 = 0 → d / 2 ^ 96 % 16 ≠ 0 →
          Raises (.mma a) s .align (BitVec.ofNat 64 (d / 2 ^ 96 % 2 ^ 20)))))

/-- R142, R148, R149, R152, R153, R156, R159, R187: MATRIX_CMD_COMPLETE. An MMA leaves in each element of its region what its remaining steps make of
the start that its init names, or of what it has fed before: a group step adds the exact sum of its products, times the group's
scale, with one rounding to FP32; a step of a cell program runs its operations on FP32 codes; the operands are the codes that the
descriptor's regions hold. Every other element is as it was. MZERO leaves +0 in its bank; MCELL changes no element. The command
leaves the queue and the scoreboards, and nothing else differs. MATRIX_CMD_BEGIN marks a command that no earlier one keeps back as begun. -/
def Sys2Proof.Says.MatrixCommandsComplete : Prop :=
  (∀ s quad idx c, completable s quad idx c → c.kind = .mma → ¬ mmaRefused c.desc.toNat c.cell.isSome →
    descField c 128 8 ≤ 127 → descField c 136 8 ≤ 127 →
    ∃ t, exec (.matrixCmdComplete quad idx) s = .next t ∧ retired s t quad c ∧ onlyScores s t quad c ∧
    (∀ i j, i ≤ descField c 128 8 → j ≤ descField c 136 8 → ∃ acc : Nat → Nat,
      let old := (element (quadOf s quad) (descField c 166 1) i j).toNat; let steps := descField c 144 16 / groupOf c
      acc c.step = (if c.step = 0 then startsFrom c old else old) ∧
      (∀ u, c.step ≤ u → u < steps → acc (u + 1) = mmaStep s quad c i j u (acc u)) ∧
      element (quadOf t quad) (descField c 166 1) i j = BitVec.ofNat 32 (acc (max c.step steps))) ∧
    (∀ b i j, b < 2 → i < 128 → j < 128 → ¬ (b = descField c 166 1 ∧ i ≤ descField c 128 8 ∧ j ≤ descField c 136 8) →
      element (quadOf t quad) b i j = element (quadOf s quad) b i j)) ∧
  (∀ s quad idx c, completable s quad idx c → c.kind = .mzero → ∃ t, exec (.matrixCmdComplete quad idx) s = .next t ∧ retired s t quad c ∧
    onlyScores s t quad c ∧ ∀ b i j, b < 2 → i < 128 → j < 128 → element (quadOf t quad) b i j =
      if b = c.desc.toNat % 2 then 0#32 else element (quadOf s quad) b i j) ∧
  (∀ s quad idx c, completable s quad idx c → c.kind = .mcell → ∃ t, exec (.matrixCmdComplete quad idx) s = .next t ∧ retired s t quad c ∧
    onlyScores s t quad c ∧ (quadOf t quad).acc = (quadOf s quad).acc) ∧
  (∀ s quad idx c, (quadOf s quad).queue[idx]? = some c → c.begun = false → blockStopped s quad c = false →
    (∀ p ∈ (quadOf s quad).queue.take idx, holdsBack p c = false) → ∃ t, exec (.matrixCmdBegin quad idx) s = .next t ∧
      t = { s with quads := t.quads } ∧ (∃ d ∈ (quadOf t quad).queue, d = { c with begun := true }) ∧
      (quadOf t quad).queue.length = (quadOf s quad).queue.length)

/-- R143, R157, R158, R262, R263: a drain that has begun writes, row by row, the code of each element, rounded once in the descriptor's mode from the
element times the scale, to the address that its layout gives, in the shadow half bound at acceptance; of bytes written twice
the later stay; with clear the drained elements become +0, and no other element of the accumulators changes. In a leg that logs,
each sector that it is the first to write in the lap is logged; where an undo area has no room for a row, the command stays in the
queue. No other byte of scratch differs but those records, and nothing else of the package but the queue and the scoreboards. -/
def Sys2Proof.Says.DrainWritesItsRows : Prop :=
  ∀ s quad idx c, completable s quad idx c → c.kind = .mdrain → c.step = 0 → descField c 64 8 ≤ 127 → descField c 72 8 ≤ 127 →
    (∀ k, k < 4 → undoActive s .tile (quadCore s quad k) = true → ∀ o ∈ drainBytes c k, o < 0xF0000) →
    let fs (k : Nat) : List Nat := firstWritten s .tile (quadCore s quad k) (drainBytes c k)
    ((∃ k, k < 4 ∧ undoStalls (quadCore s quad k) (fs k)) → ∃ t, exec (.matrixCmdComplete quad idx) s = .next t ∧
      ∃ d ∈ (quadOf t quad).queue, d.serial = c.serial) ∧
    ((∀ k, k < 4 → ¬ undoStalls (quadCore s quad k) (fs k)) → ∃ t, exec (.matrixCmdComplete quad idx) s = .next t ∧ retired s t quad c ∧
      (∀ k, k < 4 → drainedInto s (quadCore s quad k) (quadCore t quad k) c (fs k) (drainBytes c k)) ∧
      (descField c 89 1 = 0 → (quadOf t quad).acc = (quadOf s quad).acc) ∧
      (descField c 89 1 = 1 → ∀ b i j, b < 2 → i < 128 → j < 128 → element (quadOf t quad) b i j =
        if b = descField c 80 1 ∧ i ≤ descField c 64 8 ∧ j ≤ descField c 72 8 then 0#32 else element (quadOf s quad) b i j) ∧
      (∀ i j b, i ≤ descField c 64 8 → j ≤ descField c 72 8 → b < drainSize c →
        (∀ i' j' b', i' ≤ descField c 64 8 → j' ≤ descField c 72 8 → b' < drainSize c →
          (drainPlace c i' 0).1 = (drainPlace c i 0).1 → drainByte c i' j' b' = drainByte c i j b → notAfter i' j' b' i j b) →
        (tget (quadCore t quad (drainPlace c i 0).1).scratch 0#8 (drainByte c i j b)).toNat =
          drainValue c (element (quadOf s quad) (descField c 80 1) i j).toNat / 2 ^ (8 * b) % 2 ^ 8))

/-- R160, R156: MLEASE of a holder completes, and of another core leaves it waiting, frozen; MREL of a holder frees the lease and of a waiting
core takes it out of the wait; a free lease goes to the first waiting core in the order after the last holder, whose run starts at 0
with its lease_run as limit; MWAIT completes when no command of its core is in the queue. -/
def Sys2Proof.Says.LeaseAndMwait : Prop :=
  (∀ s m, s.cur = .tile m →
    (leaseOf (quadRec s m) (tileInQuad m) = .holding → Completes .mlease s (own s)) ∧
    (leaseOf (quadRec s m) (tileInQuad m) ≠ .holding → ∃ t, exec .mlease s = .next t ∧ leaseOf (quadRec t m) (tileInQuad m) = .waiting ∧
      (coreOf t s.cur).wait = .mlease ∧ (coreOf t s.cur).pc = (own s).pc ∧ t = { s with cores := t.cores, quads := t.quads } ∧
      ∀ i, i ≠ tileInQuad m → leaseOf (quadRec t m) i = leaseOf (quadRec s m) i) ∧
    (∃ t, exec .mrel s = .next t ∧ leaseOf (quadRec t m) (tileInQuad m) = .none ∧
      ((leaseOf (quadRec s m) (tileInQuad m) = .holding → (quadRec t m).held = false) ∧
       (leaseOf (quadRec s m) (tileInQuad m) ≠ .holding → (quadRec t m).held = (quadRec s m).held)) ∧
      coreOf t s.cur = retire (own s) ∧ t = { s with cores := t.cores, quads := t.quads }) ∧
    ((∀ c ∈ (quadRec s m).queue, c.issuer ≠ tileInQuad m) → Completes .mwait s (own s)) ∧
    ((∃ c ∈ (quadRec s m).queue, c.issuer = tileInQuad m) → keepsTrying .mwait s .mwait)) ∧
  (∀ s quad, (quadOf s quad).held = false →
    (∀ k, 1 ≤ k → k ≤ 4 → leaseOf (quadOf s quad) (((quadOf s quad).holder + k) % 4) = .waiting →
      (∀ j, 1 ≤ j → j < k → leaseOf (quadOf s quad) (((quadOf s quad).holder + j) % 4) ≠ .waiting) →
      ∃ t, exec (.leaseGrant quad) s = .next t ∧ (quadOf t quad).holder = ((quadOf s quad).holder + k) % 4 ∧ (quadOf t quad).held = true ∧
        (quadOf t quad).run = 0 ∧ leaseOf (quadOf t quad) (((quadOf s quad).holder + k) % 4) = .holding ∧
        (quadOf t quad).runLimit = (coreOf s (.tile (quadTile quad (((quadOf s quad).holder + k) % 4)))).leaseRun ∧
        t = { s with quads := t.quads })) ∧
  (∀ s quad, (quadOf s quad).held = true → exec (.leaseGrant quad) s = .next s)

/-- The lease, and matrix commands at their issue. -/
def Obligations.MatrixAcceptance : Prop := Says.LeaseAndMwait ∧ Says.MatrixCommandsAreAccepted ∧ Says.MmaDescriptorChecks

/-- Matrix commands in the block. -/
def Obligations.MatrixCompletion : Prop := Says.MatrixCommandsComplete ∧ Says.DrainWritesItsRows
/-! ### The vector family -/

namespace Sys2Proof.Says

/-- A vector instruction that works element by element: its sources, governing predicate and destination, the widths of a source and of a result element,
how many results it makes, its latency, and the code of a result for the codes of its sources. -/
structure Elementwise where
  srcs : List Reg
  pred : PReg
  dest : Reg
  ws : Nat
  wr : Nat
  n : Nat
  latency : Nat
  f : List Nat → Nat

/-- The value of a code in the signedness of an integer type (R49). -/
def intOf (t : VType) (x : Nat) : Int := if vSigned t ∧ 2 ^ (vWidth t - 1) ≤ x then (x : Int) - 2 ^ vWidth t else x

/-- The code of an exact value modulo the width of a type (R418). -/
def codeOf (t : VType) (v : Int) : Nat := (v % 2 ^ vWidth t).toNat

/-- The nearest value of the type's range (R141). -/
def clamped (t : VType) (v : Int) : Int :=
  if vSigned t then max (-(2 ^ (vWidth t - 1))) (min (2 ^ (vWidth t - 1) - 1) v) else max 0 (min (2 ^ vWidth t - 1) v)

/-- Integer form with two sources. -/
def intTwo (t : VType) (p : PReg) (d a b : Reg) (L : Nat) (g : Nat → Nat → Nat) : Elementwise :=
  ⟨[a, b], p, d, vWidth t, vWidth t, 1024 / vWidth t, L, fun l => match l with
    | [x, y] => g x y
    | _ => 0⟩

/-- Form with one source. -/
def oneCode (ws wr n L : Nat) (p : PReg) (d a : Reg) (g : Nat → Nat) : Elementwise :=
  ⟨[a], p, d, ws, wr, n, L, fun l => match l with
    | [x] => g x
    | _ => 0⟩

/-- The VINT forms and VSEL, written with numbers (R86, R141, R418, R425). -/
def vectorInteger (i : Instr) : Option Elementwise :=
  match i with
  | .vadd t p d a b => some (intTwo t p d a b 2 fun x y => (x + y) % 2 ^ vWidth t)
  | .vsub t p d a b => some (intTwo t p d a b 2 fun x y => (x + 2 ^ vWidth t - y) % 2 ^ vWidth t)
  | .vmul t p d a b => some (intTwo t p d a b 4 fun x y => x * y % 2 ^ vWidth t)
  | .vmin t p d a b => some (intTwo t p d a b 2 fun x y => if intOf t y < intOf t x then y else x)
  | .vmax t p d a b => some (intTwo t p d a b 2 fun x y => if intOf t x < intOf t y then y else x)
  | .vand t p d a b => some (intTwo t p d a b 2 fun x y => x &&& y)
  | .vor t p d a b => some (intTwo t p d a b 2 fun x y => x ||| y)
  | .vxor t p d a b => some (intTwo t p d a b 2 fun x y => x ^^^ y)
  | .vshl t p d a b => some (intTwo t p d a b 2 fun x y => x * 2 ^ (y % vWidth t) % 2 ^ vWidth t)
  | .vshr t p d a b => some (intTwo t p d a b 2 fun x y => x / 2 ^ (y % vWidth t))
  | .vsra t p d a b => some (intTwo t p d a b 2 fun x y =>
      if x < 2 ^ (vWidth t - 1) then x / 2 ^ (y % vWidth t)
      else x / 2 ^ (y % vWidth t) + (2 ^ vWidth t - 2 ^ (vWidth t - y % vWidth t)))
  | .vabs t p d a => some (oneCode (vWidth t) (vWidth t) (1024 / vWidth t) 2 p d a fun x =>
      if intOf t x < 0 then 2 ^ vWidth t - x else x)
  | .vneg t p d a => some (oneCode (vWidth t) (vWidth t) (1024 / vWidth t) 2 p d a fun x => (2 ^ vWidth t - x) % 2 ^ vWidth t)
  | .vadds t p d a b => some (intTwo t p d a b 2 fun x y => codeOf t (clamped t (intOf t x + intOf t y)))
  | .vsubs t p d a b => some (intTwo t p d a b 2 fun x y => codeOf t (clamped t (intOf t x - intOf t y)))
  | .vsel sz p d a => some (oneCode (8 * 2 ^ sz.toNat) (8 * 2 ^ sz.toNat) (128 / 2 ^ sz.toNat) 2 p d a fun x => x)
  | _ => none

/-- The element format of a floating type (R86). -/
abbrev fmt (t : FType) : Fmt :=
  match t with
  | .bf16 => bf16
  | .f32 => fp32

/-- Floating form whose result is the exact value of its sources' values, rounded once to nearest even (R130, R134, R135). -/
def rounded (F : Fmt) (p : PReg) (d : Reg) (srcs : List Reg) (L : Nat) (g : List FVal → FVal) : Elementwise :=
  ⟨srcs, p, d, F.n, F.n, 1024 / F.n, L, fun l => roundF F .rne false (g (l.map (decodeF F)))⟩

/-- An exact function of a number of sources. -/
def on1 (g : FVal → FVal) (l : List FVal) : FVal :=
  match l with
  | [x] => g x
  | _ => .nan
/-- An exact function of two. -/
def on2 (g : FVal → FVal → FVal) (l : List FVal) : FVal :=
  match l with
  | [x, y] => g x y
  | _ => .nan
/-- An exact function of three. -/
def on3 (g : FVal → FVal → FVal → FVal) (l : List FVal) : FVal :=
  match l with
  | [x, y, z] => g x y z
  | _ => .nan

/-- A floating form of two codes. -/
def codeTwo (F : Fmt) (p : PReg) (d a b : Reg) (g : Nat → Nat → Nat) : Elementwise :=
  ⟨[a, b], p, d, F.n, F.n, 1024 / F.n, 4, fun l => match l with
    | [x, y] => g x y
    | _ => 0⟩

/-- The VFLT and VFMA forms (R134, R135, R422, R423): VFABS clears the top bit of a code, VFNEG inverts it. -/
def vectorFloat (i : Instr) : Option Elementwise :=
  match i with
  | .vfadd t p d a b => some (rounded (fmt t) p d [a, b] 4 (on2 fun x y => x.add y))
  | .vfsub t p d a b => some (rounded (fmt t) p d [a, b] 4 (on2 fun x y => x.add y.negate))
  | .vfmul t p d a b => some (rounded (fmt t) p d [a, b] 4 (on2 fun x y => x.mul y))
  | .vfmin t p d a b => some (codeTwo (fmt t) p d a b (extremum (fmt t) false))
  | .vfmax t p d a b => some (codeTwo (fmt t) p d a b (extremum (fmt t) true))
  | .vfabs t p d a => some (oneCode (fmt t).n (fmt t).n (1024 / (fmt t).n) 4 p d a fun x => x % 2 ^ ((fmt t).n - 1))
  | .vfneg t p d a => some (oneCode (fmt t).n (fmt t).n (1024 / (fmt t).n) 4 p d a fun x =>
      if x < 2 ^ ((fmt t).n - 1) then x + 2 ^ ((fmt t).n - 1) else x - 2 ^ ((fmt t).n - 1))
  | .vfexp2 t p d a => some (rounded (fmt t) p d [a] 6 (on1 exp2Val))
  | .vflog2 t p d a => some (rounded (fmt t) p d [a] 6 (on1 log2Val))
  | .vfrcp t p d a => some (rounded (fmt t) p d [a] 6 (on1 recipVal))
  | .vfrsq t p d a => some (rounded (fmt t) p d [a] 6 (on1 rsqrtVal))
  | .vfmaF32 p d a b c => some (rounded fp32 p d [a, b, c] 6 (on3 fun x y z => (x.mul y).add z))
  | .vfmaBf16 p d a b c => some (rounded bf16 p d [a, b, c] 6 (on3 fun x y z => (x.mul y).add z))
  | .vfmsF32 p d a b c => some (rounded fp32 p d [a, b, c] 6 (on3 fun x y z => (x.mul y).add z.negate))
  | .vfmsBf16 p d a b c => some (rounded bf16 p d [a, b, c] 6 (on3 fun x y z => (x.mul y).add z.negate))
  | _ => none

/-- A conversion between floating formats: one rounding of the exact value, +0 for a NaN with .Z (R136, R137). -/
def floatRoute (S D : Fmt) (n : Nat) (rnd : Rnd) (sat z : Bool) (p : PReg) (d a : Reg) : Elementwise :=
  oneCode S.n D.n n 4 p d a fun x =>
    let v := roundF D rnd sat (decodeF S x)
    if z = true ∧ decodeF D v = .nan then 0 else v

/-- Routes 8 and 10: a value converted to a 32-bit integer between lo and hi (R138): NaN gives 0; an infinity gives a bound with .S and
0 without; a finite value is rounded, then clamped with .S and taken modulo 2^32 without. -/
def toInteger (rtz sat : Bool) (lo hi : Int) (x : Nat) : Nat :=
  let mode : Rnd := if rtz then .rtz else .rne
  match decodeF fp32 x with
  | .nan => 0
  | .inf neg => if sat then ((if neg then lo else hi) % 2 ^ 32).toNat else 0
  | .fin neg m e => ((if sat then max lo (min hi (roundInt mode neg m e)) else roundInt mode neg m e) % 2 ^ 32).toNat

/-- The VCVT routes 0 to 13 (R88, R136 to R139, R420). -/
def vectorConvert (i : Instr) : Option Elementwise :=
  match i with
  | .vcvtF32Bf16 rnd sat z p d a => some (floatRoute fp32 bf16 32 rnd sat z p d a)
  | .vcvtBf16F32 z p d a => some (oneCode 16 32 32 4 p d a fun x => if z = true ∧ decodeF fp32 (x * 65536) = .nan then 0 else x * 65536)
  | .vcvtF32E4m3 rnd sat z p d a => some (floatRoute fp32 e4m3 32 rnd sat z p d a)
  | .vcvtF32E5m2 rnd sat z p d a => some (floatRoute fp32 e5m2 32 rnd sat z p d a)
  | .vcvtBf16E4m3 rnd sat z p d a => some (floatRoute bf16 e4m3 64 rnd sat z p d a)
  | .vcvtBf16E5m2 rnd sat z p d a => some (floatRoute bf16 e5m2 64 rnd sat z p d a)
  | .vcvtE4m3Bf16 z p d a => some (floatRoute e4m3 bf16 64 .rne false z p d a)
  | .vcvtE5m2Bf16 z p d a => some (floatRoute e5m2 bf16 64 .rne false z p d a)
  | .vcvtF32S32 rtz sat _ p d a => some (oneCode 32 32 32 4 p d a (toInteger rtz sat (-(2 ^ 31)) (2 ^ 31 - 1)))
  | .vcvtF32N32 rtz sat _ p d a => some (oneCode 32 32 32 4 p d a (toInteger rtz sat 0 (2 ^ 32 - 1)))
  | .vcvtS32F32 rnd _ p d a => some (oneCode 32 32 32 4 p d a fun x => roundF fp32 rnd false (intVal (intOf .s32 x)))
  | .vcvtN32F32 rnd _ p d a => some (oneCode 32 32 32 4 p d a fun x => roundF fp32 rnd false (intVal x))
  | .vcvtS32S16 sat p d a => some (oneCode 32 16 32 4 p d a fun x => if sat then codeOf .s16 (clamped .s16 (intOf .s32 x)) else x % 2 ^ 16)
  | .vcvtS16S8 sat p d a => some (oneCode 16 8 64 4 p d a fun x => if sat then codeOf .s8 (clamped .s8 (intOf .s16 x)) else x % 2 ^ 8)
  | _ => none

/-- Vector sources read in field order. -/
def readVs (k : CoreKind) (c : Core) (rs : List Reg) : Except Wait (List VWord × Core) :=
  match rs with
  | [] => .ok ([], c)
  | r :: q =>
    match readV k c r with
    | .error w => .error w
    | .ok (x, c1) =>
      match readVs k c1 q with
      | .error w => .error w
      | .ok (xs, c2) => .ok (x :: xs, c2)

/-- Element j of width w of a vector (R4). -/
def lane (v : VWord) (w j : Nat) : Nat := v.toNat / 2 ^ (w * j) % 2 ^ w

/-- The instruction completes with one result in flight, due after L landing phases (R95): of n elements of width w those that p enables land with the codes
r, and the bits above them land as zeros; a result for a port with no element enabled is no push, and nothing goes in flight (R99). -/
def Flies (i : Instr) (s : State) (c : Core) (p : PWord) (d : Reg) (L w n : Nat) (r : Nat → Nat) : Prop :=
  (isPort (kind s) d = true ∧ (∀ j, j < n → p.getLsbD j = false) → Completes i s c) ∧
  (¬ (isPort (kind s) d = true ∧ ∀ j, j < n → p.getLsbD j = false) →
    ∃ l : Landing, Completes i s { c with inflight := c.inflight ++ [l] } ∧ l.kind = .v ∧ l.reg = d.toNat ∧ l.remaining = L ∧ l.enable = p ∧
      (∀ j b, j < n → b < w → l.mask.getLsbD (w * j + b) = p.getLsbD j ∧ l.value.getLsbD (w * j + b) = (r j).testBit b) ∧
      (∀ o, w * n ≤ o → o < 1024 → l.mask.getLsbD o = true ∧ l.value.getLsbD o = false))

/-- A result that lands whole: v in a vector, predicate or scalar register, due after L landing phases. -/
def FliesWhole (i : Instr) (s : State) (c : Core) (k : LandKind) (d L : Nat) (v : VWord) : Prop :=
  ∃ l : Landing, Completes i s { c with inflight := c.inflight ++ [l] } ∧ l.kind = k ∧ l.reg = d ∧ l.remaining = L ∧ l.value = v ∧
    l.mask = BitVec.allOnes 1024

/-- A family of element-by-element forms completes as its table says, once its ports have their words. -/
def elementwiseResults (table : Instr → Option Elementwise) : Prop :=
  ∀ i e, table i = some e → ∀ s vs c1, readVs (kind s) (own s) e.srcs = .ok (vs, c1) →
    Flies i s c1 (readP (own s) e.pred) e.dest e.latency e.wr e.n fun j => e.f (vs.map fun v => lane v e.ws j)

/-- The bit of VCMP for two codes (R87, R419): with a NaN operand only NE holds; −0 equals +0. -/
def cmpBit (cond : VCond) (t : CType) (x y : Nat) : Bool :=
  let holds (eq lt : Bool) : Bool :=
    match cond with
    | .eq => eq
    | .ne => !eq
    | .lt => lt
    | .le => lt || eq
    | .gt => !(lt || eq)
    | .ge => !lt
  match t with
  | .int k => holds (decide (intOf k x = intOf k y)) (decide (intOf k x < intOf k y))
  | .flt k =>
    if decodeF (fmt k) x = .nan ∨ decodeF (fmt k) y = .nan then decide (cond = .ne)
    else holds ((decodeF (fmt k) x).numEq (decodeF (fmt k) y)) ((decodeF (fmt k) x).numLt (decodeF (fmt k) y))

/-- The element width of a compare. -/
def cmpWidth (t : CType) : Nat :=
  match t with
  | .int k => vWidth k
  | .flt k => (fmt k).n

/-- The balanced tree over 32 terms (R144): neighbours first. -/
def treeOf (f : Nat → Nat → Nat) (r : Nat → Nat) : Nat :=
  let l1 (i : Nat) := f (r (2 * i)) (r (2 * i + 1))
  let l2 (i : Nat) := f (l1 (2 * i)) (l1 (2 * i + 1))
  let l3 (i : Nat) := f (l2 (2 * i)) (l2 (2 * i + 1))
  let l4 (i : Nat) := f (l3 (2 * i)) (l3 (2 * i + 1))
  f (l4 0) (l4 1)

/-- Vector source, predicate, destination, operation and identity of the reductions (R144, R421). -/
def reduction (i : Instr) : Option (PReg × Reg × Reg × (Nat → Nat → Nat) × Nat) :=
  match i with
  | .vradd p d a => some (p, d, a, addF32, 0)
  | .vrmax p d a => some (p, d, a, extremum fp32 true, 0xFF800000)
  | .vrmin p d a => some (p, d, a, extremum fp32 false, 0x7F800000)
  | _ => none

/-- A vector access of n bytes at scratch offset o is refused: ALIGN where o is no multiple of n, otherwise BOUNDARY where the core may not reach it (R96, R262). -/
def vectorRefused (i : Instr) (s : State) (c : Core) (o n : Nat) : Prop :=
  (o % n ≠ 0 → Raises i s .align (BitVec.ofNat 64 o)) ∧
  (o % n = 0 → localBound s (kind s) c o n ≠ none → Raises i s .boundary (BitVec.ofNat 64 o))

end Sys2Proof.Says

/-- R86, R141, R418, R425, R95, R97: the VINT forms and VSEL complete with, in each enabled element, the value of their table, landing after 2 tc and for VMUL
after 4; disabled elements stay; a port takes no push when no element is enabled. -/
def Sys2Proof.Says.VectorIntegerResults : Prop := elementwiseResults vectorInteger

/-- R134, R135, R422, R423, R95: the VFLT and VFMA forms complete with, in each enabled element, the exact result rounded once to nearest even, or the code that
VFMIN, VFMAX, VFABS and VFNEG give, after 4 tc, the transcendental and fused forms after 6. -/
def Sys2Proof.Says.VectorFloatResults : Prop := elementwiseResults vectorFloat

/-- R88, R136 to R140, R420: the VCVT routes complete after 4 tc with each enabled element converted and the bits above the results zero; route 14 multiplies each
4-bit element of va by the scale of its group of 32, which stands in byte 0 to 3 of vb, and rounds once. -/
def Sys2Proof.Says.VectorConversionResults : Prop :=
  elementwiseResults vectorConvert ∧
  ∀ rnd sat z p d a b s x y c1, readVs (kind s) (own s) [a, b] = .ok ([x, y], c1) →
    Flies (.vcvtE2m1E4m3 rnd sat z p d a b) s c1 (readP (own s) p) d 4 8 128 fun j =>
      let v := roundF e4m3 rnd sat ((decodeF e2m1 (lane x 4 j)).mul (decodeE8M0 (lane y 8 (j / 32))))
      if z = true ∧ decodeF e4m3 v = .nan then 0 else v

/-- R144, R419, R421, R424, R425, R397, R98: compares, reductions, moves and the predicate forms complete with their result in flight: VCMP a predicate with zeros
beyond its elements, VRADD, VRMAX, VRMIN and VDOT the tree's value in element 0 and zeros elsewhere after 6 tc, VSPLAT, VIOTA, VINS, VSHUF, VROT their elements,
VMOVX, PCNT and PFIRST a scalar after 2 tc. -/
def Sys2Proof.Says.VectorMovesAndPredicates : Prop :=
  (∀ cond t p d a b s x y c1, readVs (kind s) (own s) [a, b] = .ok ([x, y], c1) → ∃ v : PWord,
    FliesWhole (.vcmp cond t p d a b) s c1 .p d.toNat 2 (v.setWidth 1024) ∧
    ∀ j, j < 128 → v.getLsbD j = (decide (j < 1024 / cmpWidth t) && (readP (own s) p).getLsbD j &&
      cmpBit cond t (lane x (cmpWidth t) j) (lane y (cmpWidth t) j))) ∧
  (∀ i p d a f ident, reduction i = some (p, d, a, f, ident) → ∀ s x c1, readV (kind s) (own s) a = .ok (x, c1) →
    FliesWhole i s c1 .v d.toNat 6
      (BitVec.ofNat 1024 (treeOf f (fun j => if (readP (own s) p).getLsbD j then lane x 32 j else ident) % 2 ^ 32))) ∧
  (∀ p d a b s x y c1, readVs (kind s) (own s) [a, b] = .ok ([x, y], c1) →
    let term (j : Nat) : FVal := if (readP (own s) p).getLsbD j then (decodeF bf16 (lane x 16 j)).mul (decodeF bf16 (lane y 16 j)) else .fin false 0 0
    FliesWhole (.vdot p d a b) s c1 .v d.toNat 6
      (BitVec.ofNat 1024 (treeOf addF32 (fun j => f32 ((term (2 * j)).add (term (2 * j + 1)))) % 2 ^ 32))) ∧
  (∀ sz d a s x c1, Unlocked (kind s) (own s) [a] [] → readX (kind s) (own s) a = .ok (x, c1) → ∃ v,
    FliesWhole (.vsplat sz d a) s c1 .v d.toNat 2 v ∧
    ∀ j, j < 128 / 2 ^ sz.toNat → lane v (8 * 2 ^ sz.toNat) j = x.toNat % 2 ^ (8 * 2 ^ sz.toNat)) ∧
  (∀ sz d s, ∃ v, FliesWhole (.viota sz d) s (own s) .v d.toNat 2 v ∧ ∀ j, j < 128 / 2 ^ sz.toNat → lane v (8 * 2 ^ sz.toNat) j = j) ∧
  (∀ sz d a b s x y c1 c2, Unlocked (kind s) (own s) [b] [d] → readV (kind s) (own s) a = .ok (x, c1) → readX (kind s) c1 b = .ok (y, c2) →
    FliesWhole (.vmovx sz d a b) s c2 .x d.toNat 2 (BitVec.ofNat 1024 (lane x (8 * 2 ^ sz.toNat) (y.toNat % (128 / 2 ^ sz.toNat))))) ∧
  (∀ sz d a b s x y c1 c2, Unlocked (kind s) (own s) [a, b] [] → readX (kind s) (own s) a = .ok (x, c1) → readX (kind s) c1 b = .ok (y, c2) →
    ∃ l : Landing, Completes (.vins sz d a b) s { c2 with inflight := c2.inflight ++ [l] } ∧ l.kind = .v ∧ l.reg = d.toNat ∧ l.remaining = 2 ∧
      ∀ j k, j < 128 / 2 ^ sz.toNat → k < 8 * 2 ^ sz.toNat →
        l.mask.getLsbD (8 * 2 ^ sz.toNat * j + k) = decide (j = y.toNat % (128 / 2 ^ sz.toNat)) ∧
        (j = y.toNat % (128 / 2 ^ sz.toNat) → l.value.getLsbD (8 * 2 ^ sz.toNat * j + k) = x.getLsbD k)) ∧
  (∀ p d a b s x y c1, readVs (kind s) (own s) [a, b] = .ok ([x, y], c1) →
    Flies (.vshuf p d a b) s c1 (readP (own s) p) d 4 8 128 fun j => lane x 8 (lane y 8 j % 128)) ∧
  (∀ p d a b s x y c1 c2, Unlocked (kind s) (own s) [b] [] → readV (kind s) (own s) a = .ok (x, c1) → readX (kind s) c1 b = .ok (y, c2) →
    Flies (.vrot p d a b) s c2 (readP (own s) p) d 4 8 128 fun j => lane x 8 ((j + y.toNat) % 128)) ∧
  (∀ (d a b : PReg) s, FliesWhole (.pand d a b) s (own s) .p d.toNat 2 ((readP (own s) a &&& readP (own s) b).setWidth 1024) ∧
    FliesWhole (.por d a b) s (own s) .p d.toNat 2 ((readP (own s) a ||| readP (own s) b).setWidth 1024) ∧
    FliesWhole (.pxor d a b) s (own s) .p d.toNat 2 ((readP (own s) a ^^^ readP (own s) b).setWidth 1024) ∧
    FliesWhole (.pnot d a) s (own s) .p d.toNat 2 ((~~~ readP (own s) a).setWidth 1024)) ∧
  (∀ d (a : PReg) s, isPort (kind s) d = true ∨ scalarBusy (own s) d = false →
    FliesWhole (.pcnt d a) s (own s) .x d.toNat 2
      (BitVec.ofNat 1024 ((List.range 128).filter fun j => (readP (own s) a).getLsbD j).length) ∧
    (∀ n, n ≤ 128 → (∀ j, j < n → (readP (own s) a).getLsbD j = false) → (n < 128 → (readP (own s) a).getLsbD n = true) →
      FliesWhole (.pfirst d a) s (own s) .x d.toNat 2 (BitVec.ofNat 1024 n))) ∧
  (∀ (d : PReg) a s x c1, Unlocked (kind s) (own s) [a] [] → readX (kind s) (own s) a = .ok (x, c1) →
    ∃ v : PWord, FliesWhole (.pset d a) s c1 .p d.toNat 2 (v.setWidth 1024) ∧ ∀ j, j < 128 → v.getLsbD j = decide (j < x.toNat))

/-- R96, R100, R176, R262, R426 to R428: VLD, VST, VLDB, VLDX and VSTX. A misaligned offset, of VLDX and VSTX that of the first enabled element with one, raises
ALIGN, and one in the undo area of a leg with laps or beyond the scratch BOUNDARY; a load reads the visible halves in its issue tc, consumes an error in them, and lands after 4 tc, VLDX
after 6; a store writes the bytes of its enabled elements, of a repeated offset the highest element's, and no other byte. R263: in a leg that logs, VST and VSTX
log each sector that they are the first to write in the lap, all of them or, where the area is to be spilled first, none and UNDO_FULL names the first. -/
def Sys2Proof.Says.VectorScratchAccesses : Prop :=
  (∀ d a (imm : BitVec 13) s x c1, Unlocked (kind s) (own s) [a] [] → readX (kind s) (own s) a = .ok (x, c1) →
    let o := (((x.toNat : Int) + 128 * imm.toInt) % 2 ^ 20).toNat
    vectorRefused (.vld d a imm) s c1 o 128 ∧
    (o % 128 = 0 → localBound s (kind s) c1 o 128 = none → scoreConflict c1.score (boundRanges c1.bufs (fun b => b.vis) o 128) [] = false →
      c1.errInject.getLsbD 0 = false → ∃ v, FliesWhole (.vld d a imm) s { c1 with pend := c1.pend ++ scratchUE c1 (seen c1 o 128) } .v d.toNat 4 v ∧
      ∀ j, j < 128 → lane v 8 j = (tget c1.scratch 0#8 (visible c1.bufs (o + j))).toNat)) ∧
  (∀ d a s x c1, Unlocked (kind s) (own s) [a] [] → readX (kind s) (own s) a = .ok (x, c1) → let o := x.toNat % 2 ^ 20
    vectorRefused (.vldb d a) s c1 o 4 ∧
    (o % 4 = 0 → localBound s (kind s) c1 o 4 = none → scoreConflict c1.score (boundRanges c1.bufs (fun b => b.vis) o 4) [] = false →
      c1.errInject.getLsbD 0 = false → ∃ v, FliesWhole (.vldb d a) s { c1 with pend := c1.pend ++ scratchUE c1 (seen c1 o 4) } .v d.toNat 4 v ∧
      ∀ j, j < 128 → lane v 8 j = (tget c1.scratch 0#8 (visible c1.bufs (o + j % 4))).toNat)) ∧
  (∀ src a (imm : BitVec 14) s x v c1 c2, Unlocked (kind s) (own s) [a] [] → readV (kind s) (own s) src = .ok (v, c1) →
    readX (kind s) c1 a = .ok (x, c2) → let o := (((x.toNat : Int) + 128 * imm.toInt) % 2 ^ 20).toNat
    vectorRefused (.vst src a imm) s c2 o 128 ∧
    (o % 128 = 0 → localBound s (kind s) c2 o 128 = none →
      scoreConflict c2.score [] (rangesOf (seen c2 o 128)) = false → let fs := firstWritten s (kind s) c2 (seen c2 o 128)
      (noUndoRoom c2 fs → Raises (.vst src a imm) s .undoFull (BitVec.ofNat 64 (32 * fs.headD 0))) ∧
      (¬ noUndoRoom c2 fs → ∃ c3, Completes (.vst src a imm) s c3 ∧ scratchStored s c2 c3 fs (seen c2 o 128) (0xE000 ≤ c2.undoFill) ∧
        ((∀ j k, j < 128 → k < 128 → visible c2.bufs (o + j) = visible c2.bufs (o + k) → j = k) →
          ∀ j, j < 128 → (tget c3.scratch 0#8 (visible c2.bufs (o + j))).toNat = lane v 8 j)))) ∧
  (∀ p d a b s v x c1 c2, Unlocked (kind s) (own s) [b] [] → readV (kind s) (own s) a = .ok (v, c1) → readX (kind s) c1 b = .ok (x, c2) →
    let o (j : Nat) := (x.toNat + lane v 32 j) % 2 ^ 20; let on (j : Nat) := j < 32 ∧ (readP (own s) p).getLsbD j = true
    let good (j : Nat) := o j % 4 = 0 ∧ localBound s (kind s) c2 (o j) 4 = none
    (∀ j, on j → (∀ i, on i → i < j → good i) → vectorRefused (.vldx p d a b) s c2 (o j) 4) ∧
    ((∀ j, on j → good j ∧ scoreConflict c2.score (boundRanges c2.bufs (fun b => b.vis) (o j) 4) [] = false) → c2.errInject.getLsbD 0 = false →
      let bytes := ((List.range 32).filter fun j => (readP (own s) p).getLsbD j).flatMap fun j => seen c2 (o j) 4
      ∃ r : Nat → Nat, Flies (.vldx p d a b) s { c2 with pend := c2.pend ++ scratchUE c2 bytes } (readP (own s) p) d 6 32 32 r ∧
        ∀ j k, on j → k < 4 → r j / 256 ^ k % 256 = (tget c2.scratch 0#8 (visible c2.bufs (o j + k))).toNat)) ∧
  (∀ p src a b s w v x c1 c2 c3, Unlocked (kind s) (own s) [b] [] → readV (kind s) (own s) src = .ok (w, c1) → readV (kind s) c1 a = .ok (v, c2) →
    readX (kind s) c2 b = .ok (x, c3) →
    let o (j : Nat) := (x.toNat + lane v 32 j) % 2 ^ 20; let on (j : Nat) := j < 32 ∧ (readP (own s) p).getLsbD j = true
    let good (j : Nat) := o j % 4 = 0 ∧ localBound s (kind s) c3 (o j) 4 = none
    (∀ j, on j → (∀ i, on i → i < j → good i) → vectorRefused (.vstx p src a b) s c3 (o j) 4) ∧
    (let ps := ((List.range 32).filter fun j => (readP (own s) p).getLsbD j).flatMap fun j => seen c3 (o j) 4
      let fs := firstWritten s (kind s) c3 ps
      (∀ j, on j → good j) → scoreConflict c3.score [] (rangesOf ps) = false →
      (noUndoRoom c3 fs → Raises (.vstx p src a b) s .undoFull (BitVec.ofNat 64 (32 * fs.headD 0))) ∧
      (¬ noUndoRoom c3 fs → ∃ c4, Completes (.vstx p src a b) s c4 ∧ scratchStored s c3 c4 fs ps (0xE000 ≤ c3.undoFill) ∧
        ((∀ i j k l, on i → on j → k < 4 → l < 4 → visible c3.bufs (o i + k) = visible c3.bufs (o j + l) → o i + k = o j + l) →
          ∀ j k, on j → k < 4 → (∀ i, on i → o i = o j → i ≤ j) →
            (tget c4.scratch 0#8 (visible c3.bufs (o j + k))).toNat = lane w 32 j / 256 ^ k % 256))))

/-- The frame of every vector form: whether it completes, waits or raises a cause, and of VST and VSTX the bytes of scratch apart, no register changes at its
issue, no accumulator, no byte of memory, nothing outside the core but what taking its cause does. -/
def Sys2Proof.Says.VectorFrame : Prop :=
  ∀ i s t, (vectorInteger i).isSome = true ∨ (vectorFloat i).isSome = true ∨ (vectorConvert i).isSome = true ∨ (reduction i).isSome = true ∨
      (∃ rnd sat z p d a b, i = .vcvtE2m1E4m3 rnd sat z p d a b) ∨ (∃ c ty p d a b, i = .vcmp c ty p d a b) ∨ (∃ p d a b, i = .vdot p d a b) ∨
      (∃ z d a, i = .vsplat z d a) ∨ (∃ z d, i = .viota z d) ∨ (∃ z d a b, i = .vmovx z d a b) ∨ (∃ z d a b, i = .vins z d a b) ∨
      (∃ p d a b, i = .vshuf p d a b) ∨ (∃ p d a b, i = .vrot p d a b) ∨ (∃ d a b, i = .pand d a b ∨ i = .por d a b ∨ i = .pxor d a b) ∨
      (∃ d a, i = .pnot d a) ∨ (∃ d a, i = .pcnt d a ∨ i = .pfirst d a) ∨ (∃ d a, i = .pset d a) ∨ (∃ d a m, i = .vld d a m) ∨
      (∃ d a, i = .vldb d a) ∨ (∃ p d a b, i = .vldx p d a b) ∨ (∃ r a m, i = .vst r a m) ∨ (∃ p r a b, i = .vstx p r a b) →
    exec i s = .next t → (∃ tr, t = takeCause s s.cur tr) ∨
    OnlyOwnCore s t ∧ ((∀ r a m, i ≠ .vst r a m) → (∀ p r a b, i ≠ .vstx p r a b) →
      (coreOf t s.cur).scratch = (own s).scratch ∧ (coreOf t s.cur).logged = (own s).logged ∧ (coreOf t s.cur).undoFill = (own s).undoFill) ∧
    ∃ e : Core, coreOf t s.cur =
      { own s with inflight := e.inflight, fifoA := e.fifoA, fifoB := e.fifoB, stirred := e.stirred, marks := e.marks,
                   undoRaised := e.undoRaised, errInject := e.errInject, pend := e.pend, pc := e.pc,
                   checker := e.checker, landing := e.landing, evalAt := e.evalAt, wait := e.wait, blocked := e.blocked,
                   pulled := e.pulled, taken := e.taken, replies := e.replies, scratch := e.scratch, logged := e.logged,
                   undoFill := e.undoFill }

/-- The elementwise vector forms. -/
def Obligations.VectorArithmetic : Prop := Says.VectorIntegerResults ∧ Says.VectorFloatResults ∧ Says.VectorConversionResults

/-- Vector moves, predicates and scratch accesses. -/
def Obligations.VectorMovesAndScratch : Prop := Says.VectorMovesAndPredicates ∧ Says.VectorScratchAccesses

/-- The frames of the access and the vector instructions. -/
def Obligations.AccessAndVectorFrames : Prop := Says.AccessFrame ∧ Says.VectorFrame
/-! ### Buffers, cursors, streams -/

namespace Sys2Proof.Says

/-- An outstanding entry reads or writes a byte of n bytes at o (R177). -/
def entryTouches (e : ScoreEntry) (o n : Nat) : Prop :=
  ∃ r, (r ∈ e.reads ∨ r ∈ e.write) ∧ ∃ b, r.start ≤ b ∧ b < r.start + r.len ∧ o ≤ b ∧ b < o + n

/-- The two halves of a buffer that is defined, as offset and length (R172). -/
def halves (b : Buffer) : List (Nat × Nat) :=
  if b.len = 0#20 then [] else [(b.half0.toNat, b.len.toNat), (b.half1.toNat, b.len.toNat)]

/-- Buffer k of a core. -/
def buffer (c : Core) (k : BitVec 3) : Buffer := c.bufs[k.toNat]

/-- The buffer that a descriptor defines (R172). -/
def bufferFrom (d : Nat) : Buffer :=
  { half0 := BitVec.ofNat 20 d, half1 := BitVec.ofNat 20 (d / 2 ^ 20), len := BitVec.ofNat 20 (d / 2 ^ 40), vis := d.testBit 60 }

/-- What LAPQ writes (R265, R377): lap id, bit 32 while a seal of the context is pending, the rollbacks of the lap in bits 40 to 47, at most 255; the lap id alone in a context without laps. -/
def lapqValue (s : State) (c : Core) : Word :=
  match ctxOf s c with
  | some x =>
    let t := contextOf s x
    if t.laps then BitVec.ofNat 64 (t.lapId.toNat + (if t.sealPending ∨ ∃ e ∈ s.gangs, e.2.ctx = x ∧ e.2.hurdleOn = true ∧ e.2.sealing = true then 2 ^ 32 else 0) +
      min t.rollbacks 255 * 2 ^ 40)
    else BitVec.ofNat 64 t.lapId.toNat
  | none => 0#64

/-- An outstanding entry touches something that EWAIT of n bytes at o waits for (R177): the bytes outside views, the visible halves, and both
halves of every buffer whose view the range touches. -/
def waitedFor (c : Core) (e : ScoreEntry) (o n : Nat) : Prop :=
  (∃ r ∈ boundRanges c.bufs (fun h => h.vis) o n, entryTouches e r.start r.len) ∨
  ∃ b ∈ c.bufs.toList, b.half0.toNat < o + n ∧ o < b.half0.toNat + b.len.toNat ∧ ∃ p ∈ halves b, entryTouches e p.1 p.2

/-- The shadow half of a buffer: half 1 while half 0 is visible (R172). -/
def shadowStart (b : Buffer) : Nat := if b.vis then b.half0.toNat else b.half1.toNat

/-- The buffer descriptor d is accepted for buffer k (R172): reserved bits 0; when it defines a buffer, halves and length multiples of 128, no half
overlapping another or a half of another buffer. -/
def bufferAccepted (c : Core) (k : BitVec 3) (d : Nat) : Prop :=
  let h0 := d % 2 ^ 20; let h1 := d / 2 ^ 20 % 2 ^ 20; let n := d / 2 ^ 40 % 2 ^ 20
  let apart (x y m : Nat) : Prop := x + n ≤ y ∨ y + m ≤ x
  d < 2 ^ 61 ∧ (n ≠ 0 → h0 % 128 = 0 ∧ h1 % 128 = 0 ∧ n % 128 = 0 ∧ apart h0 h1 n ∧
    ∀ j, j ≠ k → ∀ p ∈ halves (buffer c j), apart h0 p.1 p.2 ∧ apart h1 p.1 p.2)

/-- The stream descriptor at scratch offset o of a memory core. -/
def streamDesc (c : Core) (o : Nat) : BitVec 512 := BitVec.ofNat 512 (ofBytes (tgetList c.scratch 0#8 o 64))

/-- The stream that an accepted SRD or SWR starts. -/
def newStream (s : State) (c : Core) (swr : Bool) (d : BitVec 512) : Stream :=
  { desc := d, write := swr, order := nextOrder c, serial := s.writes }

/-- What the start of a writing stream does to the package: its number, and its place in the order of host-bound writes, or among the staged writes of a context
that runs laps (R266, R292). -/
def writeStarted (s : State) (c : Core) (x : Nat) (d : BitVec 512) : State :=
  let t := contextOf s x
  if t.laps then
    if sdHost s c d then
      setContext { s with writes := s.writes + 1 } x
        { t with stageFill := t.stageFill + sdTotal d,
                 stagedWrites := t.stagedWrites ++ [{ order := s.writes, base := t.stageFill, room := sdTotal d }] }
    else { s with writes := s.writes + 1 }
  else { s with writes := s.writes + 1, outQ := s.outQ ++ [{ ctx := x, serial := s.writes, ready := false }] }

/-- A stream can move its next word of n bytes from or to the page e at bytes va of its current run (R408): its core and gang run, its core has posted nothing before,
the run has begun with every page of it translated, the word lies within the run and within the page. -/
def movable (s : State) (k slot : Nat) (st : Stream) (ps : List Leaf) (e : Leaf) (va n : Nat) : Prop :=
  (∀ p ∈ s.net, p.src ≠ agentCode (.mem k)) ∧ streamOf s k slot = some st ∧ streamLive s k st = true ∧ runsOver st = false ∧ st.staged = [] ∧ sdWord st.desc = n ∧
  st.byte + n ≤ sdLen st.desc ∧ pageFor ps va = some e ∧ va % 2 ^ pageBits (leafSize e) + n ≤ 2 ^ pageBits (leafSize e) ∧
  ∃ base, st.run = some base ∧ uncovered st.pages base (sdLen st.desc) (st.pages.length + 1) = none ∧
    (sdCopy st.desc = true → uncovered st.dpages
      (BitVec.ofNat 64 base + (BitVec.ofNat 64 (sdDst st.desc) - BitVec.ofNat 64 (sdAddr st.desc)) : Word).toNat (sdLen st.desc) (st.dpages.length + 1) = none)

/-- A stream that has moved n more bytes of its run, at its next run where that was the rest. -/
def movedOn (st : Stream) (n : Nat) : Stream :=
  if st.byte + n = sdLen st.desc then nextRun { st with byte := st.byte + n } else { st with byte := st.byte + n }

end Sys2Proof.Says

/-- R172, R173, R177, R342, R355, R398: BUFDEF defines its buffer from the descriptor, or raises ILLEGAL; PUBLISH swaps visible and shadow half, raises ILLEGAL on a buffer
that is not defined, and waits while an outstanding command writes the shadow half; EWAIT completes when no outstanding entry touches its range or a half of a buffer whose view it touches, with
length 0 when there is none, and raises BOUNDARY where its range ends above the scratch; LAPQ writes lap id, pending seal and rollbacks; from when
on a seal counts as pending is the model's reading (log entry 97). -/
def Sys2Proof.Says.BufferResults : Prop :=
  (∀ k a s x c1 d, Unlocked (kind s) (own s) [a] [] → readX (kind s) (own s) a = .ok (x, c1) → descriptorAt s c1 x 16 d →
    (¬ bufferAccepted c1 k d → Raises (.bufdef k a) s .illegal 0#64) ∧
    (bufferAccepted c1 k d → (d / 2 ^ 40 % 2 ^ 20 ≠ 0 → d % 2 ^ 20 + d / 2 ^ 40 % 2 ^ 20 ≤ 2 ^ 20 ∧ d / 2 ^ 20 % 2 ^ 20 + d / 2 ^ 40 % 2 ^ 20 ≤ 2 ^ 20) →
      (∀ e ∈ c1.score, ∀ p ∈ halves (buffer c1 k) ++ halves (bufferFrom d), ¬ entryTouches e p.1 p.2) →
      Completes (.bufdef k a) s { c1 with bufs := c1.bufs.set k.toNat (bufferFrom d),
                                          pend := c1.pend ++ scratchUE c1 (seen c1 (x.toNat % 2 ^ 20) 16) })) ∧
  (∀ k s, let b := buffer (own s) k
    (b.len = 0#20 → Raises (.publish k) s .illegal 0#64) ∧
    (b.len ≠ 0#20 → (∀ e ∈ (own s).score, ¬ entryTouches { e with reads := [] } (shadowStart b) b.len.toNat) →
      Completes (.publish k) s { own s with bufs := (own s).bufs.set k.toNat { b with vis := !b.vis } }) ∧
    (b.len ≠ 0#20 → (∃ e ∈ (own s).score, entryTouches { e with reads := [] } (shadowStart b) b.len.toNat) →
      exec (.publish k) s = .next (setCore s s.cur { own s with wait := .scoreboard }))) ∧
  (∀ a b s x y c1 c2, Unlocked (kind s) (own s) [a, b] [] → readX (kind s) (own s) a = .ok (x, c1) → readX (kind s) c1 b = .ok (y, c2) →
    let o := x.toNat % 2 ^ 20
    (y = 0#64 → c2.score = [] → Completes (.ewait a b) s c2) ∧
    (y ≠ 0#64 → 2 ^ 20 < o + y.toNat → Raises (.ewait a b) s .boundary (BitVec.ofNat 64 o)) ∧
    (y ≠ 0#64 → o + y.toNat ≤ 2 ^ 20 →
      (∀ e ∈ c2.score, ¬ waitedFor c2 e o y.toNat) → Completes (.ewait a b) s c2) ∧
    ((y = 0#64 ∧ c2.score ≠ []) ∨ (y ≠ 0#64 ∧ o + y.toNat ≤ 2 ^ 20 ∧ ∃ e ∈ c2.score, waitedFor c2 e o y.toNat) →
      ∃ t, exec (.ewait a b) s = .next t ∧ (coreOf t s.cur).wait = .ewait ∧ (coreOf t s.cur).pc = (own s).pc ∧ (coreOf t s.cur).x = (own s).x)) ∧
  (∀ d s c1, Unlocked (kind s) (own s) [] [d] →
    writeX (kind s) (own s) d (lapqValue s (own s)) = .ok c1 → Completes (.lapq d) s c1)

/-- R57, R116, R175, R403: SCUR of a core loads its cursor from the 8 bytes its operand names, with the halves bound as the buffers stand, retires the cursor's old entry
and enters the new one, one entry for each cursor, when no scoreboard entry holds it up; a reserved bit raises ILLEGAL. CURSOR_EXHAUSTED retires the entry of a cursor with no access left. -/
def Sys2Proof.Says.CursorResults : Prop :=
  (∀ k a s x c1 d, Unlocked (kind s) (own s) [a] [] → readX (kind s) (own s) a = .ok (x, c1) → descriptorAt s c1 x 8 d →
    let u : Cursor := { addr := BitVec.ofNat 20 d, step := BitVec.ofNat 20 (d / 2 ^ 20), left := BitVec.ofNat 16 (d / 2 ^ 40),
                        dir := d.testBit 56, plane := d.testBit 57, bound := c1.bufs }
    let kept := c1.score.filter fun e => e.owner != .cursor k.toNat
    (2 ^ 58 ≤ d → Raises (.scur k a) s .illegal 0#64) ∧
    (d < 2 ^ 58 → (u.left = 0#16 ∨ (kept.length < 16 ∧ ∀ e ∈ cursorEntries k.toNat u false, scoreConflict kept e.reads e.write = false)) →
      Completes (.scur k a) s { c1 with cursors := c1.cursors.set k.toNat u, score := kept ++ cursorEntries k.toNat u false,
                                        pend := c1.pend ++ scratchUE c1 (seen c1 (x.toNat % 2 ^ 20) 8) }) ∧
    (d < 2 ^ 58 → kept = [] → ∃ t, exec (.scur k a) s = .next t ∧ (coreOf t s.cur).pc = (own s).pc + 4#14 ∧
      (coreOf t s.cur).cursors = c1.cursors.set k.toNat u)) ∧
  (∀ k u sw, (cursorEntries k u sw).length ≤ 1 ∧ ((cursorEntries k u sw).length = 0 ↔ u.left = 0#16)) ∧
  (∀ s n k u, k < 4 → (coreOf s (.tile n)).cursors[k]? = some u → u.left = 0#16 → ∃ t, exec (.cursorExhausted n k) s = .next t ∧
    (∀ e ∈ (coreOf t (.tile n)).score, e.owner ≠ .cursor k) ∧ (∀ e ∈ (coreOf s (.tile n)).score, e.owner ≠ .cursor k → e ∈ (coreOf t (.tile n)).score) ∧
    coreOf t (.tile n) = { coreOf s (.tile n) with score := (coreOf t (.tile n)).score } ∧ t = { s with cores := t.cores })

/-- R184, R185, R266, R292, R408, R411: SRD and SWR on a memory core. A descriptor at an offset that is no multiple of 64 raises ALIGN, one that ends above the scratch
BOUNDARY; one that passes its checks starts in the lowest free slot, the youngest of its core, a writing one with the next number of the package; with every slot taken
the core freezes; an error in the descriptor is consumed (R271); SWAIT completes when no stream of its core is left. The room that a staged
write takes is the model's choice (log entry 146). -/
def Sys2Proof.Says.StreamIssue : Prop :=
  (∀ i swr a s x c1, (i = .srd a ∧ swr = false ∨ i = .swr a ∧ swr = true) → Unlocked (kind s) (own s) [a] [] →
    readX (kind s) (own s) a = .ok (x, c1) → let o := x.toNat % 2 ^ 20
    (o % 64 ≠ 0 → Raises i s .align (BitVec.ofNat 64 o)) ∧
    (o % 64 = 0 → 0x40000 < o + 64 → Raises i s .boundary (BitVec.ofNat 64 o)) ∧
    (∀ m, s.cur = .mem m → o % 64 = 0 → o + 64 ≤ 0x40000 → let d := streamDesc c1 o
      (∀ tr, sdCheck s c1 m o swr d = some tr → exec i s = .next (takeCause s s.cur tr)) ∧
      (sdCheck s c1 m o swr d = none → overStage s c1 swr d = false →
        (∀ slot, slot < 4 → tfind c1.streams slot = none → (∀ j, j < slot → tfind c1.streams j ≠ none) → ∀ g, ctxOf s c1 = some g →
          exec i s = .next (setCore (if swr ∨ sdCopy d then writeStarted s c1 g d else s) s.cur
            (retire { c1 with streams := tput c1.streams slot (newStream s c1 swr d),
                              pend := c1.pend ++ scratchUE c1 ((List.range 64).map (o + ·)) }))) ∧
        ((∀ j, j < 4 → tfind c1.streams j ≠ none) → exec i s = .next (setCore s s.cur { own s with wait := .streams }))))) ∧
  (∀ s, ((own s).streams = [] → Completes .swait s (own s)) ∧ ((own s).streams ≠ [] → keepsTrying .swait s .swait))

/-- R183, R185, R186, R408: STREAM_WORD of a run that no format window changes. A reading stream pushes the next word of its run into the FIFO toward its tile, a writing stream
pops one from the FIFO toward it and writes it to its run, a copy moves one; the stream stands behind it, and is done behind its last; no other byte of memory changes. -/
def Sys2Proof.Says.StreamMovesAWord : Prop :=
  (∀ s k slot st e base n, st.write = false → sdCopy st.desc = false → st.run = some base → movable s k slot st st.pages e (base + st.byte) n →
    (fifoOf s (sdPlane st.desc) (.mem k, 4)).length < 4 → (st.byte ≠ 0 ∨ s.windows = []) → s.poisoned = [] →
    ∃ t w, exec (.streamWord k slot) s = .next t ∧ t = { s with cores := t.cores } ∧
      fifoOf t (sdPlane st.desc) (.mem k, 4) = fifoOf s (sdPlane st.desc) (.mem k, 4) ++ [w] ∧
      (∀ j, j < n → lane w 8 j = (tget s.mem 0#8 (leafPhys e (base + st.byte) + j)).toNat) ∧ w.toNat < 2 ^ (8 * n) ∧
      streamOf t k slot = some { movedOn st n with done := runsOver (movedOn st n), rows := none } ∧
      (∀ a, a ≠ .mem k → coreOf t a = coreOf s a)) ∧
  (∀ s k slot st e base n w ws, st.write = true → sdCopy st.desc = false → st.run = some base → movable s k slot st st.pages e (base + st.byte) n →
    leafH e = false → leafL e = false → leafD e = false → fifoOf s (sdPlane st.desc) (.mem k, 0) = w :: ws →
    headMarked s (sdPlane st.desc) (.mem k, 0) = false →
    ∃ t, exec (.streamWord k slot) s = .next t ∧ t = { s with cores := t.cores, mem := t.mem, poisoned := t.poisoned } ∧
      fifoOf t (sdPlane st.desc) (.mem k, 0) = ws ∧
      (∀ j, j < n → (tget t.mem 0#8 (leafPhys e (base + st.byte) + j)).toNat = lane w 8 j) ∧
      (∀ q, (q < leafPhys e (base + st.byte) ∨ leafPhys e (base + st.byte) + n ≤ q) → tget t.mem 0#8 q = tget s.mem 0#8 q) ∧
      streamOf t k slot = some { movedOn st n with done := runsOver (movedOn st n) } ∧ (∀ a, a ≠ .mem k → coreOf t a = coreOf s a)) ∧
  (∀ s k slot st e e2 base n, sdCopy st.desc = true → st.done = false → st.run = some base → movable s k slot st st.pages e (base + st.byte) n →
    let dst := (BitVec.ofNat 64 base + (BitVec.ofNat 64 (sdDst st.desc) - BitVec.ofNat 64 (sdAddr st.desc)) : Word).toNat + st.byte
    pageFor st.dpages dst = some e2 → dst % 2 ^ pageBits (leafSize e2) + n ≤ 2 ^ pageBits (leafSize e2) →
    leafH e2 = false → leafL e2 = false → leafD e2 = false → s.poisoned = [] →
    ∃ t, exec (.streamWord k slot) s = .next t ∧ t = { s with cores := t.cores, mem := t.mem, poisoned := t.poisoned } ∧
      (∀ j, j < n → tget t.mem 0#8 (leafPhys e2 dst + j) = tget s.mem 0#8 (leafPhys e (base + st.byte) + j)) ∧
      (∀ q, (q < leafPhys e2 dst ∨ leafPhys e2 dst + n ≤ q) → tget t.mem 0#8 q = tget s.mem 0#8 q) ∧
      streamOf t k slot = some { movedOn st n with done := runsOver (movedOn st n) } ∧ (∀ a, a ≠ .mem k → coreOf t a = coreOf s a))

/-- R185, R216, R292: STREAM_COMPLETE frees the slot of a stream that is done; a writing stream's host-bound bytes are then known, or its staged write is whole. STREAM_FAULT
ends a stream on BOUNDARY or ILLEGAL, which its core takes at its next boundary, and stops one on PAGE with a notice. -/
def Sys2Proof.Says.StreamEnds : Prop :=
  (∀ s k slot st, streamOf s k slot = some st → st.done = true → ∃ t, exec (.streamComplete k slot) s = .next t ∧ streamOf t k slot = none ∧
    (∀ j, j ≠ slot → streamOf t k j = streamOf s k j) ∧ (∀ a, a ≠ .mem k → coreOf t a = coreOf s a) ∧ t.mem = s.mem ∧
    (st.write = false → sdCopy st.desc = false → t = { s with cores := t.cores }) ∧
    (st.write = true → (contextOf s (memCtx s k)).laps = false → st.host = [] → ∀ o ∈ t.outQ, o.vector = none → o.serial ≠ st.serial)) ∧
  (∀ s k slot st tr, streamOf s k slot = some st → st.fault = some tr →
    (tr.cause = .boundary ∨ tr.cause = .illegal → ∃ t, exec (.streamFault k slot) s = .next t ∧ streamOf t k slot = none ∧
      (coreOf t (.mem k)).pend = (coreOf s (.mem k)).pend ++ [tr] ∧ (coreOf t (.mem k)).pc = (coreOf s (.mem k)).pc ∧ t.mem = s.mem) ∧
    (tr.cause = .page → ∃ t, exec (.streamFault k slot) s = .next t ∧ streamOf t k slot = some { st with fault := none, stalled := some tr } ∧
      t.notices = s.notices ++ [.stream k slot tr] ∧ t = { s with cores := t.cores, notices := t.notices }))

/-- Buffers and switch cursors as a core names them. -/
def Obligations.BuffersAndCursors : Prop := Says.BufferResults ∧ Says.CursorResults

/-- The start, the words and the end of a stream. -/
def Obligations.StreamTransfer : Prop := Says.StreamIssue ∧ Says.StreamMovesAWord ∧ Says.StreamEnds
/-! ### The switch -/

namespace Sys2Proof.Says

/-- Tile n steps, and its switch runs: neither halted nor in SWAITH (R113, R124). -/
def switchRuns (s : State) (n : Nat) : Prop :=
  s.cur = .tile n ∧ n < 2048 ∧ (coreOf s (.tile n)).swHalted = false ∧ (coreOf s (.tile n)).swWaitH = false

/-- What a word waits for (R114): a word in every source its routes and its SMOV name, room in every FIFO it pushes into, beside the words that an instruction in progress
has popped and may give back (R51), an access left in every cursor. -/
def wordReady (s : State) (n : Nat) (r : Routes) (extra : List Nat) : Prop :=
  (∀ b, ∀ src ∈ routeSources r b ++ (if b then [] else extra), fifoOf s b (sourceFifo n r src) ≠ []) ∧
  (∀ b, ∀ d ∈ routeDests n r b, ∃ p, d = some p ∧ (fifoOf s b p).length + poppedOf (coreOf s p.1) b p.2 < 4) ∧
  (∀ u ∈ cursorUses r, (cursorAt (coreOf s (.tile n)) u.1).left ≠ 0#16)

/-- The cursor of a use is set for it: its direction and its plane (R119). -/
def cursorSet (s : State) (n : Nat) (u : Nat × Bool × Bool) : Prop :=
  let c := cursorAt (coreOf s (.tile n)) u.1; c.dir = u.2.1 ∧ c.plane = u.2.2

/-- The next access of a use's cursor reaches no undo area of a leg with laps (R262). -/
def cursorOutside (s : State) (n : Nat) (u : Nat × Bool × Bool) : Prop :=
  let c := cursorAt (coreOf s (.tile n)) u.1
  undoReserved s .tile (coreOf s (.tile n)) = true → cursorAddr c + cursorSize c ≤ 0xF0000 ∧
    ∀ i, i < cursorSize c → (if c.dir then shadow c.bound else visible c.bound) (cursorAddr c + i) < 0xF0000

/-- Each cursor that the word uses is set for it, and reaches no undo area of a leg with laps (R119, R262). -/
def cursorsAgree (s : State) (n : Nat) (r : Routes) : Prop := ∀ u ∈ cursorUses r, cursorSet s n u ∧ cursorOutside s n u

/-- The word's first use of a cursor that is not as it should be halts the switch with a cause due at its core, whose address has spc, the
cursor's number and bit 63 (R119); no word moves. -/
def cursorHalts (i : Instr) (s : State) (n : Nat) (u : Nat × Bool × Bool) (cause : Cause) : Prop :=
  let c := coreOf s (.tile n)
  exec i s = .next (setCore s (.tile n) { c with
    swHalted := true, pend := c.pend ++ [{ cause := cause, addr := BitVec.ofNat 64 (c.spc.toNat + u.1 * 2 ^ 10 + 2 ^ 63), switch := true }] })

/-- The physical offsets that the M sinks of a word write, plane A's first (R117). -/
def sinkBytes (s : State) (n : Nat) (r : Routes) : List Nat :=
  [false, true].flatMap fun b =>
    let u := cursorAt (coreOf s (.tile n)) (curOf r b)
    if sinkOf r b = 0 then [] else (List.range (cursorSize u)).map fun i => shadow u.bound (cursorAddr u + i)

/-- The sectors that the M sinks of a word are the first to write in the lap (R262). -/
def sinkSectors (s : State) (n : Nat) (r : Routes) : List Nat := firstWritten s .tile (coreOf s (.tile n)) (sinkBytes s n r)

/-- What the M sinks of a word do to the scratch of its tile beside the bytes they write (R262, R263): their first writes are logged, no other byte and no
mark of one differs. A word without a sink changes no byte. -/
def sinksLogged (s : State) (n : Nat) (r : Routes) (e : Core) : Prop :=
  let c := coreOf s (.tile n); let fs := sinkSectors s n r; let ps := sinkBytes s n r
  logs s c e fs ∧ (∀ q, untouched c fs ps q → tget e.scratch 0#8 q = tget c.scratch 0#8 q) ∧
  (∀ o, ErrorMark.scratch o ∈ e.marks ↔ ErrorMark.scratch o ∈ c.marks ∧ untouched c fs ps o) ∧
  (¬ fullDue c e fs → e.undoRaised = c.undoRaised)

/-- STOK has room for its token: the notice FIFO, during a take-over (R124, R235). -/
def tokenRoom (i : Instr) (s : State) : Prop :=
  (∃ q slot, i = .stok q slot) → s.starter.takingOver = true → s.starter.notices.length < 4096

/-- No word that the switch word pops, and no byte of its tile's scratch, holds an uncorrectable error. -/
def wordsClean (s : State) (n : Nat) (r : Routes) (extra : List Nat) : Prop :=
  (∀ b, ∀ src ∈ routeSources r b ++ (if b then [] else extra), headMarked s b (sourceFifo n r src) = false) ∧
  ∀ o, ErrorMark.scratch o ∉ (coreOf s (.tile n)).marks

/-- The routes of the word have been performed in t (R112, R115): each source's head is gone, once, each output has at its end the word that stood at its source, or that its cursor
reads, each delivery the word of its link, and each cursor used is one access on. -/
def routed (s t : State) (n : Nat) (r : Routes) (extra : List Nat) : Prop :=
  (∀ b, ∀ src ∈ routeSources r b ++ (if b then [] else extra), fifoOf t b (sourceFifo n r src) = (fifoOf s b (sourceFifo n r src)).drop 1) ∧
  (∀ b o p, o < 4 → (outCodes r b).getD o 0 ≠ 0 → linkOut n o r = some p →
    fifoOf t b p = fifoOf s b p ++ [outputWord s n r b o ((outCodes r b).getD o 0)]) ∧
  (∀ b d, d < 4 → (maskOf r b).getLsbD d = true → fifoOf t b (.tile n, d) = fifoOf s b (.tile n, d) ++ [sourceWord s n r b (1 + d)]) ∧
  (∀ u ∈ cursorUses r, let c := cursorAt (coreOf s (.tile n)) u.1; let e := cursorAt (coreOf t (.tile n)) u.1
    e.addr = c.addr + c.step ∧ e.left = c.left - 1#16 ∧ e.bound = c.bound) ∧
  (∀ k, k < 4 → (∀ u ∈ cursorUses r, u.1 ≠ k) → cursorAt (coreOf t (.tile n)) k = cursorAt (coreOf s (.tile n)) k)

/-- A word's M sink writes its word where its cursor stands, in the shadow half bound to the cursor (R117), when the two planes do not both write. -/
def sunk (s t : State) (n : Nat) (r : Routes) : Prop :=
  ∀ b, sinkOf r b ≠ 0 → sinkOf r (!b) = 0 → let u := cursorAt (coreOf s (.tile n)) (curOf r b)
    (∀ i j, i < cursorSize u → j < cursorSize u → shadow u.bound (cursorAddr u + i) = shadow u.bound (cursorAddr u + j) → i = j) →
    ∀ i, i < cursorSize u → (tget (coreOf t (.tile n)).scratch 0#8 (shadow u.bound (cursorAddr u + i))).toNat =
      lane (sourceWord s n r b (sinkOf r b)) 8 i

/-- Routes of a switch word, and the further source of SMOV (R120). -/
def switchForm (i : Instr) : Option (Routes × List Nat) :=
  match i with
  | .route r | .sj r _ _ _ | .sloop r _ _ | .sdbnz r _ _ | .stok r _ | .swaith r | .shalt r => some (r, [])
  | .smov r _ src => some (r, [src.toNat])
  | _ => none

/-- Counter k of a switch. -/
def cnt (c : Core) (k : BitVec 2) : BitVec 16 := c.swCnt[k.toNat]

/-- Where a word goes on (R120): SWAITH and SHALT stay. -/
def spcAfter (i : Instr) (c : Core) : BitVec 10 :=
  match i with
  | .sj _ t indexed k => if indexed then t + (cnt c k).setWidth 10 else t
  | .sdbnz _ k t => if cnt c k = 1#16 then c.spc + 1#10 else t
  | .swaith _ | .shalt _ => c.spc
  | _ => c.spc + 1#10

/-- Counter k after a word (R120): w is the word that SMOV takes. -/
def cntAfter (i : Instr) (c : Core) (w : VWord) (k : BitVec 2) : BitVec 16 :=
  match i with
  | .sloop _ j m => if j = k then m.setWidth 16 else cnt c k
  | .sdbnz _ j _ => if j = k then cnt c k - 1#16 else cnt c k
  | .smov _ j _ => if j = k then w.setWidth 16 else cnt c k
  | _ => cnt c k

end Sys2Proof.Says

/-- R112, R114 to R117, R119, R120, R124, R402: a switch word issues whole when everything it waits for is there: its routes are performed, SJ, SLOOP, SDBNZ, SMOV leave spc and counters
as their rules say, STOK sends its token to the Starter, or, during a take-over, into the notice FIFO (R235), SWAITH waits for the hurdle, SHALT halts; the core consumes an
error in a word popped, with the spc and the FIFO (R123, R321). An M sink logs each sector that it is the first to write in the lap, and the
word stalls while the undo area has no room for them (R262, R263); without a sink no byte of scratch changes. A word that is not ready changes
nothing. A cursor set for the other direction or plane halts the switch with ILLEGAL due at the core and the address of R119; one that
reaches the undo area halts it with BOUNDARY, which is the model's choice (log entry 34); of several such uses in a word the first counts, in the
model's order (log entry 139). -/
def Sys2Proof.Says.SwitchWords : Prop :=
  ∀ i r extra, switchForm i = some (r, extra) → i.WellFormed = true → ∀ s n, switchRuns s n →
    (¬ (wordReady s n r extra ∧ tokenRoom i s) → exec i s = .next s) ∧
    (wordReady s n r extra → tokenRoom i s → cursorsAgree s n r → undoStalls (coreOf s (.tile n)) (sinkSectors s n r) → exec i s = .next s) ∧
    (wordReady s n r extra → tokenRoom i s → cursorsAgree s n r → ¬ undoStalls (coreOf s (.tile n)) (sinkSectors s n r) → ∃ t, exec i s = .next t ∧
      routed s t n r extra ∧ sunk s t n r ∧ t.mem = s.mem ∧ t.quads = s.quads ∧
      (let c := coreOf s (.tile n); let e := coreOf t (.tile n)
       e.spc = spcAfter i c ∧ (∀ k, cnt e k = cntAfter i c (sourceWord s n r false (extra.headD 0)) k) ∧
       (e.swHalted = true ↔ ∃ q, i = .shalt q) ∧ (e.swWaitH = true ↔ ∃ q, i = .swaith q) ∧
       sinksLogged s n r e ∧ (wordsClean s n r extra → fullNamed c e (sinkSectors s n r)) ∧
       (∀ b, ∀ src ∈ routeSources r b ++ (if b then [] else extra), headMarked s b (sourceFifo n r src) = true →
         { cause := .ue, addr := BitVec.ofNat 64 (c.spc.toNat + (src - 1) % 4 * 2 ^ 10 + (if b then 2 ^ 12 else 0) + 2 ^ 61) } ∈ e.pend) ∧
       e = { c with spc := e.spc, swCnt := e.swCnt, swHalted := e.swHalted, swWaitH := e.swWaitH, fifoA := e.fifoA, fifoB := e.fifoB,
                    cursors := e.cursors, scratch := e.scratch, stirred := e.stirred, marks := e.marks, pend := e.pend, logged := e.logged,
                    undoFill := e.undoFill, undoRaised := e.undoRaised }) ∧
      (∀ q slot g, i = .stok q slot → (coreOf s (.tile n)).gang = some g → ∀ h, tfind s.gangs g = some h →
        (s.starter.takingOver = false → tfind t.gangs g = some { h with tokens := h.tokens ++ [slot] } ∧ t.starter = s.starter) ∧
        (s.starter.takingOver = true → t.gangs = s.gangs ∧ ∃ m, m.kind = .token slot ∧ m.serial = g ∧
          t.starter = { s.starter with notices := s.starter.notices ++ [m] })) ∧
      ((∀ q slot, i ≠ .stok q slot) → t = { s with cores := t.cores, agenda := t.agenda })) ∧
    (∀ l u rest, wordReady s n r extra → tokenRoom i s → cursorUses r = l ++ u :: rest → (∀ v ∈ l, cursorSet s n v ∧ cursorOutside s n v) →
      (¬ cursorSet s n u → cursorHalts i s n u .illegal) ∧
      (cursorSet s n u → ¬ cursorOutside s n u → cursorHalts i s n u .boundary))

/-- R118: SCUR of the switch performs its routes, with the cursors they use advanced, then gives its cursor the count, with its halves bound anew and its entry exchanged, and goes
on at the next word, when no other entry of the scoreboard holds the new entry up; otherwise nothing changes. -/
def Sys2Proof.Says.SwitchCursorReload : Prop :=
  ∀ r k m s n, (Instr.scurSwitch r k m).WellFormed = true → switchRuns s n →
    let c := coreOf s (.tile n)
    let u : Cursor := { cursorAt (advanced r c) k.toNat with left := m.setWidth 16, bound := c.bufs }
    let kept := c.score.filter fun e => e.owner != .cursor k.toNat
    let fits := u.left = 0#16 ∨ (kept.length < 16 ∧ ∀ e ∈ cursorEntries k.toNat u true, scoreConflict kept e.reads e.write = false)
    (wordReady s n r [] → fits → cursorsAgree s n r → undoStalls c (sinkSectors s n r) → exec (.scurSwitch r k m) s = .next s) ∧
    (wordReady s n r [] → fits → cursorsAgree s n r → ¬ undoStalls c (sinkSectors s n r) → ∃ t, exec (.scurSwitch r k m) s = .next t ∧
      sunk s t n r ∧ sinksLogged s n r (coreOf t (.tile n)) ∧ (wordsClean s n r [] → fullNamed c (coreOf t (.tile n)) (sinkSectors s n r)) ∧
      (∀ b, ∀ src ∈ routeSources r b, fifoOf t b (sourceFifo n r src) = (fifoOf s b (sourceFifo n r src)).drop 1) ∧
      (∀ b o p, o < 4 → (outCodes r b).getD o 0 ≠ 0 → linkOut n o r = some p →
        fifoOf t b p = fifoOf s b p ++ [outputWord s n r b o ((outCodes r b).getD o 0)]) ∧
      (coreOf t (.tile n)).spc = c.spc + 1#10 ∧ cursorAt (coreOf t (.tile n)) k.toNat = u ∧
      (∀ j, j < 4 → j ≠ k.toNat → cursorAt (coreOf t (.tile n)) j = cursorAt (advanced r c) j) ∧
      (coreOf t (.tile n)).score = kept ++ cursorEntries k.toNat u true ∧ t = { s with cores := t.cores, agenda := t.agenda }) ∧
    (¬ (wordReady s n r [] ∧ fits) → exec (.scurSwitch r k m) s = .next s)

/-- What a switch word does. -/
def Obligations.SwitchExecution : Prop := Says.SwitchWords ∧ Says.SwitchCursorReload
/-! ### Synchronisation objects and wait queues -/

namespace Sys2Proof.Says

/-- Core c names the object at va, on a memory-side page with the rights that the form needs (R195, R197, R211). -/
def objectNamed (s : State) (c : Core) (need : Need) (va : Word) (e : Leaf) (phys : Nat) (c1 : Core) : Prop :=
  va.toNat % 64 = 0 ∧ translate s (kind s) c { need := need, memSide := true, kind := .atomic } va = .ok e phys c1 ∧ unroutable s phys = false

/-- Core c names the object at va, and no store or atomic of its own is on its way to it (R193). -/
def objectAt (s : State) (c : Core) (need : Need) (va : Word) (e : Leaf) (phys : Nat) (c1 : Core) : Prop :=
  objectNamed s c need va e phys c1 ∧ openAt s (agentCode s.cur) phys 64 = false

/-- Core c is a member of gang g with this serial. -/
def memberOfGang (s : State) (c : Core) (serial : Nat) (g : Gang) : Prop := c.gang = some serial ∧ tfind s.gangs serial = some g

/-- The waiter that the core which steps is. -/
def waiter (s : State) (serial : Nat) (g : Gang) : Waiter := { serial := serial, member := memberOf g.first s.cur }

/-- The instruction has asked and waits with w, at the same pc with no register written (R434). -/
def waitsFor (s t : State) (w : Wait) : Prop :=
  (coreOf t s.cur).blocked = true ∧ (coreOf t s.cur).wait = w ∧ (coreOf t s.cur).pc = (own s).pc ∧ (coreOf t s.cur).x = (own s).x ∧
  ∀ a, a ≠ s.cur → coreOf t a = coreOf s a

/-- A page that is neither lap-tracked nor duplicated (R208): a write at its home changes the bytes written alone. -/
def plainPage (e : Leaf) : Prop := leafL e = false ∧ leafD e = false

/-- The state word of a free exclusive object, or of one that a further shared holder may join (R195, R199). -/
def canGrant (w : Nat) (shared : Bool) : Prop :=
  if shared then w / 2 ^ 16 % 2 = 0 ∧ w % 2 ^ 16 < 65535 else w % 2 ^ 17 = 0

end Sys2Proof.Says

/-- R195, R197, R199, R331: ACQ queues a request at the object's home and waits, and completes with the grant; DEADLOCK on an object that its core holds, ILLEGAL with four held or on
a malformed object, ALIGN on a misaligned one. OBJECT_GRANT grants the oldest request of an object that its state lets in: the state word, for an exclusive hold the holder
word, the member's holdings and generation, and the member goes on. -/
def Sys2Proof.Says.AcquireAndGrant : Prop :=
  (∀ a sh s va c1, Unlocked (kind s) (own s) [a] [] → readX (kind s) (own s) a = .ok (va, c1) →
    (∀ w r, c1.replies = .ok w :: r → Completes (.acq a sh) s c1) ∧
    (c1.replies = [] → va.toNat % 64 ≠ 0 → Raises (.acq a sh) s .align va) ∧
    (∀ e phys c2 serial g, c1.replies = [] → objectAt s c1 .rw va e phys c2 → memberOfGang s c2 serial g →
      (objectClean s phys = false → Raises (.acq a sh) s .illegal 0#64) ∧
      (objectClean s phys = true → (∃ h ∈ c2.holdings, h.object = va.toNat) → exec (.acq a sh) s =
        .next (takeCause (withNotice s s.cur { cause := .deadlock, addr := va }) s.cur { cause := .deadlock, addr := va })) ∧
      (objectClean s phys = true → (∀ h ∈ c2.holdings, h.object ≠ va.toNat) →
        (4 ≤ c2.holdings.length → Raises (.acq a sh) s .illegal 0#64) ∧
        (c2.holdings.length < 4 → ∃ t, exec (.acq a sh) s = .next t ∧ waitsFor s t (.acq phys) ∧
          t = { s with cores := t.cores, acqQ := s.acqQ ++ [{ who := waiter s serial g, obj := phys, va := va.toNat, shared := sh, leaf := e }] })))) ∧
  (∀ s r g, s.acqQ[s.pick]? = some r → (∀ q ∈ s.acqQ.take s.pick, q.obj ≠ r.obj) → (∀ q ∈ s.acqQ.drop (s.pick + 1), q.obj ≠ r.obj) →
    tfind s.gangs r.who.serial = some g → g.state = .running → plainPage r.leaf → canGrant (memRead s r.obj 8) r.shared →
    ∃ t, exec .objectGrant s = .next t ∧ t.acqQ = s.acqQ.eraseIdx s.pick ∧
      memRead t r.obj 8 = (memRead s r.obj 8 + (if r.shared then 1 else 2 ^ 16)) % 2 ^ 64 ∧
      (r.shared = false → memRead t (r.obj + 8) 8 = (holderWord s r.who g.ctx).toNat) ∧
      (∀ q, (q < r.obj ∨ r.obj + 16 ≤ q) → tget t.mem 0#8 q = tget s.mem 0#8 q) ∧
      (let c := coreOf s (memberAgent g.first r.who.member); let d := coreOf t (memberAgent g.first r.who.member)
       d.holdings = c.holdings ++ [{ object := r.va, phys := r.obj, shared := r.shared }] ∧ d.gen = c.gen + 1#8 ∧
       d.replies = c.replies ++ [.ok 0#64] ∧ d.blocked = false ∧ d.x = c.x ∧ d.pc = c.pc) ∧
      t = { s with cores := t.cores, mem := t.mem, poisoned := t.poisoned, acqQ := t.acqQ })

namespace Sys2Proof.Says

/-- REL past its translation (R200, R399): ILLEGAL on an object that core c does not hold; with no dirty line it waits, its place and entry kept, while a write of its own, a
remote access or a stream is outstanding, and otherwise sends its hold's release home and waits for the answer. -/
def releases (a : Reg) (s : State) (va : Word) (c : Core) (e : Leaf) (phys : Nat) : Prop :=
  let done := c.streams = [] ∧ ¬ writeBackOpen s none ∧ anyStoreOpen s (agentCode s.cur) = false ∧ remoteOpen s (agentCode s.cur) = false
  ((∀ h ∈ c.holdings, h.object ≠ va.toNat) → Raises (.rel a) s .illegal 0#64) ∧
  (∀ h l r, c.holdings = l ++ h :: r → h.object = va.toNat → (∀ q ∈ l, q.object ≠ va.toNat) → c.lines = [] →
    (¬ done → ∃ t, exec (.rel a) s = .next t ∧ t = { s with cores := t.cores } ∧ (coreOf t s.cur).wait = .rel phys e ∧ (coreOf t s.cur).pc = (own s).pc ∧
      (coreOf t s.cur).x = (own s).x ∧ (coreOf t s.cur).holdings = (own s).holdings ∧ ∀ b, b ≠ s.cur → coreOf t b = coreOf s b) ∧
    (done → (∀ q r, c.lost = q :: r → exec (.rel a) s = .next (takeCause s s.cur { cause := .remoteLost, addr := q, deferred := true })) ∧
      (c.lost = [] → ∃ t, exec (.rel a) s = .next t ∧ waitsFor s t .step ∧ t = { s with cores := t.cores, net := s.net ++
        [{ src := agentCode s.cur, addr := phys, kind := .release h e, ctx := (ctxOf s c).getD 0 }] })))

end Sys2Proof.Says

/-- R200, R210, R399: REL translates once, sends its object's release home once the writes of its bound regions have left, and completes with the answer, the hold gone; ILLEGAL on
an object that its core does not hold. OBJECT_RELEASE frees the hold and lets the releaser go on. -/
def Sys2Proof.Says.ReleaseOfAnObject : Prop :=
  (∀ a s va c1, Unlocked (kind s) (own s) [a] [] → readX (kind s) (own s) a = .ok (va, c1) →
    (∀ w r, c1.replies = .ok w :: r → Completes (.rel a) s { c1 with holdings := c1.holdings.filter fun h => h.object != va.toNat }) ∧
    (∀ e phys c2, c1.replies = [] → (∀ p f, c1.wait ≠ .rel p f) → objectNamed s c1 .rw va e phys c2 →
      (objectClean s phys = false → Raises (.rel a) s .illegal 0#64) ∧ (objectClean s phys = true → releases a s va c2 e phys)) ∧
    (∀ e phys, c1.replies = [] → c1.wait = .rel phys e → releases a s va c1 e phys)) ∧
  (∀ s p h e, picked s = some p → p.kind = .release h e → plainPage e → (∀ q ∈ s.acqQ, q.obj ≠ p.addr) →
    ∃ t, exec .objectRelease s = .next t ∧ t.net = s.net.eraseIdx s.pick ∧ (coreOf t (agentOf p.src)).blocked = false ∧
      (coreOf t (agentOf p.src)).replies = (coreOf s (agentOf p.src)).replies ++ [.ok 0#64] ∧
      (h.shared = true → 0 < memRead s p.addr 8 → memRead t p.addr 8 = memRead s p.addr 8 - 1) ∧
      (h.shared = false → memRead t p.addr 8 / 2 ^ 16 % 2 = 0 ∧ memRead t (p.addr + 8) 8 = 0) ∧
      (∀ q, (q < p.addr ∨ p.addr + 16 ≤ q) → tget t.mem 0#8 q = tget s.mem 0#8 q))

/-- R196, R198, R341: BIND with its record's two words read enters the binding at the end of the context's table, or, with the same entry in it, changes nothing; it raises ALIGN, ILLEGAL on
a region that breaks a rule or overlaps, and with 16 bindings; UNBIND takes the object's bindings away, ILLEGAL while some core of the context holds the object. -/
def Sys2Proof.Says.BindingTable : Prop :=
  (∀ a b s va rec c1 c2 e phys c3 x base len, Unlocked (kind s) (own s) [a, b] [] → readX (kind s) (own s) a = .ok (va, c1) →
    readX (kind s) c1 b = .ok (rec, c2) → c2.replies = [.ok base, .ok len] → objectAt s c2 .none va e phys c3 → ctxOf s c3 = some x →
    rec.toNat % 8 = 0 →
    let n : Binding := { object := va.toNat, base := base.toNat, len := len.toNat }
    let bs := (contextOf s x).bindings
    (n ∈ bs → exec (.bind a b) s = .next (setCore (setContext s x (contextOf s x)) s.cur (retire { c3 with replies := [] }))) ∧
    (n ∉ bs → base.toNat % 32 = 0 → 0 < len.toNat → len.toNat % 32 = 0 → (∀ o ∈ bs, o.base + o.len ≤ n.base ∨ n.base + n.len ≤ o.base) →
      bs.length < 16 → exec (.bind a b) s = .next (setCore (setContext s x { contextOf s x with bindings := bs ++ [n] }) s.cur
        (retire { c3 with replies := [] }))) ∧
    (n ∉ bs → base.toNat % 32 ≠ 0 → Raises (.bind a b) s .align base) ∧
    (n ∉ bs → base.toNat % 32 = 0 → (len.toNat = 0 ∨ len.toNat % 32 ≠ 0 ∨ (∃ o ∈ bs, o.base < n.base + n.len ∧ n.base < o.base + o.len) ∨
      16 ≤ bs.length) → Raises (.bind a b) s .illegal 0#64)) ∧
  (∀ a s va c1 e phys c2 x, Unlocked (kind s) (own s) [a] [] → readX (kind s) (own s) a = .ok (va, c1) → c1.replies = [] →
    objectAt s c1 .none va e phys c2 → ctxOf s c2 = some x →
    (objectHeld s x va.toNat = true → Raises (.unbind a) s .illegal 0#64) ∧
    (objectHeld s x va.toNat = false → exec (.unbind a) s = .next (setCore (setContext s x
      { contextOf s x with bindings := (contextOf s x).bindings.filter fun b => b.object != va.toNat }) s.cur (retire c2))))

/-- R253, R429: WAITQ puts its member's node at the tail of the object's queue and waits, and completes once woken; a node that is in a queue already raises ILLEGAL. WAKE completes
when what FENCE b=2 waits for is done: with an empty queue, or no waiter to release, nothing changes; with one to release the first node leaves the queue and a wake goes to its
member. WAKE_DELIVERY lets the member go on, its generation one on. -/
def Sys2Proof.Says.WaitQueues : Prop :=
  (∀ a s va c1, Unlocked (kind s) (own s) [a] [] → readX (kind s) (own s) a = .ok (va, c1) →
    (∀ w r, c1.replies = .ok w :: r → Completes (.waitq a) s c1) ∧
    (∀ e phys c2 serial g, c1.replies = [] → objectAt s c1 .none va e phys c2 → objectClean s phys = true → memberOfGang s c2 serial g →
      let node := nodeAt g (memberOf g.first s.cur)
      (2 ^ 63 ≤ memRead s (node + 8) 8 → Raises (.waitq a) s .illegal 0#64) ∧
      (memRead s (node + 8) 8 < 2 ^ 63 → plainPage e → node < 2 ^ 64 → ∃ t, exec (.waitq a) s = .next t ∧ waitsFor s t (.waitq phys) ∧
        memRead t (phys + 0x18) 8 = node ∧ t = { s with cores := t.cores, mem := t.mem, poisoned := t.poisoned } ∧
        (memRead s (phys + 0x10) 8 = 0 → (node + 16 ≤ phys ∨ phys + 64 ≤ node) → memRead t (phys + 0x10) 8 = node ∧ memRead t node 8 = 0)))) ∧
  (∀ a b s va n c1 c2 e phys c3, Unlocked (kind s) (own s) [a, b] [] → readX (kind s) (own s) a = .ok (va, c1) → readX (kind s) c1 b = .ok (n, c2) →
    c2.replies = [] → objectAt s c2 .none va e phys c3 → objectClean s phys = true → fenceOpen s (agentCode s.cur) 2 = false →
    let node := memRead s (phys + 0x10) 8
    ((n.toNat = 0 ∨ node = 0) → Completes (.wake a b) s c3) ∧
    (n.toNat = 1 → node ≠ 0 → plainPage e → let w := memRead s (node + 8) 8
      w / 2 ^ 52 % 2 ^ 11 = s.ownPkg → (node + 16 ≤ phys ∨ phys + 64 ≤ node) → ∃ t, exec (.wake a b) s = .next t ∧ coreOf t s.cur = retire c3 ∧
      t.net = s.net ++ [{ src := agentCode s.cur, addr := phys, kind := .wake (w / 2 ^ 28 % 2 ^ 24) (w % 2 ^ 12) }] ∧
      memRead t (phys + 0x10) 8 = memRead s node 8 ∧ memRead t (node + 8) 8 < 2 ^ 63)) ∧
  (∀ s p serial m g, picked s = some p → p.kind = .wake serial m → tfind s.gangs serial = some g → g.state = .running →
    ∃ t, exec .wakeDelivery s = .next t ∧ t = { s with cores := t.cores, net := s.net.eraseIdx s.pick } ∧
      (let c := coreOf s (memberAgent g.first m); let d := coreOf t (memberAgent g.first m)
       d.replies = c.replies ++ [.ok 0#64] ∧ d.blocked = false ∧ d.gen = c.gen + 1#8 ∧ d.x = c.x ∧ d.pc = c.pc))

/-- Synchronisation objects, bindings and wait queues. -/
def Obligations.ObjectsAndBindings : Prop := Says.AcquireAndGrant ∧ Says.ReleaseOfAnObject ∧ Says.BindingTable ∧ Says.WaitQueues
/-! ### Hurdles, tokens, FINISH, BATON -/

namespace Sys2Proof.Says

/-- Scope and sealing form of HURDLE and HURDLE.S (R368). -/
def hurdleForm (i : Instr) : Option (BitVec 2 × Bool) :=
  match i with
  | .hurdle sc => some (sc, false)
  | .hurdleS sc => some (sc, true)
  | _ => none

/-- A gang stands on lanes of the package (R17, R34). -/
def onLanes (g : Gang) : Prop := g.state = .running ∧ g.first + g.lanes ≤ 32

/-- The gangs whose hurdle completes together (R35, R41): those of the baton for package scope, otherwise the gang itself. -/
def joined (s : State) (serial : Nat) (g : Gang) : List (Nat × Gang) :=
  if g.hurdleScope = 1#2 then s.gangs.filter fun e => e.2.baton == g.baton else [(serial, g)]

/-- A member behind the hurdle (R368, R124): it goes on at the next word, its pending SEALREQ spent, its switch out of SWAITH. -/
def behindHurdle (c d : Core) : Prop :=
  (∀ sc b, c.wait = .hurdle sc b → d.wait = .none ∧ d.pc = c.pc + 4#14 ∧ d.sealReq = false) ∧
  (c.swWaitH = true → d.swWaitH = false ∧ d.spc = c.spc + 1#10) ∧ (c.swWaitH = false → d.spc = c.spc) ∧
  d.x = c.x ∧ d.v = c.v ∧ d.p = c.p ∧ d.scratch = c.scratch ∧ d.gang = c.gang

/-- A refused posted access has come back and is not raised yet (R169). -/
def refusalHeld (c : Core) : Prop := ∃ t ∈ c.pend, t.cause = .refused ∧ t.posted = true

/-- FINISH may take effect (R358): no handler, nothing held, no signature mismatch, nothing outstanding. -/
def mayFinish (s : State) (c : Core) : Prop :=
  c.inHandler = false ∧ c.holdings = [] ∧ ¬ (c.sigCtl = true ∧ c.checker.armed = true ∧ c.checker.crc ≠ c.checker.expected) ∧
  c.inflight = [] ∧ c.scalars = [] ∧ c.lost = [] ∧
  (∀ n, s.cur = .tile n → (∀ q ∈ (quadOf s (tileQuad n)).queue, q.issuer ≠ tileInQuad n) ∧ remoteOpen s (agentCode s.cur) = false ∧ c.score = []) ∧
  ((∀ n, s.cur ≠ .tile n) → c.streams = [])

/-- The Starter goes on with nothing else once a push has left its buffer (R223, R235). -/
def starterRests (s : State) : Prop :=
  starterActs s = true ∧ s.starter.notices = [] ∧ s.starter.waiting = [] ∧ ∀ e ∈ s.gangs, e.2.state = .running → membersDone s e.2 = false

end Sys2Proof.Says

/-- R41, R124, R267, R299, R368, R405: HURDLE and HURDLE.S of a member with nothing in flight arrive and wait, and make the hurdle a sealing one in a context that runs laps; ILLEGAL in a handler, for a
scope beyond the leg's, and against a hurdle of another scope. HURDLE_COMPLETE lets every member go on once all have arrived. A deferred REMOTE_LOST is raised before the arrival alone (R218). JOB_HURDLE_ARRIVAL notes the arrival of another package of the
job, in the capture area while the gang is away and behind what was captured for it (R250). SEALREQ makes its core's next hurdle a sealing one, and has no effect without laps. That a
switch in SWAITH goes on in the completing step is log entry 119 (DEDUCED), the 32 bytes that a captured arrival takes log entry 143 (DESIGN CHOICE). -/
def Obligations.Hurdles : Prop :=
  (∀ i sc form, hurdleForm i = some (sc, form) → ∀ s serial g, memberOfGang s (own s) serial g →
    ((own s).inHandler = true ∨ g.scope < sc.toNat ∨ (g.hurdleOn = true ∧ g.hurdleScope ≠ sc) → Raises i s .illegal 0#64) ∧
    ((own s).inHandler = false → sc.toNat ≤ g.scope → (g.hurdleOn = true → g.hurdleScope = sc) → (own s).inflight = [] → (own s).scalars = [] →
      (own s).streams = [] → (∀ q r, (own s).lost = q :: r → (∀ k b, (own s).wait ≠ .hurdle k b) →
        exec i s = .next (takeCause s s.cur { cause := .remoteLost, addr := q, deferred := true })) ∧
      ((own s).lost = [] ∨ (∃ k b, (own s).wait = .hurdle k b) →
      let seals := (contextOf s g.ctx).laps && (form || (own s).sealReq)
      ∃ t h, exec i s = .next t ∧ t = { s with cores := t.cores, gangs := t.gangs } ∧ tfind t.gangs serial = some h ∧ h.hurdleOn = true ∧
        h.hurdleScope = sc ∧ (h.sealing = true ↔ g.sealing = true ∨ seals = true ∨ g.sealNext = true ∨ (sc = 2#2 ∧ g.farSealing = true)) ∧
        (∀ m, m ∈ h.arrived ↔ m = memberOf g.first s.cur ∨ m ∈ g.arrived) ∧
        coreOf t s.cur = { own s with wait := .hurdle sc seals, pulled := (own s).taken ++ (own s).pulled, taken := [] }))) ∧
  (∀ s serial g, tfind s.gangs serial = some g → (∀ e ∈ joined s serial g, hurdleReady s e.2 = true ∧ e.2.hurdleScope = g.hurdleScope) →
    (g.hurdleScope = 2#2 → s.starter.takingOver = true → exec (.hurdleComplete serial) s = .next s) ∧
    (g.hurdleScope ≠ 2#2 ∨ s.starter.takingOver = false → ∃ t, exec (.hurdleComplete serial) s = .next t ∧ t.mem = s.mem ∧ t.net = s.net ∧
      (g.hurdleScope ≠ 1#2 → onLanes g → (∃ h, tfind t.gangs serial = some h ∧
          h = { g with hurdleOn := false, sealing := false, sealNext := false, atSeal := false, arrived := [], jobArrived := h.jobArrived,
                       farSealing := g.farSealing && g.hurdleScope != 2#2 } ∧
          (g.hurdleScope ≠ 2#2 → h.jobArrived = g.jobArrived) ∧
          (g.hurdleScope = 2#2 → ∀ p, h.jobArrived.count p = g.jobArrived.count p - 1)) ∧
        (∀ m ∈ membersOf g.lanes, behindHurdle (coreOf s (memberAgent g.first m)) (coreOf t (memberAgent g.first m))) ∧
        (∀ a, (∀ m ∈ membersOf g.lanes, a ≠ memberAgent g.first m) → coreOf t a = coreOf s a)) ∧
      (∀ e ∈ joined s serial g, ∃ h, tfind t.gangs e.1 = some h ∧ h.hurdleOn = false ∧ h.arrived = []))) ∧
  (∀ s serial g pkg, tfind s.gangs serial = some g → pkg ∈ (contextOf s g.ctx).pkgs → pkg ≠ s.ownPkg →
    (capturedOpen s serial (portOfPkg s pkg) = true → ∃ p, exec (.jobHurdleArrival serial pkg) s = .next { s with net := s.net ++ [p] } ∧
      p.kind = .notice serial (.arrival pkg)) ∧
    (capturedOpen s serial (portOfPkg s pkg) = false → gangAway s g = false → exec (.jobHurdleArrival serial pkg) s = .next (setGang s serial { g with jobArrived := g.jobArrived ++ [pkg] })) ∧
    (capturedOpen s serial (portOfPkg s pkg) = false → gangAway s g = true → captureUse (contextOf s g.ctx) (portOfPkg s pkg) + 32 ≤ 0x10000 →
      exec (.jobHurdleArrival serial pkg) s = .next (setContext s g.ctx { contextOf s g.ctx with
        capture := (contextOf s g.ctx).capture ++ [{ port := portOfPkg s pkg, serial := serial, flit := .arrival pkg }] }))) ∧
  (∀ s x, ctxOf s (own s) = some x → Completes .sealreq s (if (contextOf s x).laps then { own s with sealReq := true } else own s))

/-- R42, R43, R163, R226, R235, R348, R369: DECIDE gives its gang a token and stops its core behind it; while the standby Starter core takes over, the token waits among its
notices, and for room there (the wait for room is log entry 76, DEDUCED); DECISION_TOKEN begins to apply the oldest; DECISION_FLIP, with every member stopped, no FIFO holding a word and the
named slot holding its configuration in every member, starts every member at word 0 of it in one tc with loops, switch counters and cursors clear and its registers as they were; with a word
in a FIFO every unfinished tile takes DEADLOCK in the old slot. -/
def Obligations.DecisionTokens : Prop :=
  (∀ (slot : BitVec 2) s serial g, memberOfGang s (own s) serial g →
    ((own s).inHandler = true → Raises (.decide slot) s .illegal 0#64) ∧
    ((own s).inHandler = false → s.starter.takingOver = false →
      exec (.decide slot) s = .next (setCore (setGang s serial { g with tokens := g.tokens ++ [slot] }) s.cur
        (retireTo { own s with mode := .stopped } ((own s).pc + 4#14)))) ∧
    ((own s).inHandler = false → s.starter.takingOver = true → s.starter.notices.length < 4096 →
      ∃ t n, exec (.decide slot) s = .next t ∧ coreOf t s.cur = retireTo { own s with mode := .stopped } ((own s).pc + 4#14) ∧ n.kind = .token slot ∧ n.serial = serial ∧
        t = { s with cores := t.cores, starter := { s.starter with notices := s.starter.notices ++ [n] } }) ∧
    ((own s).inHandler = false → s.starter.takingOver = true → 4096 ≤ s.starter.notices.length →
      exec (.decide slot) s = .next (setCore s s.cur { own s with wait := .starterQueue }))) ∧
  (∀ s serial g slot r, tfind s.gangs serial = some g → g.state = .running → g.stopping = false → starterActs s = true →
    g.applying = none → g.tokens = slot :: r →
    exec (.decisionToken serial) s = .next (setGang s serial { g with applying := some slot, tokens := r })) ∧
  (∀ s serial g slot, tfind s.gangs serial = some g → onLanes g → g.stopping = false → starterActs s = true → g.applying = some slot → gangStopped s g = true →
    (gangClogged s g = false → (∀ a ∈ laneAgents g.first g.lanes, tagged s (bImage g.bytes) g.ctx slot.toNat a slot.toNat = true) →
      ∃ t, exec (.decisionFlip serial) s = .next t ∧ (∃ h, tfind t.gangs serial = some h ∧ h.slot = slot ∧ h.applying = none ∧ h.arrived = []) ∧
        t.mem = s.mem ∧ t.net = s.net ∧
        ∀ a ∈ laneAgents g.first g.lanes, let c := coreOf s a; let d := coreOf t a
          d.slot = slot ∧ d.pc = 0#14 ∧ d.loop0 = {} ∧ d.loop1 = {} ∧ d.spc = 0#10 ∧ d.swCnt = Vector.replicate 4 0#16 ∧ d.cursors = Vector.replicate 4 {} ∧
          d.x = c.x ∧ d.v = c.v ∧ d.p = c.p ∧ d.scratch = c.scratch ∧ d.bufs = c.bufs ∧ (c.mode = .stopped → d.mode = .running)) ∧
    (gangClogged s g = true → ∃ t, exec (.decisionFlip serial) s = .next t ∧ t.notices = s.notices ++ [.deadlock serial] ∧
      (∃ h, tfind t.gangs serial = some h ∧ h = { g with applying := none, retried := false }) ∧
      ∀ a ∈ laneAgents g.first g.lanes, let c := coreOf s a; let d := coreOf t a
        d.slot = c.slot ∧ d.pc = c.pc ∧ d.x = c.x ∧ (c.mode = .stopped → d.mode = .running) ∧
        (agentKind a = .tile → c.mode ≠ .finished → d.pend = c.pend ++ [{ cause := .deadlock, addr := slot.setWidth 64 }])))

/-- R38, R358, R160: FINISH of a core that holds nothing and waits for nothing takes effect: the core has finished, its lease state is none; ILLEGAL in a handler and with an object held, SIGFAULT on a mismatch, and
a refusal of a posted access is raised at it. As long as another member has not finished nothing else happens. -/
def Sys2Proof.Says.FinishOfACore : Prop :=
  ∀ s, ((own s).inHandler = true ∨ (own s).holdings ≠ [] → Raises .finish s .illegal 0#64) ∧
    ((own s).inHandler = false → (own s).holdings = [] → (own s).sigCtl = true → (own s).checker.armed = true →
      (own s).checker.crc ≠ (own s).checker.expected → Raises .finish s .sigFault (BitVec.ofNat 64 (own s).pc.toNat)) ∧
    (∀ l p r, mayFinish s (own s) → (own s).pend = l ++ p :: r → p.cause = .refused → p.posted = true → (∀ t ∈ l, ¬ (t.cause = .refused ∧ t.posted = true)) →
      exec .finish s = .next (takeCause (setCore s s.cur { own s with pend := l ++ r }) s.cur p)) ∧
    (∀ serial g, mayFinish s (own s) → ¬ refusalHeld (own s) → memberOfGang s (own s) serial g →
      (∃ a ∈ laneAgents g.first g.lanes, a ≠ s.cur ∧ (coreOf s a).mode ≠ .finished) →
      ∃ t, exec .finish s = .next t ∧ t = { s with cores := t.cores, quads := t.quads } ∧ (coreOf t s.cur).mode = .finished ∧
        (coreOf t s.cur).pc = (own s).pc ∧ (coreOf t s.cur).x = (own s).x ∧ (coreOf t s.cur).scratch = (own s).scratch ∧
        (∀ a, a ≠ s.cur → coreOf t a = coreOf s a) ∧
        (∀ n, s.cur = .tile n → leaseOf (quadOf t (tileQuad n)) (tileInQuad n) = .none))

/-- R222, R223, R338, R339: BATON raises ILLEGAL for a queue number above 255 and ALIGN for a misaligned baton, waits as FENCE b=2, and then appends an indirect entry to a queue of its own context with room and
sets its bit; a queue that is not its context's takes nothing, which is counted; with a full queue the core freezes, as it does while Starter
firmware, which journals the append, is away from its pass (log entry 158). PUSH_BUFFER_APPEND moves the oldest buffered push whose
queue has room into its queue. -/
def Sys2Proof.Says.AppendingBatons : Prop :=
  (∀ a b s va q c1 c2, Unlocked (kind s) (own s) [a, b] [] → readX (kind s) (own s) a = .ok (va, c1) → readX (kind s) c1 b = .ok (q, c2) →
    (256 ≤ q.toNat → Raises (.baton a b) s .illegal 0#64) ∧
    (q.toNat < 256 → va.toNat % 128 ≠ 0 → Raises (.baton a b) s .align va) ∧
    (q.toNat < 256 → va.toNat % 128 = 0 → fenceOpen s (agentCode s.cur) 2 = true → ∃ t, exec (.baton a b) s = .next t ∧ t = { s with cores := t.cores } ∧
      (coreOf t s.cur).wait = .fence ∧ (coreOf t s.cur).pc = (own s).pc ∧ (coreOf t s.cur).x = (own s).x) ∧
    (q.toNat < 256 → va.toNat % 128 = 0 → fenceOpen s (agentCode s.cur) 2 = false →
      let r := queueOf s q.toNat
      (r.bound = false ∨ (∃ x, ctxOf s c2 = some x ∧ x ≠ r.ctx) → ∃ t, exec (.baton a b) s = .next t ∧ coreOf t s.cur = retire c2 ∧
        t.starter = s.starter ∧ t.mgmt.dropped = s.mgmt.dropped + 1 ∧ t.mem = s.mem) ∧
      (r.bound = true → ctxOf s c2 = some r.ctx → r.entries.length < 64 → passAway s = false → ∃ t e, exec (.baton a b) s = .next t ∧ coreOf t s.cur = retire c2 ∧
        (queueOf t q.toNat).entries = r.entries ++ [e] ∧ e.source = .program ∧ batonField e.bytes 0 8 = va.toNat ∧ isIndirect e.bytes = true ∧
        (queueOf t q.toNat).head = r.head ∧ (queueOf t q.toNat).tail = r.tail + 1#32 ∧ t.starter.pend.getLsbD q.toNat = true ∧
        (∀ p, p ≠ q.toNat → queueOf t p = queueOf s p) ∧ t.mem = s.mem) ∧
      (r.bound = true → ctxOf s c2 = some r.ctx → 64 ≤ r.entries.length ∨ passAway s = true →
        exec (.baton a b) s = .next (setCore s s.cur { own s with wait := .starterQueue })))) ∧
  (∀ s l q e r, s.starter.pushBuf = l ++ (q, e) :: r → (∀ p ∈ l, 64 ≤ (queueOf s p.1).entries.length) → (queueOf s q).entries.length < 64 →
    starterRests s → ∃ t f, exec .pushBufferAppend s = .next t ∧ t.starter.pushBuf = l ++ r ∧
      (queueOf t q).entries = (queueOf s q).entries ++ [f] ∧ f.bytes = e.bytes ∧ f.source = .push ∧ t.mem = s.mem)

/-- FINISH, BATON and the push buffer. -/
def Obligations.FinishAndBaton : Prop := Says.FinishOfACore ∧ Says.AppendingBatons
/-! ### Heats and messages -/

namespace Sys2Proof.Says

/-- A heat instruction reaches its record: aligned, translated, homed on this package, no access of the core's own to it in flight (R277). -/
def heatAt (s : State) (c : Core) (va : Word) (writes : Bool) (e : Leaf) (rec : Nat) (c1 : Core) : Prop :=
  va.toNat % 256 = 0 ∧ c.replies = [] ∧
  translate s (kind s) c { need := if writes then .rw else .r, kind := if writes then .atomic else .load } va = .ok e rec c1 ∧ leafM e = true ∧
  rec / 2 ^ 48 % 2 ^ 11 = s.ownPkg ∧ openAt s (agentCode s.cur) rec 1280 = false

/-- The record is an open heat of k runners whose page is plain (R276). -/
def openRecord (s : State) (rec k : Nat) : Prop :=
  (∃ h, tfind s.heats rec = some h ∧ plainPage h.leaf) ∧ memRead s rec 1 = 1 ∧ memRead s (rec + 2) 1 = k ∧ k ≤ 64

/-- The state byte of runner i (R276): 0 pending, 1 running, 2 rewarded, 3 finished, 4 cancelled, 5 invalid reward. -/
def runnerState (s : State) (rec i : Nat) : Nat := memRead s (rec + 0x100 + 16 * i + 8) 1

/-- Every byte outside a heat record reads as before. -/
def outsideRecord (s t : State) (rec : Nat) : Prop := ∀ q, (q < rec ∨ rec + 0x500 ≤ q) → tget t.mem 0#8 q = tget s.mem 0#8 q

/-- The gang is the runner of its slot: its handle is the record's and its serial the slot's (R366). -/
def ownRunner (s : State) (rec serial : Nat) (g : Gang) : Prop :=
  bRunner g.bytes = true ∧ bHeat g.bytes ≠ 0 ∧ bHeat g.bytes = memRead s (rec + 4) 1 ∧ memRead s (rec + 0x100 + 16 * g.runner + 0xC) 4 % 2 ^ 24 = serial

/-- Another runner of the heat has not settled (R282). -/
def othersRun (s : State) (rec k i : Nat) : Prop := ∃ j, j < k ∧ j ≠ i ∧ runnerState s rec j < 2

end Sys2Proof.Says

/-- R276, R278, R363, R364, R365: HFORK raises ALIGN, PERM for a record on a page without M or homed elsewhere, HEAT_STATE from a runner, for a record whose status is not 0 and with no handle free, and ILLEGAL for
a record that breaks a rule. Otherwise it opens the record with the lowest free handle, its reserved bytes and bits kept (R7), stores the record's address into its argument block, appends one
entry per runner, and writes the handle; where xd is a port whose FIFO is full, the push comes when it has room (log entry 19, DEDUCED). Starter firmware away from its pass takes no entry (log entry 158). -/
def Obligations.HforkOpensAHeat : Prop :=
  ∀ d a s va c1 g, Unlocked (kind s) (own s) [a] [d] → readX (kind s) (own s) a = .ok (va, c1) → gangOf s c1 = some g → c1.replies = [] →
    (va.toNat % 256 ≠ 0 → Raises (.hfork d a) s .align va) ∧
    (∀ e rec c2, va.toNat % 256 = 0 → translate s (kind s) c1 { need := .rw, kind := .atomic } va = .ok e rec c2 →
      leafM e = false ∨ rec / 2 ^ 48 % 2 ^ 11 ≠ s.ownPkg → Raises (.hfork d a) s .perm va) ∧
    (∀ e rec c2, heatAt s c1 va true e rec c2 →
      (g.heat.isSome = true → Raises (.hfork d a) s .heatState va) ∧
      (g.heat = none → fenceOpen s (agentCode s.cur) 2 = false → ∀ ea pa c3, let arg := BitVec.ofNat 64 (memRead s (rec + 0x50) 8)
        arg.toNat % 8 = 0 → translate s (kind s) c2 { need := .w, kind := .store } arg = .ok ea pa c3 →
        writeBacksOpen s (agentCode s.cur) (fun x => x / 128 == pa / 128) = false →
        (memRead s rec 1 ≠ 0 → Raises (.hfork d a) s .heatState va) ∧
        (memRead s rec 1 = 0 → heatValid s rec = false → Raises (.hfork d a) s .illegal 0#64) ∧
        (memRead s rec 1 = 0 → heatValid s rec = true → (∀ h, 1 ≤ h → h < 256 → ∃ x ∈ s.heats, x.2.handle = h) →
          Raises (.hfork d a) s .heatState va) ∧
        (∀ h, memRead s rec 1 = 0 → heatValid s rec = true → 1 ≤ h → h < 256 → (∀ x ∈ s.heats, x.2.handle ≠ h) →
          (∀ l, 1 ≤ l → l < h → ∃ x ∈ s.heats, x.2.handle = l) → plainPage e → plainPage ea → c3.lines = [] →
          pa + 8 ≤ rec ∨ rec + 0x500 ≤ pa → passAway s = false →
          let k := memRead s (rec + 2) 1; let q := queueOfGang s g
          (queueOf s q).entries.length + k ≤ 64 →
          ∃ t es, exec (.hfork d a) s = .next t ∧
            (∀ c4, writeX (kind s) { c3 with replies := [] } d (BitVec.ofNat 64 h) = .ok c4 → coreOf t s.cur = retire c4) ∧
            (∀ w, writeX (kind s) { c3 with replies := [] } d (BitVec.ofNat 64 h) = .error w → coreOf t s.cur =
              retire { c3 with replies := [], inflight := c3.inflight ++ [scalarLanding { reg := d, remaining := 1, value := BitVec.ofNat 64 h }] }) ∧
            memRead t rec 1 = 1 ∧ memRead t (rec + 1) 1 = memRead s (rec + 1) 1 / 4 * 4 ∧ memRead t (rec + 4) 1 = h ∧ memRead t (rec + 5) 1 = 0 ∧
            memRead t (rec + 0x0C) 4 = 0 ∧ memRead t (rec + 0x18) 16 = 0 ∧ memRead t (rec + 0x28) 4 = 0 ∧
            (∀ i j, i < k → j < 16 → tget t.mem 0#8 (rec + 0x100 + 16 * i + j) =
              if j < 9 ∨ (12 ≤ j ∧ j < 15) then 0#8 else tget s.mem 0#8 (rec + 0x100 + 16 * i + j)) ∧
            memRead t pa 8 = va.toNat ∧ (∃ x, tfind t.heats rec = some x ∧ x.handle = h ∧ x.run = 0 ∧ x.ctx = g.ctx) ∧
            (queueOf t q).entries = (queueOf s q).entries ++ es ∧ es.length = k ∧
            (∀ i, (hi : i < es.length) → es[i].source = .runner rec i ∧ batonField es[i].bytes 0x53 1 = h ∧ bitAt (batonField es[i].bytes 0x0B 1) 1 = true ∧
              batonField es[i].bytes 0x18 32 = 0) ∧
            (∀ b, (b < rec ∨ rec + 0x500 ≤ b) → (b < pa ∨ pa + 8 ≤ b) → tget t.mem 0#8 b = tget s.mem 0#8 b))))

/-- R279, R366: HREWARD of a running runner into its own slot stores the 32-bit code: rewarded for a finite code, its present bit set, otherwise invalid reward; HEAT_STATE from any other gang and into a settled slot,
and a cancelled runner waits for its end. R280, R361: HCANCEL cancels a pending or running runner, does nothing to a settled one or a closed heat; HEAT_STATE with status 0, ILLEGAL for an index of
K or more. -/
def Sys2Proof.Says.RewardAndCancel : Prop :=
  (∀ a b s va w c1 c2 e rec c3 serial g, Unlocked (kind s) (own s) [a, b] [] → readX (kind s) (own s) a = .ok (va, c1) →
    readX (kind s) c1 b = .ok (w, c2) → heatAt s c2 va false e rec c3 → memberOfGang s c3 serial g →
    let i := g.runner; let v := w.toNat % 2 ^ 32
    let mine := ownRunner s rec serial g
    (¬ mine → Raises (.hreward a b) s .heatState va) ∧
    (mine → runnerState s rec i ≠ 1 → runnerState s rec i ≠ 4 → Raises (.hreward a b) s .heatState va) ∧
    (mine → runnerState s rec i = 4 → ∃ t, exec (.hreward a b) s = .next t ∧ (coreOf t s.cur).wait = .retired ∧ t.mem = s.mem ∧
      t.agenda = .event (.runnerRetire serial) :: s.agenda) ∧
    (∀ k, mine → runnerState s rec i = 1 → openRecord s rec k → i < k → othersRun s rec k i →
      ∃ t, exec (.hreward a b) s = .next t ∧ coreOf t s.cur = retire c3 ∧ memRead t (rec + 0x100 + 16 * i) 4 = v ∧
        (v / 2 ^ 23 % 2 ^ 8 < 255 → runnerState t rec i = 2 ∧ memRead t (rec + 0x20) 8 = memRead s (rec + 0x20) 8 ||| 2 ^ i) ∧
        (v / 2 ^ 23 % 2 ^ 8 = 255 → runnerState t rec i = 5 ∧ memRead t (rec + 0x20) 8 = memRead s (rec + 0x20) 8) ∧
        (∀ j, j ≠ i → j < k → runnerState t rec j = runnerState s rec j) ∧ outsideRecord s t rec)) ∧
  (∀ a b s va n c1 c2 e rec c3, Unlocked (kind s) (own s) [a, b] [] → readX (kind s) (own s) a = .ok (va, c1) →
    readX (kind s) c1 b = .ok (n, c2) → heatAt s c2 va true e rec c3 →
    (memRead s rec 1 = 0 → Raises (.hcancel a b) s .heatState va) ∧
    (memRead s rec 1 ≠ 0 → memRead s (rec + 2) 1 ≤ n.toNat → Raises (.hcancel a b) s .illegal 0#64) ∧
    (memRead s rec 1 ≠ 0 → n.toNat < memRead s (rec + 2) 1 → (memRead s rec 1 ≠ 1 ∨ 2 ≤ runnerState s rec n.toNat) → Completes (.hcancel a b) s c3) ∧
    (∀ k, openRecord s rec k → n.toNat < k → runnerState s rec n.toNat < 2 → othersRun s rec k n.toNat →
      ∃ t, exec (.hcancel a b) s = .next t ∧ coreOf t s.cur = retire c3 ∧ runnerState t rec n.toNat = 4 ∧
        (∀ j, j ≠ n.toNat → j < k → runnerState t rec j = runnerState s rec j) ∧ outsideRecord s t rec))

/-- R281, R370: HWAIT on an open heat waits and takes its place among the record's waiters; on a closed one it writes status + 256 times the flags and its generation advances; answered, it writes
the answer; HEAT_STATE for status 0 and for the heat's own runner. R282: at the deadline every unsettled runner is cancelled, the deadline flag is set and the heat closes with its run
time in the record. -/
def Sys2Proof.Says.HwaitAndDeadline : Prop :=
  (∀ d a s va c1, Unlocked (kind s) (own s) [a] [d] → readX (kind s) (own s) a = .ok (va, c1) →
    (∀ w r c2, c1.replies = .ok w :: r → writeX (kind s) c1 d w = .ok c2 → Completes (.hwait d a) s c2) ∧
    (∀ e rec c2 serial g, heatAt s c1 va false e rec c2 → memberOfGang s c2 serial g →
      (ownRunner s rec serial g → Raises (.hwait d a) s .heatState va) ∧
      (¬ ownRunner s rec serial g →
        (memRead s rec 1 = 0 → Raises (.hwait d a) s .heatState va) ∧
        (memRead s rec 1 = 1 → ∃ t, exec (.hwait d a) s = .next t ∧ waitsFor s t (.hwait rec) ∧
          t = { s with cores := t.cores, heatWaiters := s.heatWaiters ++ [(waiter s serial g, rec)] }) ∧
        (∀ c3, 2 ≤ memRead s rec 1 →
          writeX (kind s) (genAdvance c2) d (BitVec.ofNat 64 (memRead s rec 1 + 256 * memRead s (rec + 1) 1)) = .ok c3 →
          Completes (.hwait d a) s c3)))) ∧
  (∀ s rec h, tfind s.heats rec = some h → h.deadline ≠ 0 → h.deadline ≤ h.run → plainPage h.leaf → memRead s (rec + 2) 1 ≤ 64 →
    (∀ e ∈ s.heatWaiters, e.2 = rec → ∀ g, tfind s.gangs e.1.serial = some g → g.away = false) →
    ∃ t, exec (.heatDeadline rec) s = .next t ∧ tfind t.heats rec = none ∧ 2 ≤ memRead t rec 1 ∧ memRead t rec 1 ≤ 4 ∧
      memRead t (rec + 1) 1 / 2 % 2 = 1 ∧ memRead t (rec + 0x18) 8 = h.run % 2 ^ 64 ∧
      (∀ i, i < memRead s (rec + 2) 1 → runnerState t rec i = if runnerState s rec i < 2 then 4 else runnerState s rec i) ∧
      (∀ e ∈ t.heatWaiters, e.2 ≠ rec) ∧ outsideRecord s t rec)

/-- R351, R352, R353, R350: DSEND to an agent of this package sends the 32 bytes at its scratch operand with its own address and waits, and completes once accepted; ILLEGAL on a
reserved bit or class, PRIV for a supervisor's class from a program, BOUNDARY beyond the gang, ALIGN on a misaligned operand. DRECV waits on an empty queue, and otherwise
takes the oldest entry: its 32 bytes into scratch, its sender into the register; first writes are logged, and without room for their records it raises UNDO_FULL (R262, R263). DPOLL writes the number of entries. -/
def Obligations.Messages : Prop :=
  (∀ a b s x y c1 c2, Unlocked (kind s) (own s) [a, b] [] → readX (kind s) (own s) a = .ok (x, c1) → readX (kind s) c1 b = .ok (y, c2) →
    (∀ w r, c2.replies = .ok w :: r → ∃ l, Completes (.dsend a b) s { c2 with replies := l }) ∧
    (c2.replies = [] →
      (x.toNat / 2 ^ 27 ≠ 0 ∨ 4 ≤ x.toNat / 2 ^ 12 % 8 → Raises (.dsend a b) s .illegal 0#64) ∧
      (x.toNat < 2 ^ 15 → 2 ≤ x.toNat / 2 ^ 12 → x.toNat / 2 ^ 12 < 4 → kind s ≠ .supervisor → Raises (.dsend a b) s .priv 0#64) ∧
      (∀ g, gangOf s c2 = some g → g.first + g.lanes ≤ 32 → x.toNat < 2 ^ 13 →
        let span := if x.toNat < 2 ^ 12 then 64 * g.lanes else 12 * g.lanes
        let o := y.toNat % 2 ^ 20
        (span ≤ x.toNat % 2 ^ 12 → Raises (.dsend a b) s .boundary x) ∧
        (x.toNat % 2 ^ 12 < span → o % 32 ≠ 0 → Raises (.dsend a b) s .align (BitVec.ofNat 64 (y.toNat % 2 ^ 32))) ∧
        (x.toNat % 2 ^ 12 < span → scratchCheck s s.cur (kind s) c2 y = none →
          let dst : Agent := if x.toNat < 2 ^ 12 then .tile (64 * g.first + x.toNat) else .mem (memOfOffset g.first (x.toNat % 2 ^ 12))
          (dst = s.cur → c2.recvq.length < 16) → scoreConflict c2.score (boundRanges c2.bufs (fun b => b.vis) o 32) [] = false →
          ∃ t m, exec (.dsend a b) s = .next t ∧ waitsFor s t .dsend ∧ (coreOf t s.cur).pend = (own s).pend ++ scratchUE c2 (seen c2 o 32) ∧ t = { s with cores := t.cores, net := s.net ++
              [{ src := agentCode s.cur, addr := 0, kind := .message (agentCode dst) m, ctx := g.ctx }] } ∧
            m.payload = BitVec.ofNat 256 (ofBytes ((List.range 32).map fun i => tget c2.scratch 0#8 (visible c2.bufs (o + i)))) ∧
            (∀ n, s.cur = .tile n → 64 * g.first ≤ n → n < 64 * (g.first + g.lanes) → m.sender = BitVec.ofNat 64 (n - 64 * g.first)))))) ∧
  (∀ d a s y c1, Unlocked (kind s) (own s) [a] [d] → readX (kind s) (own s) a = .ok (y, c1) → let o := y.toNat % 2 ^ 20
    (o % 32 ≠ 0 → Raises (.drecv d a) s .align (BitVec.ofNat 64 (y.toNat % 2 ^ 32))) ∧
    (scratchCheck s s.cur (kind s) c1 y = none →
      (c1.recvq = [] → ∃ t, exec (.drecv d a) s = .next t ∧ (coreOf t s.cur).wait = .drecv ∧ (coreOf t s.cur).pc = (own s).pc ∧
        (coreOf t s.cur).x = (own s).x) ∧
      (∀ e r w (p : BitVec 256), c1.recvq = e :: r →
        (e = .message { sender := w, payload := p } ∨ ∃ q, e = .miss q ∧ w = 0x7000#64 ∧ p = missBytes s q) →
        scoreConflict c1.score [] (rangesOf (seen c1 o 32)) = false →
        let c0 : Core := { c1 with recvq := r, fillTarget := (match e with | .miss q => some q | .message _ => c1.fillTarget) }
        let fs := firstWritten s (kind s) c0 (seen c0 o 32)
        (noUndoRoom c0 fs → Raises (.drecv d a) s .undoFull (BitVec.ofNat 64 (32 * fs.headD 0))) ∧
        (¬ noUndoRoom c0 fs → ∃ c2, scratchStored s c0 c2 fs (seen c0 o 32) (0xE000 ≤ c0.undoFill) ∧
          (∀ c3, writeX (kind s) c2 d w = .ok c3 → Completes (.drecv d a) s c3) ∧
          ((∀ i j, i < 32 → j < 32 → visible c1.bufs (o + i) = visible c1.bufs (o + j) → i = j) →
            ∀ i, i < 32 → tget c2.scratch 0#8 (visible c1.bufs (o + i)) = p.extractLsb' (8 * i) 8))))) ∧
  (∀ d s c2, Unlocked (kind s) (own s) [] [d] → writeX (kind s) (own s) d (BitVec.ofNat 64 (own s).recvq.length) = .ok c2 → Completes (.dpoll d) s c2)

namespace Sys2Proof.Says

/-- Core c reaches the collective descriptor at va: it is aligned, its page grants reading and writing, and no store of the core's own to it is in flight (R193, R297). -/
def collDescriptor (s : State) (c : Core) (va : Word) (e : Leaf) (phys : Nat) (c1 : Core) : Prop :=
  va.toNat % 64 = 0 ∧ c.replies = [] ∧ translate s (kind s) c { need := .rw, kind := .atomic } va = .ok e phys c1 ∧ unroutable s phys = false ∧
  openAt s (agentCode s.cur) phys 64 = false

/-- Core c reaches the descriptor, and the collective's source and destination, aligned, through pages of their own: their entries are e, es and ed (R297). -/
def collPages (s : State) (c : Core) (va : Word) (e : Leaf) (phys : Nat) (es ed : Leaf) (c3 : Core) : Prop :=
  let b : BitVec 512 := BitVec.ofNat 512 (memRead s phys 64)
  collSrc b % 8 = 0 ∧ collDst b % 8 = 0 ∧ ∃ c1, collDescriptor s c va e phys c1 ∧
    ∃ ps c2, translate s (kind s) c1 { need := .r, kind := .atomic } (BitVec.ofNat 64 (collSrc b)) = .ok es ps c2 ∧ unroutable s ps = false ∧
      ∃ pd, translate s (kind s) c2 { need := .w, kind := .atomic } (BitVec.ofNat 64 (collDst b)) = .ok ed pd c3 ∧ unroutable s pd = false

/-- Every page of the collective has M (R297). -/
def collectiveAt (s : State) (c : Core) (va : Word) (e : Leaf) (phys : Nat) (c3 : Core) : Prop :=
  ∃ es ed, collPages s c va e phys es ed c3 ∧ leafM e = true ∧ leafM es = true ∧ leafM ed = true

end Sys2Proof.Says

/-- R296, R297, R431: XCOLL with a descriptor that its checks let through waits as FENCE b=2, freezes while 16 collectives of the context run, and starts its collective: status 1; ILLEGAL on a bad descriptor, OVERLAP on
source and destination that overlap and differ, ALIGN on its descriptor, source and destination, the fault of a translation, PERM on an H page among them, and PERM on a page without M. R298, R432:
XWAIT completes on status 2, waits on 1, raises ILLEGAL on 0 and the stored cause on 3. R297: COLLECTIVE_COMPLETE writes the result of the contributions, which the data that came ahead of them begin,
then status 2. The order of the checks, XWAIT on status 0 and the fold of the contributions are log entries 60 to 62 (DEDUCED), the rights of XCOLL and XWAIT log entry 167. -/
def Obligations.Collectives : Prop :=
  (∀ a s va c1, Unlocked (kind s) (own s) [a] [] → readX (kind s) (own s) a = .ok (va, c1) →
    (va.toNat % 64 ≠ 0 → Raises (.xcoll a) s .align va ∧ Raises (.xwait a) s .align va) ∧
    (∀ x, va.toNat % 64 = 0 → c1.replies = [] → translate s (kind s) c1 { need := .rw, kind := .atomic } va = .fail x → x ≠ .deadlock →
      ((ctxOf s c1).isSome = true → Raises (.xcoll a) s x va) ∧ Raises (.xwait a) s x va) ∧
    (∀ e phys c2, collDescriptor s c1 va e phys c2 → (ctxOf s c1).isSome = true → let b : BitVec 512 := BitVec.ofNat 512 (memRead s phys 64)
      let src := BitVec.ofNat 64 (collSrc b); let dst := BitVec.ofNat 64 (collDst b)
      (collSrc b % 8 ≠ 0 → Raises (.xcoll a) s .align src) ∧ (collSrc b % 8 = 0 → collDst b % 8 ≠ 0 → Raises (.xcoll a) s .align dst) ∧
      (∀ x, collSrc b % 8 = 0 → collDst b % 8 = 0 → translate s (kind s) c2 { need := .r, kind := .atomic } src = .fail x → x ≠ .deadlock →
        Raises (.xcoll a) s x src)) ∧
    (∀ e phys es ed c3, collPages s c1 va e phys es ed c3 → (ctxOf s c1).isSome = true → let b : BitVec 512 := BitVec.ofNat 512 (memRead s phys 64)
      (leafM e = false → Raises (.xcoll a) s .perm va) ∧
      (leafM e = true → leafM es = false → Raises (.xcoll a) s .perm (BitVec.ofNat 64 (collSrc b))) ∧
      (leafM e = true → leafM es = true → leafM ed = false → Raises (.xcoll a) s .perm (BitVec.ofNat 64 (collDst b)))) ∧
    (∀ e phys c3 ctx, collectiveAt s c1 va e phys c3 → ctxOf s c1 = some ctx → let b : BitVec 512 := BitVec.ofNat 512 (memRead s phys 64)
      (collBad b = true → Raises (.xcoll a) s .illegal 0#64) ∧
      (collBad b = false → collOverlap b (contextOf s ctx).pkgs.length = true → Raises (.xcoll a) s .overlap va) ∧
      (collBad b = false → collOverlap b (contextOf s ctx).pkgs.length = false → (∃ y ∈ s.collectives, collSeq y.desc = collSeq b) → Raises (.xcoll a) s .illegal 0#64) ∧
      (collBad b = false → collOverlap b (contextOf s ctx).pkgs.length = false → (∀ y ∈ s.collectives, collSeq y.desc ≠ collSeq b) →
        (fenceOpen s (agentCode s.cur) 2 = true → ∃ t, exec (.xcoll a) s = .next t ∧ t = { s with cores := t.cores } ∧ (coreOf t s.cur).wait = .fence ∧
          (coreOf t s.cur).pc = (own s).pc ∧ (coreOf t s.cur).x = (own s).x) ∧
        (fenceOpen s (agentCode s.cur) 2 = false →
        (16 ≤ (s.collectives.filter fun y => y.ctx == ctx).length → exec (.xcoll a) s = .next (setCore s s.cur { own s with wait := .collectives })) ∧
        ((s.collectives.filter fun y => y.ctx == ctx).length < 16 → plainPage e →
          ∃ t x, exec (.xcoll a) s = .next t ∧ coreOf t s.cur = retire c3 ∧ t = { s with cores := t.cores, mem := t.mem, poisoned := t.poisoned, collectives := s.collectives ++ [x] } ∧
            x.ctx = ctx ∧ x.desc = b ∧ x.descAt = phys ∧ x.gang = c3.gang ∧ memRead t (phys + 0x20) 8 = 1 ∧
            (∀ q, (q < phys + 0x20 ∨ phys + 0x28 ≤ q) → tget t.mem 0#8 q = tget s.mem 0#8 q))))) ∧
    (∀ e phys c2, va.toNat % 64 = 0 → c1.replies = [] → translate s (kind s) c1 { need := .rw, kind := .atomic } va = .ok e phys c2 →
      unroutable s phys = false →
      (leafM e = false → Raises (.xwait a) s .perm va) ∧
      (leafM e = true → openAt s (agentCode s.cur) phys 64 = false → let st := memRead s (phys + 0x20) 8
        (st % 4 = 0 → Raises (.xwait a) s .illegal 0#64) ∧
        (st % 4 = 1 → ∃ t, exec (.xwait a) s = .next t ∧ (coreOf t s.cur).wait = .xwait va ∧ (coreOf t s.cur).pc = (own s).pc ∧ (coreOf t s.cur).x = (own s).x) ∧
        (st % 4 = 2 → Completes (.xwait a) s c2) ∧
        (∀ c : Cause, st % 4 = 3 → st / 2 ^ 8 % 2 ^ 8 = c.code.toNat → c ≠ .deadlock →
          exec (.xwait a) s = .next (takeCause s s.cur { cause := c, addr := va, deferred := c == .remoteLost }))))) ∧
  (∀ s idx x others order bs ed pd, s.collectives[idx]? = some x → (contextOf s x.ctx).running = true → (contextOf s x.ctx).stopped = none →
    (∀ n g, x.gang = some n → tfind s.gangs n = some g → gangAway s g = false) → dataCaptured s x = false → dataAgrees s x others = true →
    collWhole x.desc s.ownPkg (contextOf s x.ctx).pkgs others order = true → plainPage x.leaf →
    unitRead s x.ctx x.cfg { need := .r, scalar := false, memSide := true } (collSrc x.desc) (collBytes x.desc) = .ok bs →
    let r := collResult x.desc ((s.ownPkg, bs) :: others) order
    collDst x.desc % 4096 + r.length ≤ 4096 → 0 < r.length → translateFor s x.ctx x.cfg { need := .w, scalar := false, memSide := true } (collDst x.desc) = .ok (ed, pd) → plainPage ed →
    (pd + r.length ≤ x.descAt + 0x20 ∨ x.descAt + 0x28 ≤ pd) →
    ∃ t, exec (.collectiveComplete idx others order) s = .next t ∧
      t = { s with mem := t.mem, poisoned := t.poisoned, contexts := t.contexts, collectives := s.collectives.eraseIdx idx } ∧
      (∀ y, contextOf t y = if y = x.ctx then { contextOf s y with received := (contextOf s y).received.filter fun e => e.1 != collSeq x.desc } else contextOf s y) ∧
      memRead t (x.descAt + 0x20) 8 = 2 ∧ memBytes t pd r.length = r)

/-- How runners settle, and who waits for it. -/
def Obligations.HeatSettling : Prop := Says.RewardAndCancel ∧ Says.HwaitAndDeadline
/-! ### Laps -/

namespace Sys2Proof.Says

/-- The undo record that UNDOSPILL makes of record i of the scratch undo area of a tile (R259, R262, R264). -/
def spilled (c : Core) (serial tile i : Nat) : UndoRecord :=
  let b (off n : Nat) : Nat := ofBytes (tgetList c.scratch 0#8 (0xF0000 + 64 * i + off) n)
  { addr := b 0 4, lap := b 4 4, tile := some (serial, tile), old := BitVec.ofNat 256 (b 32 32) }

/-- Records 0 .. k − 1 of tile n's scratch undo area stand in HBM from base on, their reserved bytes as they were (R7, R259), and no byte outside them differs. -/
def spilledAt (s t : State) (serial tile base k : Nat) : Prop :=
  (∀ i, i < k → memBytes t (base + 64 * i) 64 = undoBytes (memRead s (base + 64 * i + 0x18) 8) (spilled (own s) serial tile i)) ∧
  ∀ q, (q < base ∨ base + 64 * k ≤ q) → tget t.mem 0#8 q = tget s.mem 0#8 q

/-- The event of a lap leaves the gangs of other contexts, the network and the queues as they were. -/
def sealFrame (s t : State) : Prop := t.net = s.net ∧ t.starter = s.starter ∧ t.quads = s.quads ∧ t.hostMem = s.hostMem

end Sys2Proof.Says

/-- R264, R417: UNDOSPILL without laps raises ILLEGAL; with laps it empties the tile's scratch undo area, whose records go behind those of the chunk the tile is filling, or into
the lowest free chunk of the north half; with none free the job stops and the area keeps its records (R261). R260: RECLAMATION_DONE clears the tags that
name the laps a memory core logged, frees its chunks and takes the core off the list. R268: IDLE_SEAL requests a seal once for an idle period of an idle job. -/
def Sys2Proof.Says.SpillReclaimIdle : Prop :=
  (∀ s n serial g, s.cur = .tile n → memberOfGang s (own s) serial g →
    ((contextOf s g.ctx).laps = false → Raises .undospill s .illegal 0#64) ∧
    ((contextOf s g.ctx).laps = true → let k := (own s).undoFill / 64; let x := contextOf s g.ctx
      (k = 0 → Completes .undospill s { own s with undoFill := 0 }) ∧
      (0 < k → chunkOf x (384 + n) false = none → freeChunk x false = none → ∃ t, exec .undospill s = .next t ∧ (contextOf t g.ctx).stopped.isSome = true ∧
        (coreOf t s.cur).wait = .fence ∧ (coreOf t s.cur).pc = (own s).pc ∧ (coreOf t s.cur).undoFill = (own s).undoFill ∧ t.mem = s.mem) ∧
      (∀ i, 0 < k → k ≤ 0x4000 → chunkOf x (384 + n) false = none → freeChunk x false = some i → ∃ t c h, exec .undospill s = .next t ∧
        coreOf t s.cur = retire c ∧ c = { own s with undoFill := 0, pend := c.pend } ∧ h ∈ (contextOf t g.ctx).chunks ∧
        h = { mc := 384 + n, south := false, index := i, lap := x.lapId.toNat, records := (List.range k).map (spilled (own s) serial (n - 64 * g.first)) } ∧
        (contextOf t g.ctx).undoUse = x.undoUse + 2 ^ 20 ∧ spilledAt s t serial (n - 64 * g.first) (s.ownPkg * 2 ^ 48 + x.undoN + i * 2 ^ 20) k) ∧
      (∀ h, chunkOf x (384 + n) false = some h → h.records.length + k ≤ 0x4000 → ∃ t h', exec .undospill s = .next t ∧
        coreOf t s.cur = retire { own s with undoFill := 0 } ∧ h' ∈ (contextOf t g.ctx).chunks ∧
        h' = { h with records := h.records ++ (List.range k).map (spilled (own s) serial (n - 64 * g.first)) } ∧
        (contextOf t g.ctx).undoUse = x.undoUse ∧
        spilledAt s t serial (n - 64 * g.first) (s.ownPkg * 2 ^ 48 + x.undoN + h.index * 2 ^ 20 + 64 * h.records.length) k))) ∧
  (∀ s ctx mc, let x := contextOf s ctx
    mc ∈ x.reclaiming → ∃ t, exec (.reclamationDone ctx mc) s = .next t ∧ t = { s with contexts := t.contexts, lapTags := t.lapTags } ∧
      (∀ m, m ∈ (contextOf t ctx).reclaiming ↔ m ∈ x.reclaiming ∧ m ≠ mc) ∧
      (∀ h, h ∈ (contextOf t ctx).chunks ↔ h ∈ x.chunks ∧ ¬ (h.mc = mc ∧ h.lap ≠ x.lapId.toNat)) ∧
      (∀ sec, tget t.lapTags 0#2 sec = tget s.lapTags 0#2 sec ∨ tget t.lapTags 0#2 sec = 0#2) ∧
      (∀ h ∈ x.chunks, h.mc = mc → h.lap ≠ x.lapId.toNat → ∀ r ∈ h.records, r.tile = none →
        tget s.lapTags 0#2 ((s.ownPkg * 2 ^ 48 + r.addr) / 32) = lapTag (BitVec.ofNat 32 r.lap) →
        tget t.lapTags 0#2 ((s.ownPkg * 2 ^ 48 + r.addr) / 32) = 0#2)) ∧
  (∀ s ctx, let x := contextOf s ctx
    x.laps = true → x.resident = true → (∀ e ∈ s.gangs, e.2.ctx ≠ ctx) →
    (∀ e ∈ s.starter.queues, e.2.bound = true → e.2.ctx = ctx → e.2.entries = [] ∧ e.2.current = none) →
    (∀ e ∈ s.starter.pushBuf, (queueOf s e.1).ctx ≠ ctx) → x.sealPending = false →
    exec (.idleSeal ctx) s = .next (if x.idleSealed then s else setContext s ctx { x with sealPending := true, idleSealed := true }))

/-- R267, R269: a gang at a sealing hurdle at which all have arrived and landed sends its dirty sectors home, and, quiet, is at the seal, its record written. R257, R260, R262, R266, R268, R368: the
commit with every gang of the context at the seal advances lap_id by 1, clears undo use, staging, rollback count and logged bits, keeps the seal, frees the chunks of spilled records
of the lap (they hold no tags), starts the reclamation of the memory cores, and lets every member go on behind its hurdle. -/
def Sys2Proof.Says.SealAndCommit : Prop :=
  (∀ s serial g, tfind s.gangs serial = some g → g.state = .running → g.stopping = false → g.atSeal = false → g.hurdleOn = true →
    g.sealing = true → sealArrived s serial g = true →
    (gangDirty s g = true → ∃ t, exec (.gangAtSeal serial) s = .next t ∧ t.gangs = s.gangs ∧ t.mem = s.mem ∧
      (∃ ps, t.net = s.net ++ ps ∧ ∀ p ∈ ps, ∃ m d e, p.kind = .writeBack m d e)) ∧
    (gangDirty s g = false → gangQuiet s g = true → ∃ t h, exec (.gangAtSeal serial) s = .next t ∧ t = { s with gangs := t.gangs, contexts := t.contexts, mem := t.mem, poisoned := t.poisoned } ∧
      (∀ x, contextOf t x = { contextOf s x with oldAreas := (contextOf t x).oldAreas }) ∧
      tfind t.gangs serial = some h ∧ h.image.isSome = true ∧ h = { g with atSeal := true, sealAt := h.sealAt, image := h.image } ∧
      (∀ p, p ≠ serial → tfind t.gangs p = tfind s.gangs p))) ∧
  (∀ s ctx, let x := contextOf s ctx
    sealReady s ctx = true → (∀ e ∈ s.heats, e.2.ctx ≠ ctx) → x.stagedWrites = [] → x.stagedRecords = [] → x.heldRecords = [] → x.heldSteps = [] →
    ∃ t, exec (.sealCommit ctx) s = .next t ∧ sealFrame s t ∧ t.mem = s.mem ∧ (let y := contextOf t ctx
        y.lapId = x.lapId + 1#32 ∧ y.undoUse = 0 ∧ y.rollbacks = 0 ∧ y.stageFill = 0 ∧ y.sealPending = false ∧ y.laps = true ∧
        (∀ h, h ∈ y.chunks ↔ h ∈ x.chunks ∧ (h.lap ≠ x.lapId.toNat ∨ h.mc < 384)) ∧
        (∀ m, m ∈ y.reclaiming ↔ ∃ h ∈ x.chunks, h.mc = m ∧ h.mc < 384 ∧ h.lap = x.lapId.toNat) ∧
        (∃ k, y.current = some k ∧ k.held = [] ∧ ∀ e ∈ k.gangs, ∃ g ∈ s.gangs, g.1 = e.serial ∧ g.2.ctx = ctx ∧ g.2.atSeal = true)) ∧
      (∀ a, (coreOf s a).logCtx = some ctx → (coreOf t a).logged = [] ∧ (coreOf t a).undoFill = 0) ∧
      (∀ serial g, tfind s.gangs serial = some g → g.ctx = ctx → g.atSeal = true → onLanes g →
        (∃ h, tfind t.gangs serial = some h ∧ h.hurdleOn = false ∧ h.sealing = false ∧ h.atSeal = false ∧ h.arrived = [] ∧ h.image = none) ∧
        ∀ m ∈ membersOf g.lanes, behindHurdle (coreOf s (memberAgent g.first m)) (coreOf t (memberAgent g.first m))))

namespace Sys2Proof.Says

/-- A rollback of the context has been triggered, here or by another package of its job (R271). -/
def rollbackDue (s : State) (ctx : Nat) : Prop :=
  (contextOf s ctx).laps = true ∧ ((contextOf s ctx).trigger.isSome = true ∨ ∃ p ∈ (contextOf s ctx).pkgs, p ≠ s.ownPkg)

/-- Nothing of the context's job is on the network, and no scratch undo area that its lap has filled holds an error. -/
def nothingUnderway (s : State) (ctx : Nat) : Prop :=
  (∀ e ∈ s.gangs, e.2.ctx = ctx → e.2.state ≠ .saved → ∀ p ∈ s.net, p.src ∉ gangCodes e.2) ∧ (∀ p ∈ s.net, p.ctx ≠ ctx) ∧
  ∀ c ∈ areaCores s ctx, areaLost c = false

/-- The trigger is the loss of a package of the job to which no port leads, and which therefore does not return (R218, R295). -/
def lostForGood (s : State) (ctx : Nat) : Prop :=
  (contextOf s ctx).trigger = some .remoteLost ∧ ∃ p ∈ (contextOf s ctx).pkgs, p ≠ s.ownPkg ∧ tget s.routes 0#24 p = 0#24

/-- The undo records of the current lap of a context, oldest first in each chunk (R259). -/
def lapUndo (s : State) (ctx : Nat) : List UndoRecord :=
  (((contextOf s ctx).chunks.filter fun h => h.lap == (contextOf s ctx).lapId.toNat).flatMap fun h => h.records)

end Sys2Proof.Says

/-- R271, R272, R273: a rollback below its limit undoes the lap: the oldest record of each logged sector comes back, tags and chunks of the lap go, staging is dropped, the count of rollbacks advances, lap_id stays, and the
gangs of the context are those at the seal. At the limit the job stops with a notice of a persistent fault, and it stops as well when a package that does not return is lost (R218) and when the lap's undo
records or its seal are lost; while an unlogged sector is lost the rollback waits for its bytes, and a further trigger counts. -/
def Obligations.Rollback : Prop :=
  (∀ s ctx, rollbackDue s ctx → lostForGood s ctx → (contextOf s ctx).stopped = none → ∃ t, exec (.rollback ctx) s = .next t ∧ t.mem = s.mem ∧
    t.notices = s.notices ++ [.jobStopped ctx .remoteLost] ∧ (contextOf t ctx).stopped = some .remoteLost ∧ (contextOf t ctx).trigger = none) ∧
  (∀ s ctx, rollbackDue s ctx → let x := contextOf s ctx
    ¬ lostForGood s ctx → rollbackLimit x ≤ x.rollbacks → x.stopped = none → ∃ t, exec (.rollback ctx) s = .next t ∧ t.mem = s.mem ∧
      t.notices = s.notices ++ [.persistent ctx, .jobStopped ctx (x.trigger.getD .ue)] ∧
      (contextOf t ctx).stopped = some (x.trigger.getD .ue) ∧ (contextOf t ctx).running = x.running ∧ (contextOf t ctx).trigger = none) ∧
  (∀ s ctx, rollbackDue s ctx → let x := contextOf s ctx
    ¬ lostForGood s ctx → x.rollbacks < rollbackLimit x → x.stopped = none → undoLost (repairPages s ctx) ctx = true → ∃ t, exec (.rollback ctx) s = .next t ∧
      t.notices = s.notices ++ [.jobStopped ctx (x.trigger.getD .ue)] ∧ (contextOf t ctx).stopped = some (x.trigger.getD .ue) ∧
      (contextOf t ctx).trigger = none ∧ t.gangs = s.gangs) ∧
  (∀ s ctx, rollbackDue s ctx → let x := contextOf s ctx; let lost := lostSectors (repairPages s ctx) ctx
    ¬ lostForGood s ctx → x.rollbacks < rollbackLimit x → undoLost (repairPages s ctx) ctx = false → lost ≠ [] → nothingUnderway s ctx →
    ∃ t, exec (.rollback ctx) s = .next t ∧ t.notices = s.notices ++ lost.map (fun sec => .poisoned (32 * sec)) ∧
      (∀ y, contextOf t y = if y = ctx then { x with awaiting := true } else contextOf s y) ∧
      ∀ serial g, tfind s.gangs serial = some g → g.ctx = ctx → g.state = .running → ∃ h, tfind t.gangs serial = some h ∧ h = { g with stopping := true }) ∧
  (∀ s ctx, rollbackDue s ctx → let x := contextOf s ctx
    ¬ lostForGood s ctx → x.rollbacks < rollbackLimit x → s.poisoned = [] → nothingUnderway s ctx → (∀ e ∈ s.gangs, e.2.ctx ≠ ctx) → x.current = none →
    (∀ r ∈ lapUndo s ctx, r.tile = none ∧ r.dup = false ∧ r.addr % 32 = 0) →
    ∃ t, exec (.rollback ctx) s = .next t ∧ t.net = s.net ∧ t.gangs = s.gangs ∧
      (∀ l r l', lapUndo s ctx = l ++ r :: l' → (∀ q ∈ l, q.addr ≠ r.addr) →
        memBytes t (s.ownPkg * 2 ^ 48 + r.addr) 32 = toBytes 32 r.old.toNat ∧ tget t.lapTags 0#2 ((s.ownPkg * 2 ^ 48 + r.addr) / 32) = 0#2) ∧
      (∀ q, (∀ r ∈ lapUndo s ctx, q < s.ownPkg * 2 ^ 48 + r.addr ∨ s.ownPkg * 2 ^ 48 + r.addr + 32 ≤ q) → tget t.mem 0#8 q = tget s.mem 0#8 q) ∧
      (let y := contextOf t ctx
       y.rollbacks = x.rollbacks + 1 ∧ y.trigger = none ∧ y.lapId = x.lapId ∧ y.undoUse = 0 ∧ y.stagedWrites = [] ∧ y.stagedRecords = [] ∧
       y.stageFill = 0 ∧ y.heldSteps = [] ∧ y.awaiting = false ∧ (∀ h ∈ y.chunks, h.lap ≠ x.lapId.toNat))) ∧
  (∀ s ctx, rollbackDue s ctx → let x := contextOf s ctx; let kept := x.current.getD {}
    ¬ lostForGood s ctx → x.rollbacks < rollbackLimit x → s.poisoned = [] → kept.held = [] → nothingUnderway s ctx →
    ∃ t, exec (.rollback ctx) s = .next t ∧ (contextOf t ctx).rollbacks = x.rollbacks + 1 ∧ (contextOf t ctx).trigger = none ∧
      (contextOf t ctx).lapId = x.lapId ∧
      (∀ serial h, tfind t.gangs serial = some h → h.ctx = ctx → ∃ e ∈ kept.gangs, e.serial = serial) ∧
      (∀ e ∈ kept.gangs, ∃ h, tfind t.gangs e.serial = some h ∧ (h.state = .saved ∨ h.state = .restoring ∨ h.state = .running)))

/-- Undo areas, seals and their commit. -/
def Obligations.SealsAndReclamation : Prop := Says.SpillReclaimIdle ∧ Says.SealAndCommit
/-! ### The Starter -/

namespace Sys2Proof.Says

/-- The Starter serves: the package is ready and runs, its hardware has nothing else to go on with, no entry of the time-triggered table is due, no saved gang waits
for lanes. -/
def onlyQueues (s : State) : Prop :=
  s.mgmt.ready = true ∧ starterRests s ∧ s.starter.forks = [] ∧ firmwareRuns s = false ∧ s.mgmt.thermalStop = false ∧ s.starter.switching = none ∧
  (∀ e ∈ s.starter.ttable, entryDue s e.2 = false) ∧ (∀ e ∈ s.gangs, ¬ (e.2.state = .saved ∧ e.2.resume = true))

/-- The head of every bound queue has been read and waits for its counter (R33). -/
def headsWait (s : State) : Prop :=
  ∀ q, ((queueOf s q).bound = true → (queueOf s q).current.isSome = true) ∧
    ∀ n b, (queueOf s q).current = some n → batonOf s n = some b → b.ready = none ∧ b.depMet = false ∧ ∃ v, depWord s b.ctx b.bytes = .ok v ∧ v ≠ 0

/-- Baton n is the one ready head of the package, of one instance: its queue is q, its context is served. -/
def oneReadyHead (s : State) (q n : Nat) (b : Baton) (r : Queue) : Prop :=
  s.starter.queues = [(q, r)] ∧ q < 256 ∧ r.bound = true ∧ r.current = some n ∧ batonOf s n = some b ∧ b.queue = q ∧ b.stage = .head ∧
  b.ready.isSome = true ∧ b.placed = 0 ∧ bCount b.bytes = 1 ∧ b.runner = none ∧ mayPlace s b.ctx = true ∧ 1 ≤ bLanes b.bytes ∧ bLanes b.bytes ≤ 32

/-- No other runner of the gang's heat is saved or stopping (R44, R285). -/
def alone (s : State) (serial : Nat) (g : Gang) : Prop :=
  ∀ e ∈ s.gangs, e.1 ≠ serial → sameHeat e.2 g = true → e.2.state ≠ .saved ∧ e.2.stopping = false

end Sys2Proof.Says

/-- R33: at ttime a timed head whose counter has read 0 becomes ready. R46, R224: a head that has waited a further 2 ms ages by 1. R222, R223, R224: a pass takes every set bit once: a queue with room takes the submitted
entry and its bit clears, a full one keeps it; a bit of an unbound queue is taken away. R34, R36, R224, R227, R247: a pass places the one instance of a ready head whose image is not resident on the lanes and
the save block found for it: a gang with the next serial that loads, its queue advanced. -/
def Sys2Proof.Says.QueuesAndPasses : Prop :=
  (∀ s q n b, headBaton s q = some (n, b) → bTimed b.bytes = true → bTtime b.bytes ≤ s.trackTime.toNat → b.ready = none → b.stage = .head →
    b.depMet = true → exec (.ttimeReached q) s = .next (setBaton s n { b with ready := some s.trackTime.toNat })) ∧
  (∀ s q n b since, headBaton s q = some (n, b) → b.ready = some since → since + 2000000 * (b.waited + 1) ≤ s.trackTime.toNat →
    exec (.aging q) s = .next (setBaton s n { b with waited := b.waited + 1 })) ∧
  (∀ s, onlyQueues s → headsWait s → ∃ t, exec .starterPass s = .next t ∧ t.mem = s.mem ∧ t.gangs = s.gangs ∧ t.cores = s.cores ∧
    ∀ q, q < 256 → let r := queueOf s q; let u := queueOf t q
      (s.starter.pend.getLsbD q = false → u = r ∧ t.starter.pend.getLsbD q = false) ∧
      (s.starter.pend.getLsbD q = true →
        (r.bound = false ∨ s.starter.app.getLsbD q = false → u = r ∧ t.starter.pend.getLsbD q = false) ∧
        (r.bound = true → s.starter.app.getLsbD q = true → 64 ≤ r.entries.length → u = r ∧ t.starter.pend.getLsbD q = true) ∧
        (r.bound = true → s.starter.app.getLsbD q = true → r.entries.length < 64 → t.starter.pend.getLsbD q = false ∧
          ∃ e : Entry, u = { r with entries := r.entries ++ [e], tail := r.tail + 1#32, ring := tput r.ring (r.tail.toNat % 64) e.bytes } ∧ e.bytes = tget s.starter.submit 0#1024 q ∧ e.source = .host))) ∧
  (∀ s q n b r e es f off, onlyQueues s → oneReadyHead s q n b r → r.entries = e :: es → s.starter.pend = 0#256 → s.starter.marked = [] →
    s.starter.slotTags = [] → laneChoice s b = some f → findBlock (contextOf s b.ctx) (blockSize (bLanes b.bytes)) = some off →
    ∃ t g, exec .starterPass s = .next t ∧ tfind t.gangs s.starter.nextSerial = some g ∧ g.state = .loading ∧ g.first = f ∧ g.lanes = bLanes b.bytes ∧
      g.inst = 0 ∧ g.ctx = b.ctx ∧ g.baton = n ∧ g.bytes = b.bytes ∧ g.saveBlock = s.ownPkg * 2 ^ 48 + (contextOf s b.ctx).saveBase + off ∧
      (∀ p, p ≠ s.starter.nextSerial → tfind t.gangs p = tfind s.gangs p) ∧
      (queueOf t q).entries = es ∧ (queueOf t q).head = r.head + 1#32 ∧ (queueOf t q).current = none)

/-- R36, R37, R192, R226, R227: LOAD_COMMIT of a loading gang whose image reads without a defect starts every member in one tc at word 0 of the slot with x2 the argument block and every other register zero; not
clean, it is retried once from a duplicate; a defect takes the gang away. -/
def Sys2Proof.Says.LoadCommits : Prop :=
  ∀ s serial g, tfind s.gangs serial = some g → g.state = .loading → starterActs s = true → passAway s = false → g.first + g.lanes ≤ 32 →
    (∀ l, loadLeg s g.ctx g.cfg (bImage g.bytes) 0 g.retried = .ok l → (∀ e ∈ (contextOf s g.ctx).capture, e.serial ≠ serial ∧ e.serial ≠ 0) → ∃ t h, exec (.loadCommit serial true) s = .next t ∧
      tfind t.gangs serial = some h ∧ t.mem = s.mem ∧
      h = { g with state := .running, slot := BitVec.ofNat 2 (loadSlot s g), laps := h.laps, sig := h.sig, scope := h.scope, configs := h.configs, ports := h.ports,
                   retried := false } ∧
      ∀ a ∈ laneAgents g.first g.lanes, let c := coreOf s a; let d := coreOf t a
        d.mode = .running ∧ d.gang = some serial ∧ d.pc = 0#14 ∧ d.slot = h.slot ∧ d.x = (Vector.replicate 32 0#64).setIfInBounds 2 (BitVec.ofNat 64 (bArgs g.bytes)) ∧
        d.v = Vector.replicate 32 0#1024 ∧ d.p = Vector.replicate 8 0#128 ∧ d.loop0 = {} ∧ d.loop1 = {} ∧ d.inHandler = false ∧ d.cycle = 0#64 ∧
        d.scratch = c.scratch ∧ d.leaseRun = c.leaseRun ∧ (agentKind a = .tile → d.gen = c.gen + 1#8 ∧ d.spc = 0#10 ∧ d.swHalted = false)) ∧
    (∀ l, loadLeg s g.ctx g.cfg (bImage g.bytes) 0 g.retried = .ok l → g.retried = false → imageDuplicated s g.ctx (bImage g.bytes) = true →
      ∃ t, exec (.loadCommit serial false) s = .next t ∧ tfind t.gangs serial = some { g with retried := true } ∧ t.cores = s.cores ∧ t.mem = s.mem) ∧
    (∀ b clean, loadLeg s g.ctx g.cfg (bImage g.bytes) 0 g.retried = .error .defect → batonOf s g.baton = some b → g.heat = none →
      ∃ t, exec (.loadCommit serial clean) s = .next t ∧ tfind t.gangs serial = none)

namespace Sys2Proof.Says

/-- Between s and t a completion record r without its time has been appended for a context (R228, R230, R231, R266): staged where the context runs laps, held behind a full ring or
held records, otherwise written to its place in the ring with track time at byte 0x18, its reserved bytes 0x14 to 0x17 as they were (R7), and copied to the host ring where the context has
one, with the vector of its slot; no host ring is a host field of 0 (log entry 159). -/
def recordAppended (s t : State) (ctx : Nat) (r : Record) : Prop :=
  let x := contextOf s ctx; let y := contextOf t ctx; let va := x.cqBase + 32 * (x.cqProducer.toNat % 2 ^ x.cqS)
  (x.laps = true → t.mem = s.mem ∧ ∃ q, y.stagedRecords = x.stagedRecords ++ [{ record := r, seq := q }]) ∧
  (x.laps = false → x.heldRecords ≠ [] ∨ ringFull x = true → t.mem = s.mem ∧ ∃ q, y.heldRecords = x.heldRecords ++ [{ record := r, seq := q }]) ∧
  (x.laps = false → x.heldRecords = [] → ringFull x = false → y.cqProducer = x.cqProducer + 1#32 ∧ y.heldRecords = [] ∧
    ∀ e phys, translateFor s ctx 0#8 { need := .w, scalar := true } va = .ok (e, phys) → plainPage e →
      let inRing (j : Nat) : Byte := if j < 0x14 then r.extractLsb' (8 * j) 8 else if j < 0x18 then tget s.mem 0#8 (phys + j)
        else s.trackTime.extractLsb' (8 * (j - 0x18)) 8
      (∀ j, j < 32 → tget t.mem 0#8 (phys + j) = inRing j) ∧ (∀ q, (q < phys ∨ phys + 32 ≤ q) → tget t.mem 0#8 q = tget s.mem 0#8 q) ∧
      (x.cqHost = 0#64 → t.outQ = s.outQ) ∧
      (x.cqHost ≠ 0#64 → ∃ o, t.outQ = s.outQ ++ [o] ∧ o.ctx = ctx ∧ o.vector = some (ctx % 16) ∧
        ∀ j, j < 32 → o.bytes[j]? = some (x.cqHost.toNat + 32 * (x.cqProducer.toNat % 2 ^ x.cqS) + j, inRing j)))

/-- Every core but the Starter core that acts is as it was. -/
def otherCores (s t : State) : Prop := ∀ a, a ≠ .starter s.starter.active → coreOf t a = coreOf s a

end Sys2Proof.Says

/-- R38, R39, R230, R270: RELEASE_COMPLETE with every acknowledgement back, on a baton without successors, writes the completion value to the completion word, then the kind 2 record, staged, held or in the ring, and the baton is gone; a
lost access is the job's trigger. R32, R232, R233: a due entry of the time-triggered table stops its out context, whose gangs are saved first, runs its resident in context, whose kind 5 record is appended, and is done; with an in context
that is not resident, or would be a fifth running one, it has failed. R249: a quiet marker on a port of the job is noted. -/
def Obligations.ReleasesAndSwitches : Prop :=
  (∀ s n b, batonOf s n = some b → b.stage = .release → b.byFirmware = false → starterActs s = true → let r := mkRecord 2 0#8 b.ctx 0 b.ident 0
    (b.lost = false → releaseOpen s n b = true → exec (.releaseComplete n) s = .next s) ∧
    (b.lost = false → releaseOpen s n b = false → ((contextOf s b.ctx).laps = false ∨ bSealing b.bytes = false) → bSucc0 b.bytes = 0 → bSucc1 b.bytes = 0 →
      (bCword b.bytes = 0 → ∃ t, exec (.releaseComplete n) s = .next t ∧ batonOf t n = none ∧ otherCores s t ∧ t.gangs = s.gangs ∧ recordAppended s t b.ctx r) ∧
      (∀ e phys, bCword b.bytes ≠ 0 → bCword b.bytes % 8 = 0 →
        translateFor s b.ctx (bCfg b.bytes) { need := .w } (bCword b.bytes) = .ok (e, phys) → plainPage e →
        ∃ t u, exec (.releaseComplete n) s = .next t ∧ batonOf t n = none ∧
          u = { s with mem := u.mem, poisoned := u.poisoned, starter := u.starter, cores := u.cores } ∧ otherCores s u ∧
          memRead u phys 8 = bCval b.bytes ∧ (∀ q, (q < phys ∨ phys + 8 ≤ q) → tget u.mem 0#8 q = tget s.mem 0#8 q) ∧ recordAppended u t b.ctx r)) ∧
    (b.lost = true → (contextOf s b.ctx).laps = true → ∃ t, exec (.releaseComplete n) s = .next t ∧ batonOf t n = none ∧
      (contextOf t b.ctx).trigger = some .remoteLost ∧ t.agenda = .event (.rollback b.ctx) :: s.agenda) ∧
    (b.lost = true → (contextOf s b.ctx).laps = false → (contextOf s b.ctx).stopped = none → ∃ t, exec (.releaseComplete n) s = .next t ∧ batonOf t n = none ∧
      (contextOf t b.ctx).stopped = some .remoteLost ∧ t.notices = s.notices ++ [.jobStopped b.ctx .remoteLost])) ∧
  (∀ s idx, entryTurn s = some idx → starterActs s = true → s.mgmt.thermalStop = false → passAway s = false → let e := tget s.starter.ttable {} idx
    (s.starter.switching = some idx → s.starter.stepped = false) →
    (e.out = 0xFFFF → e.inn ≠ 0xFFFF → (contextOf s e.inn).resident = true →
      ((contextOf s e.inn).running = true ∨ (runningContexts s).length < 4) → (∀ g ∈ s.gangs, g.2.ctx = e.inn → g.2.state ≠ .saved ∧ g.2.stopping = false) →
      ∃ t, exec (.timeTriggeredSwitch idx) s = .next t ∧ t.gangs = s.gangs ∧ otherCores s t ∧ (contextOf t e.inn).running = true ∧
        recordAppended s t e.inn (mkRecord 5 0#8 e.inn 0 (BitVec.ofNat 64 idx) 0) ∧
        t.starter.switching = none ∧ t.starter.stepped = false ∧ tget t.starter.ttable {} idx = { e with done := true }) ∧
    (e.out = 0xFFFF → e.inn ≠ 0xFFFF → (contextOf s e.inn).resident = false ∨ ((contextOf s e.inn).running = false ∧ 4 ≤ (runningContexts s).length) →
      ∃ t, exec (.timeTriggeredSwitch idx) s = .next t ∧ t.gangs = s.gangs ∧ (contextOf t e.inn).running = (contextOf s e.inn).running ∧
        tget t.starter.ttable {} idx = { e with done := true, failed := true }) ∧
    (e.out ≠ 0xFFFF → e.inn = 0xFFFF → (∀ p ∈ (contextOf s e.out).pkgs, p = s.ownPkg) → activeGangs s e.out = [] →
      ∃ t, exec (.timeTriggeredSwitch idx) s = .next t ∧ t.gangs = s.gangs ∧ (contextOf t e.out).running = ((contextOf s e.out).running && (contextOf s e.out).switching) ∧
        t.starter.switching = none ∧ tget t.starter.ttable {} idx = { e with done := true }) ∧
    (e.out ≠ 0xFFFF → e.inn ≠ e.out → activeGangs s e.out ≠ [] → ∃ t, exec (.timeTriggeredSwitch idx) s = .next t ∧
      ((contextOf s e.out).switching = false → (contextOf t e.out).running = false) ∧
      (∀ n g, tfind s.gangs n = some g → g.ctx = e.out → g.state ≠ .finished → ∃ h, tfind t.gangs n = some h ∧ (h.stopping = true ∨ h.state = .saved)) ∧
      (activeGangs t e.out ≠ [] → t.starter.switching = some idx ∧ t.starter.stepped = false ∧ tget t.starter.ttable {} idx = e))) ∧
  (∀ s ctx port, (contextOf s ctx).resident = true → port ∈ jobPorts s ctx → ∃ t, exec (.quietMarker ctx port) s = .next t ∧
    t = { s with contexts := t.contexts } ∧ contextOf t ctx = { contextOf s ctx with quiet := (contextOf t ctx).quiet } ∧
    ∀ p, p ∈ (contextOf t ctx).quiet ↔ p = port ∨ p ∈ (contextOf s ctx).quiet)

namespace Sys2Proof.Says

/-- Where the record of the member that stands on agent a lies in the save block of gang g (R243). -/
def recordAt (g : Gang) (f : Nat) (a : Agent) : Nat :=
  let m := memberOf f a
  g.saveBlock + 0x10000 + if m < 0x800 then 0x104000 * m else 0x104000 * (64 * g.lanes) + 0x44000 * (m - 0x800)

/-- Core d, of kind k, holds the registers and the scratch that the record at base in memory t gives a member (R244). -/
def asRecorded (t : State) (base : Nat) (k : CoreKind) (d : Core) : Prop :=
  d.pc.toNat = memRead t (base + 8) 8 % 2 ^ 14 ∧ d.slot.toNat = memRead t base 8 % 4 ∧ (d.inHandler = true ↔ memRead t base 8 / 4 % 2 = 1) ∧
  (∀ (i : Nat) (h : i < 32), 1 ≤ i → i < 28 → d.x[i].toNat = memRead t (base + 0x10 + 8 * (i - 1)) 8) ∧
  (∀ (i : Nat) (h : i < 8), 1 ≤ i → d.p[i].toNat = memRead t (base + 0xF0 + 16 * (i - 1)) 16) ∧
  (∀ (i : Nat) (h : i < 32), i < 28 ∨ k = .mem → d.v[i].toNat = memRead t (base + 0x400 + 128 * i) 128) ∧
  (∀ q, q < scratchSize k → tget d.scratch 0#8 q = tget t.mem 0#8 (base + 0x4000 + q))

end Sys2Proof.Says

/-- R44, R242, R243: PREEMPT stops a running gang, and saves it once what its members have in flight has landed: its members' registers stand in its image, its cores are off. R248: RESTORE puts a saved gang of a
running context on the lowest free lanes with its slots tagged: its members go on with the registers and the scratch that its save block
holds then, or, restored from a seal, that the seal gives (what no record holds whole stands as it was saved: log entry 91); without free lanes it waits. R280, R362: a cancelled runner that is saved is retired.
R254: a notice about a saved lock holder makes it wait for lanes at the waiter's priority, unless it waits at a higher one
already; during a take-over the notice waits (R235). -/
def Obligations.SaveAndRestore : Prop :=
  (∀ s serial g, tfind s.gangs serial = some g → onLanes g → g.heat = none →
    (g.stopping = false → ∃ t h, exec (.preempt serial) s = .next t ∧ tfind t.gangs serial = some h ∧ (h.stopping = true ∨ h.state = .saved)) ∧
    (g.stopping = true → drained s g = false → exec (.preempt serial) s = .next s) ∧
    (g.stopping = true → drained s g = true → (∀ a ∈ laneAgents g.first g.lanes, (coreOf s a).lines = []) →
      ∃ t h i, exec (.preempt serial) s = .next t ∧ tfind t.gangs serial = some h ∧ h.state = .saved ∧ h.image = some i ∧ h.recorded = true ∧ h.ctx = g.ctx ∧
        h.lanes = g.lanes ∧ h.slot = g.slot ∧ h.tokens = g.tokens ++ s.starter.notices.filterMap (tokenFor serial) ∧ h.arrived = g.arrived ∧ t.acqQ = s.acqQ ∧
        (∀ m ∈ membersOf g.lanes, let c := coreOf s (memberAgent g.first m); let d := coreOf t (memberAgent g.first m)
          d.mode = .off ∧ d.gang = none ∧ d.scratch = c.scratch ∧ (c.inflight = [] → c.scalars = [] → c.landing = false →
            ∃ v, tfind i.cores m = some v ∧ v.mode = c.mode ∧ v.x = c.x ∧ v.v = c.v ∧ v.p = c.p ∧ v.scratch = c.scratch)) ∧
        (∀ p, p ≠ serial → tfind t.gangs p = tfind s.gangs p))) ∧
  (∀ s serial g i, tfind s.gangs serial = some g → g.state = .saved → g.image = some i → contextRuns s g.ctx = true → alone s serial g →
    (lowestRun s g.lanes = none → exec (.restore serial) s =
      .next (setGang s serial { g with resume := true, waitPrio := none,
                                       since := if g.resume = true ∧ g.waitPrio = none then g.since else s.trackTime.toNat })) ∧
    (∀ f, lowestRun s g.lanes = some f → g.unloaded = false → (∀ a ∈ laneAgents f g.lanes, tagged s (bImage g.bytes) g.ctx (configOf g) a g.slot.toNat = true) →
      ∃ t h, exec (.restore serial) s = .next t ∧ tfind t.gangs serial = some h ∧ h.state = .running ∧ h.first = f ∧ h.image = none ∧ h.resume = false ∧
        h.lanes = g.lanes ∧ h.ctx = g.ctx ∧
        ∀ a ∈ laneAgents f g.lanes, let v := tget i.cores {} (memberOf f a); let d := coreOf t a
          d.gang = some serial ∧ d.wait = v.wait ∧ (g.recorded = true → asRecorded t (recordAt g f a) (agentKind a) d) ∧
          (g.recorded = false → d.mode = v.mode ∧ d.pc = v.pc ∧ d.x = v.x ∧ d.v = v.v ∧ d.p = v.p ∧ d.scratch = v.scratch))) ∧
  (∀ s serial g, tfind s.gangs serial = some g → g.state = .saved → g.cancelled = true →
    (∀ m ∈ membersOf g.lanes, (memberCore s serial m).holdings = [] ∧ (memberCore s serial m).wait = .none) →
    ∃ t, exec (.runnerRetire serial) s = .next t ∧ tfind t.gangs serial = none ∧ batonOf t g.baton = none ∧ t.mem = s.mem ∧ t.cores = s.cores) ∧
  (∀ s holder waiter h w obj, tfind s.gangs holder = some h → tfind s.gangs waiter = some w → Machine.waitsFor s holder waiter = some obj →
    (starterActs s = false → exec (.lockHolderNotice holder waiter) s = .next s) ∧
    (starterActs s = true → (contextOf s h.ctx).running = false → alone s holder h → let p := gangPriority s w
      ∃ t k, exec (.lockHolderNotice holder waiter) s = .next t ∧
      t = { s with notices := s.notices ++ [.lockHolder holder waiter], gangs := t.gangs } ∧ (∀ p, p ≠ holder → tfind t.gangs p = tfind s.gangs p) ∧
      tfind t.gangs holder = some k ∧ k = { h with boost := k.boost, resume := true, since := k.since, waitPrio := k.waitPrio } ∧
      (∃ e ∈ k.boost, e.2 = obj ∧ p ≤ e.1) ∧ (∀ e, e.2 ≠ obj → (e ∈ k.boost ↔ e ∈ h.boost)) ∧
      (h.resume = false → k.since = s.trackTime.toNat ∧ k.waitPrio = if h.heat.isSome then none else some p) ∧
      (h.resume = true → h.waitPrio = none → k.since = h.since ∧ k.waitPrio = none) ∧
      (∀ l, h.resume = true → h.waitPrio = some l → h.heat = none →
        if p ≤ min 3 (l + (s.trackTime.toNat - h.since) / 2000000) then k.since = h.since ∧ k.waitPrio = some l
        else k.since = s.trackTime.toNat ∧ k.waitPrio = some p)))

/-- R234, R327: ISSUE of an entry in the ring that is not done performs its change, here a taken bit and a completion record, and awaits its acknowledgement; one that is done or stale is counted. JOURNAL_DONE sets the
entry's done bit in both copies. R252: a scan notes a gang whose members are all parked, and raises DEADLOCK in it at the next scan if nothing has moved. R235, R236, R328: a take-over halts the active
core, waits for the changes that are outstanding, and starts the standby at byte offset 0x400, whose program then takes it over, or, without a standby, stops the Starter. -/
def Obligations.JournalScanTakeover : Prop :=
  (∀ s seq, seq < 2 ^ 32 → let e := entryAt s seq
    (s.starter.performed.contains seq = true → exec (.issue seq) s = .next s) ∧
    (s.starter.performed.contains seq = false → (jeDone e = true ∨ jeSeq e ≠ seq ∨ belowTail s seq = false) → exec (.issue seq) s = .next (count s)) ∧
    (s.starter.performed.contains seq = false → jeDone e = false → jeSeq e = seq → belowTail s seq = true →
      (jeKind e = 9 → (tget s.starter.img 0#256 (seq % 2048)).toNat % 2 ^ 8 ≠ 2 → (contextOf s (jeQ e)).laps = false → (contextOf s (jeQ e)).heldRecords ≠ [] →
        recordHeld s (jeQ e) seq = false → ∃ t, exec (.issue seq) s = .next t ∧ t.starter.performed = s.starter.performed ++ [seq] ∧ t.mem = s.mem ∧ t.starter.jtail = s.starter.jtail ∧
          contextOf t (jeQ e) = { contextOf s (jeQ e) with
            heldRecords := (contextOf s (jeQ e)).heldRecords ++ [{ record := tget s.starter.img 0#256 (seq % 2048), seq := some seq }] }) ∧
      (jeKind e = 1 → jeQ e < 256 → s.starter.pend.getLsbD (jeQ e) = true → s.starter.app.getLsbD (jeQ e) = false → (queueOf s (jeQ e)).bound = true →
        ∃ t, exec (.issue seq) s = .next t ∧ t.starter.performed = s.starter.performed ++ [seq] ∧ t.starter.pend.getLsbD (jeQ e) = false ∧
          jeQ e ∈ t.starter.marked ∧ t.starter.queues = s.starter.queues ∧ t.mem = s.mem ∧ t.starter.ja = s.starter.ja ∧ t.starter.jtail = s.starter.jtail))) ∧
  (∀ s seq, s.starter.performed.contains seq = true → failedRelease s seq = none → s.starter.delayed.contains seq = false →
    (acknowledged s seq = false → exec (.journalDone seq) s = .next s) ∧
    (acknowledged s seq = true → ∃ t, exec (.journalDone seq) s = .next t ∧ t = { s with starter := t.starter } ∧
      (∀ q, q ∈ t.starter.performed ↔ q ∈ s.starter.performed ∧ q ≠ seq) ∧
      let bit (i : Nat) : BitVec 256 := if i = seq % 2048 ∧ jeSeq (entryAt s seq) = seq then 1#256 <<< 40 else 0#256
      (∀ i, tget t.starter.ja 0#256 i = tget s.starter.ja 0#256 i ||| bit i) ∧ (∀ i, tget t.starter.jb 0#256 i = tget s.starter.jb 0#256 i ||| bit i))) ∧
  (∀ s serial g, s.gangs = [(serial, g)] → s.trackTime.toNat % 1000 = 0 → s.starter.lastScan ≠ some s.trackTime.toNat → s.starter.stopped = false → g.first + g.lanes ≤ 32 →
    g.state = .running →
    let seen (c : Core) : Core := { c with stirred := false }
    let again := s.starter.lastScan = some (s.trackTime.toNat - 1000) ∧ 1000 ≤ s.trackTime.toNat
    ∃ t h, exec .deadlockScan s = .next t ∧ t.starter.lastScan = some s.trackTime.toNat ∧ tfind t.gangs serial = some h ∧ h = { g with scanned := h.scanned } ∧
      (∀ a, a ∉ laneAgents g.first g.lanes → coreOf t a = coreOf s a) ∧
      (scanQuiet s serial g = false → h.scanned = none ∧ t.notices = s.notices ∧ ∀ a ∈ laneAgents g.first g.lanes, coreOf t a = seen (coreOf s a)) ∧
      (scanQuiet s serial g = true → ¬ (again ∧ g.scanned = some (gangSignature s g) ∧ gangStirred s g = false) →
        h.scanned = some (gangSignature s g) ∧ t.notices = s.notices ∧ ∀ a ∈ laneAgents g.first g.lanes, coreOf t a = seen (coreOf s a)) ∧
      (scanQuiet s serial g = true → again → g.scanned = some (gangSignature s g) → gangStirred s g = false → t.notices = s.notices ++ [.deadlock serial] ∧
        ∀ a ∈ laneAgents g.first g.lanes, coreOf t a = if (coreOf s a).mode = .finished then seen (coreOf s a) else
          { seen (coreOf s a) with pend := (coreOf s a).pend ++ [{ cause := .deadlock }] })) ∧
  (∀ s, s.starter.stopped = false → s.starter.takingOver = false → s.starter.active < 2 →
    (s.starter.standbyOk = false → ∃ t, exec .starterTakeover s = .next t ∧ t.starter.stopped = true ∧ t.notices = s.notices ++ [.packageFault] ∧
      (coreOf t (.starter s.starter.active)).mode = .off ∧
      ∀ e ∈ s.gangs, e.2.state = .running → .event (.preempt e.1) ∈ t.agenda) ∧
    (s.starter.standbyOk = true → outstanding s = true → ∃ t, exec .starterTakeover s = .next t ∧
      t = { s with cores := t.cores, starter := { s.starter with takingOver := true } } ∧ (coreOf t (.starter s.starter.active)).mode = .off) ∧
    (s.starter.standbyOk = true → outstanding s = false → s.starter.performed = [] → ownReleases s = [] → (coreOf s (.starter (1 - s.starter.active))).code ≠ [] →
      ∃ t, exec .starterTakeover s = .next t ∧ t.starter.active = 1 - s.starter.active ∧ t.starter.standbyOk = false ∧
        (coreOf t (.starter s.starter.active)).mode = .off ∧
        (let d := coreOf t (.starter (1 - s.starter.active)); let c := coreOf s (.starter (1 - s.starter.active))
         d.mode = .running ∧ d.pc = 0x400#14 ∧ d.x = Vector.replicate 32 0#64 ∧ d.code = c.code ∧ d.scratch = c.scratch) ∧
        t.starter.ja = s.starter.ja ∧ t.mem = s.mem ∧ t.gangs = s.gangs ∧ t.starter.takingOver = true) ∧
    (s.starter.standbyOk = true → outstanding s = false → s.starter.performed = [] → ownReleases s = [] → (coreOf s (.starter (1 - s.starter.active))).code = [] → s.starter.ja = [] → s.starter.jb = [] →
      s.starter.pend = 0#256 → starterRests s →
      ∃ t, exec .starterTakeover s = .next t ∧ t.starter.active = 1 - s.starter.active ∧ t.starter.standbyOk = false ∧ t.starter.takingOver = false ∧
        (coreOf t (.starter s.starter.active)).mode = .off ∧ t.mem = s.mem ∧ t.gangs = s.gangs ∧ t.agenda = .event .starterPass :: s.agenda))

/-- Queues, passes, placement and loads. -/
def Obligations.QueuesPassesLoads : Prop := Says.QueuesAndPasses ∧ Says.LoadCommits
/-! ### Host and management -/

namespace Sys2Proof.Says

/-- A 32-byte endpoint entry's field. -/
def ep (e : BitVec 256) (off n : Nat) : Nat := e.toNat / 2 ^ (8 * off) % 2 ^ (8 * n)

/-- The event that the management controller counts (R222, R228, R291). -/
def counted (s : State) : State := { s with mgmt := { s.mgmt with dropped := s.mgmt.dropped + 1 } }

/-- The boot ROM accepts a bundle (R302): the signed digest is that of its images and version, both signatures verify, both public keys hash to fuse hashes that are not
revoked, and its version is no older than the anti-rollback counter. -/
def accepted (s : State) (b : BundleFacts) : Prop :=
  let part (off n : Nat) : List Byte := (b.block.drop off).take n
  let digest := Config.bundleDigest [b.bootImage, b.starterImage, b.svcImage, b.mgmtImage] b.version
  ofBytes (part 8 48) = digest.toNat ∧ Config.ed25519Verify (part 0x38 32) (part 0x58 64) digest = true ∧
  Config.mlDsa65Verify (part 0x98 1952) (part 0x838 3309) digest = true ∧ (Config.sha384 (part 0x38 32), false) ∈ s.mgmt.edFuses ∧
  (Config.sha384 (part 0x98 1952), false) ∈ s.mgmt.mlFuses ∧ s.mgmt.antiRollback.toNat ≤ b.version

/-- What the boot with an accepted bundle leaves (R302, R305): the Starter firmware in both Starter cores, from word 0 of slot 0, and the repair entry of the one member in which
the march test found something that its spare rows repair, or another fault (R304). -/
def bootLeaves (f : BootFacts) (b : BundleFacts) (s t : State) : Prop :=
  (∀ i, i < 2 → let d := coreOf t (.starter i)
    d = { coreOf s (.starter i) with code := d.code } ∧
      ∀ n, 4 * n + 4 ≤ b.starterImage.length → tget d.code 0#32 n = BitVec.ofNat 32 (ofBytes ((b.starterImage.drop (4 * n)).take 4))) ∧
  t.mgmt.bundleDigest = Config.bundleDigest [b.bootImage, b.starterImage, b.svcImage, b.mgmtImage] b.version ∧
  (∀ m, f.march = [m] → m.member < 2432 → m.rows.length ≤ 4 →
    tget t.mgmt.repair 0#128 m.member = BitVec.ofNat 128 (m.member + m.rows.length * 2 ^ 12 + if m.other then 2 ^ 16 else 0))

/-- Power or temperature is too high (R309). -/
def overLimit (s : State) : Prop := s.mgmt.powerCap < s.mgmt.power ∨ ∃ e ∈ s.mgmt.temps, 105 < e.2

/-- The members of a saved gang hold no object and wait at no home. -/
def givesNothingUp (s : State) (serial : Nat) (g : Gang) : Prop :=
  g.state = .saved ∧ ∀ m ∈ membersOf g.lanes, (memberCore s serial m).holdings = [] ∧ (memberCore s serial m).wait = .none

end Sys2Proof.Says

/-- R222, R302: before ready a KICK and a SUBMIT are ignored; then KICK sets the bit of its queue, and with bit 8 its append flag, or during a take-over leaves
a notice (R235; log entry 147), which a full notice FIFO drops (log entry 76), SUBMIT writes the queue's buffer, discarded and counted while an append is
pending. R228, R229, R231: the consumer count of an occupied slot, ignored and counted where it would exceed the ring; the host ring; any other field is
counted, and so is a write to a slot that no context holds (log entry 121). R294: a host wake is armed by bit 0. -/
def Obligations.HostRegisters : Prop :=
  (∀ (w : BitVec 32) s, (s.mgmt.ready = false ∨ 2 ^ 9 ≤ w.toNat → exec (.kick w) s = .next s) ∧
    (s.mgmt.ready = true → w.toNat < 2 ^ 9 → s.starter.takingOver = true → let kick : NoticeKind := .kick (w.toNat % 256) (decide (256 ≤ w.toNat))
      (s.starter.notices.length < 4096 → ∃ t n, exec (.kick w) s = .next t ∧ n.kind = kick ∧
        t = { s with starter := { s.starter with notices := s.starter.notices ++ [n] } }) ∧
      (4096 ≤ s.starter.notices.length → exec (.kick w) s = .next s)) ∧
    (s.mgmt.ready = true → w.toNat < 2 ^ 9 → s.starter.takingOver = false → ∃ t, exec (.kick w) s = .next t ∧ t = { s with starter := t.starter } ∧
      t.starter = { s.starter with pend := t.starter.pend, app := t.starter.app } ∧
      ∀ q, q < 256 → t.starter.pend.getLsbD q = (s.starter.pend.getLsbD q || decide (q = w.toNat % 256)) ∧
        t.starter.app.getLsbD q = (s.starter.app.getLsbD q || (decide (q = w.toNat % 256) && decide (256 ≤ w.toNat))))) ∧
  (∀ q buf s, (s.mgmt.ready = false ∨ 256 ≤ q → exec (.submit q buf) s = .next s) ∧
    (s.mgmt.ready = true → q < 256 → (s.starter.pend.getLsbD q = true ∧ s.starter.app.getLsbD q = true) ∨ (∃ n ∈ s.starter.notices, n.kind = .kick q true) →
      exec (.submit q buf) s = .next (counted s)) ∧
    (s.mgmt.ready = true → q < 256 → (s.starter.pend.getLsbD q = false ∨ s.starter.app.getLsbD q = false) → (∀ n ∈ s.starter.notices, n.kind ≠ .kick q true) → ∃ t, exec (.submit q buf) s = .next t ∧
      t = { s with starter := { s.starter with submit := t.starter.submit } } ∧ tget t.starter.submit 0#1024 q = buf ∧
      ∀ p, p ≠ q → tget t.starter.submit 0#1024 p = tget s.starter.submit 0#1024 p)) ∧
  (∀ c off (w : Word) s, (slotContext s c = none → exec (.cqctlConsumerWrite c off w) s = .next (counted s)) ∧
    (∀ ctx, slotContext s c = some ctx → let x := contextOf s ctx
      (off ≠ 0x14 → off ≠ 0x18 → exec (.cqctlConsumerWrite c off w) s = .next (counted s)) ∧
      (off = 0x18 → exec (.cqctlConsumerWrite c off w) s = .next (setContext s ctx { x with cqHost := w })) ∧
      (off = 0x14 → 2 ^ x.cqS < (x.cqProducer - w.setWidth 32).toNat → exec (.cqctlConsumerWrite c off w) s = .next (counted s)) ∧
      (off = 0x14 → (x.cqProducer - w.setWidth 32).toNat ≤ 2 ^ x.cqS → x.heldRecords = [] → ∃ t, exec (.cqctlConsumerWrite c off w) s = .next t ∧
        t = { s with contexts := t.contexts } ∧ contextOf t ctx = { x with cqConsumer := w.setWidth 32 } ∧ ∀ y, y ≠ ctx → contextOf t y = contextOf s y))) ∧
  (∀ serial (v : Word) s g, tfind s.gangs serial = some g →
    exec (.hostWakeArmedWrite serial v) s = .next (setGang s serial { g with hostWake := if v.getLsbD 0 then 1#64 else 0#64 }))

/-- R288, R290, R291: EPKICK of a valid in-endpoint begins its in-copy; it is counted for an unoccupied slot (log entry 121, DESIGN CHOICE), a direction other than in, length 0, a reserved bit and an endpoint already copying. IN_COPY_COMPLETE of a
context's first in-copy writes the words it has read to the endpoint's address and kicks its queue, during a take-over as a notice (R235). R228, R292: OUT_TRANSFER moves the oldest transferable bytes to host memory and raises a record's
vector. -/
def Obligations.HostTransfers : Prop :=
  (∀ (w : BitVec 32) s, s.mgmt.ready = true → w.toNat < 2 ^ 16 → let i := w.toNat % 2 ^ 12; let slot := w.toNat / 2 ^ 12
    (slotContext s slot = none → exec (.epkick w) s = .next (counted s)) ∧
    (∀ ctx, slotContext s slot = some ctx → let e := endpoint s ctx i
      (ep e 0x14 1 % 4 ≠ 1 ∧ ep e 0x14 1 % 4 ≠ 3 ∨ ep e 0x10 4 = 0 ∨ 8 ≤ ep e 0x14 1 ∨ ep e 0x16 2 ≠ 0 ∨ (∃ x ∈ s.inCopies, x.ctx = ctx ∧ x.endpoint = i) →
        exec (.epkick w) s = .next (counted s)) ∧
      (ep e 0x14 1 % 2 = 1 → ep e 0x10 4 ≠ 0 → ep e 0x14 1 < 8 → ep e 0x16 2 = 0 → (∀ x ∈ s.inCopies, ¬ (x.ctx = ctx ∧ x.endpoint = i)) →
        exec (.epkick w) s = .next { s with inCopies := s.inCopies ++ [{ ctx := ctx, endpoint := i, entry := e }] }))) ∧
  (∀ s idx x words e phys, s.inCopies[idx]? = some x → (∀ y ∈ s.inCopies.take idx, y.ctx ≠ x.ctx) → words.length = ep x.entry 0x10 4 / 8 → 0 < words.length →
    let va := ep x.entry 0x08 8; let bs := words.flatMap fun w => toBytes 8 w.toNat
    va % 4096 + 8 * words.length ≤ 4096 → translateFor s x.ctx 0#8 { need := .w, scalar := false } va = .ok (e, phys) → plainPage e →
    ep x.entry 0x18 8 = 0 → ep x.entry 0x14 1 / 4 % 2 = 0 →
    ∃ t, exec (.inCopyComplete idx words) s = .next t ∧ t = { s with mem := t.mem, poisoned := t.poisoned, inCopies := s.inCopies.eraseIdx idx, starter := t.starter } ∧
      memBytes t phys (8 * words.length) = bs ∧ (∀ q, (q < phys ∨ phys + 8 * words.length ≤ q) → tget t.mem 0#8 q = tget s.mem 0#8 q) ∧
      (s.starter.takingOver = false → t.starter = { s.starter with pend := t.starter.pend } ∧
        ∀ q, q < 256 → t.starter.pend.getLsbD q = (s.starter.pend.getLsbD q || decide (q = ep x.entry 0x15 1))) ∧
      (s.starter.takingOver = true → s.starter.notices.length < 4096 → ∃ n, n.kind = .kick (ep x.entry 0x15 1) false ∧
        t.starter = { s.starter with notices := s.starter.notices ++ [n] })) ∧
  (∀ s i o, s.outQ[i]? = some o → transferable s i o = true → (∀ j p, j < i → s.outQ[j]? = some p → transferable s j p = false) →
    ∃ t, exec .outTransfer s = .next t ∧ t = { s with outQ := s.outQ.eraseIdx i, hostMem := t.hostMem, msix := s.msix ++ o.vector.toList } ∧
      (∀ q, (∀ b ∈ o.bytes, b.1 ≠ q) → tget t.hostMem 0#8 q = tget s.hostMem 0#8 q) ∧
      (∀ l b r, o.bytes = l ++ b :: r → (∀ c ∈ r, c.1 ≠ b.1) → tget t.hostMem 0#8 b.1 = b.2))

/-- R302, R303, R304, R305: BOOT takes the first bundle whose digest, signatures, keys and version pass, stops with code 1 without one, 2 on a die edge, 3 on HBM, and otherwise makes the package ready with every queue
unbound and the repair table; a second boot does nothing. R308, R309: an island's setting, one step down in 10 µs for the hottest compute island while power or temperature is too high, the thermal trip at 115 °C that saves every gang. R306: a quote. The order and the lengths of the
quote's parts are log entry 112 (DESIGN CHOICE), the numbers of the islands log entry 42. -/
def Obligations.BootAndPower : Prop :=
  (∀ (f : BootFacts) s, let stops (code : Nat) : State := { s with mgmt := { s.mgmt with code := code, halted := true } }
    (s.mgmt.ready = true ∨ s.mgmt.halted = true → exec (.boot f) s = .next s) ∧
    (s.mgmt.ready = false → s.mgmt.halted = false →
      (¬ accepted s f.bundleA → ¬ accepted s f.bundleB → exec (.boot f) s = .next (stops 1)) ∧
      ((accepted s f.bundleA ∨ accepted s f.bundleB) →
        (f.dieEdgesOk = false → exec (.boot f) s = .next (stops 2)) ∧
        (f.dieEdgesOk = true → f.hbmOk = false → exec (.boot f) s = .next (stops 3)) ∧
        (f.dieEdgesOk = true → f.hbmOk = true → ∃ t, exec (.boot f) s = .next t ∧ t = { s with cores := t.cores, starter := t.starter, mgmt := t.mgmt } ∧
          t.mgmt.ready = true ∧ t.mgmt.glUp = f.glUp ∧ t.mgmt.pcieWidth = f.pcieWidth ∧
          (accepted s f.bundleA → t.mgmt.bundle = 0 ∧ bootLeaves f f.bundleA s t) ∧
          (¬ accepted s f.bundleA → t.mgmt.bundle = 1 ∧ bootLeaves f f.bundleB s t) ∧
          (∀ q, (queueOf t q).bound = false) ∧ t.starter = { s.starter with queues := [] })))) ∧
  (∀ i freq gate s, (76 ≤ i ∨ 10 < freq ∨ (gate = true ∧ islandUsed s i = true) → exec (.islandSet i freq gate) s = .next s) ∧
    (i < 76 → freq ≤ 10 → (gate = true → islandUsed s i = false) → ∃ t, exec (.islandSet i freq gate) s = .next t ∧
      t = { s with mgmt := { s.mgmt with islands := t.mgmt.islands } } ∧ tget t.mgmt.islands (10, false) i = (freq, gate) ∧
      ∀ j, j ≠ i → tget t.mgmt.islands (10, false) j = tget s.mgmt.islands (10, false) j)) ∧
  (∀ i freq s, i < 64 → tget s.mgmt.islands (10, false) i = (freq, false) → 0 < freq →
    ((∃ at', tfind s.mgmt.stepped i = some at' ∧ s.trackTime.toNat < at' + 10000) → exec (.frequencyStep i) s = .next s) ∧
    (¬ overLimit s ∨ (∃ k, k < 64 ∧ canStep s k = true ∧ tempOf s i < tempOf s k) → exec (.frequencyStep i) s = .next s) ∧
    ((∀ at', tfind s.mgmt.stepped i = some at' → at' + 10000 ≤ s.trackTime.toNat) → overLimit s → (∀ k, k < 64 → canStep s k = true → tempOf s k ≤ tempOf s i) → ∃ t, exec (.frequencyStep i) s = .next t ∧
      t = { s with mgmt := t.mgmt } ∧ tget t.mgmt.islands (10, false) i = (freq - 1, false) ∧ tfind t.mgmt.stepped i = some s.trackTime.toNat)) ∧
  (∀ s, (∀ e ∈ s.mgmt.temps, e.2 < 115) → exec .thermalTrip s = .next s) ∧
  (∀ s, (∃ e ∈ s.mgmt.temps, 115 ≤ e.2) → ∃ t, exec .thermalTrip s = .next t ∧ t.mgmt = { s.mgmt with thermalStop := true } ∧ t.gangs = s.gangs ∧ t.mem = s.mem ∧
    ∀ e ∈ s.gangs, e.2.state = .running → .event (.preempt e.1) ∈ t.agenda) ∧
  (∀ (nonce : BitVec 256) s, s.mgmt.ready = true → ∃ b, exec (.quote nonce) s = .next { s with mgmt := { s.mgmt with quote := b ++ Config.quoteSignatures s.mgmt.secret b } } ∧
    b.take 32 = toBytes 32 nonce.toNat ∧ (b.drop 32).take 48 = toBytes 48 s.mgmt.bundleDigest.toNat ∧
    (b.drop 80).take 48 = toBytes 48 (Config.fuseDigest (s.mgmt.edFuses ++ s.mgmt.mlFuses) s.mgmt.antiRollback s.mgmt.secret).toNat)

/-- R192, R257, R307: CONTEXT_CREATE makes a context resident and draws its slot a key, with which what the key before it covered is lost; refused while a resident context holds the slot. R26, R45, R307: CONTEXT_TEARDOWN leaves nothing of the context: no
gang, no queue, no byte of what it has held but free values (log entry 111), and a new key. R186, R213, R220, R228, R232, R243, R255, R289, R295: CONFIG_WRITE enters each item whose value the spec admits. R239, R261: SUPERVISOR_RESUME raises the quotas, each to the larger of the two (log entry 104), and lets the frozen core go on.
What a refused value does and the poke item are log entry 109, the debug path's lease_run out of range log entry 29. -/
def Obligations.ContextsAndConfiguration : Prop :=
  (∀ ctx s, (s.mgmt.ready = false ∨ 65536 ≤ ctx ∨ (contextOf s ctx).resident = true ∨ (∃ e ∈ s.contexts, e.2.resident = true ∧ e.1 ≠ ctx ∧ e.1 % 16 = ctx % 16) →
      exec (.contextCreate ctx) s = .next s) ∧
    (s.mgmt.ready = true → ctx < 65536 → (contextOf s ctx).resident = false → (∀ e ∈ s.contexts, e.2.resident = true → e.1 ≠ ctx → e.1 % 16 ≠ ctx % 16) →
      ∃ t, exec (.contextCreate ctx) s = .next t ∧
        t = { s with contexts := t.contexts, mgmt := t.mgmt, cores := t.cores, mem := t.mem, poisoned := t.poisoned, fresh := t.fresh } ∧
        (∀ a, coreOf t a = { coreOf s a with lastCtx := if (coreOf s a).lastCtx = some ctx then none else (coreOf s a).lastCtx }) ∧
        ((∀ e ∈ s.contexts, e.1 % 16 = ctx % 16 → keyStands s e.1 = false) → t.mem = s.mem) ∧
        (∀ e ∈ s.contexts, e.1 % 16 = ctx % 16 → keyStands s e.1 = true → ∀ r ∈ extentsOf s e.2, ∀ q, r.1 ≤ q → q < r.1 + r.2 →
          ∃ n, s.fresh ≤ n ∧ tget t.mem 0#8 q = (Config.freeValue n).setWidth 8) ∧ contextOf t ctx = { resident := true, pkgs := [s.ownPkg], key := s.mgmt.draws + 1 } ∧
        t.mgmt = { s.mgmt with draws := s.mgmt.draws + 1, keySlots := t.mgmt.keySlots } ∧ tfind t.mgmt.keySlots (ctx % 16) = some (s.mgmt.draws + 1) ∧
        ∀ y, y ≠ ctx → contextOf t y = contextOf s y)) ∧
  (∀ ctx s, (contextOf s ctx).resident = false → (contextOf s ctx).key = 0 → exec (.contextTeardown ctx) s = .next s) ∧
  (∀ ctx s, (contextOf s ctx).resident = true ∨ (contextOf s ctx).key ≠ 0 → (∀ e ∈ s.gangs, e.2.ctx = ctx → tfind s.gangs e.1 = some e.2 ∧ givesNothingUp s e.1 e.2) →
    ∃ t, exec (.contextTeardown ctx) s = .next t ∧ contextOf t ctx = {} ∧ (∀ e ∈ t.gangs, e.2.ctx ≠ ctx) ∧ (∀ e ∈ t.starter.queues, e.2.ctx ≠ ctx) ∧
      (∀ e ∈ t.starter.batons, e.2.ctx ≠ ctx) ∧ (∀ e ∈ t.heats, e.2.ctx ≠ ctx) ∧ (∀ e ∈ t.outQ, e.ctx ≠ ctx) ∧ t.cores = s.cores ∧
      ((contextOf s ctx).resident = true ∨ keyStands s ctx = true → tfind t.mgmt.keySlots (ctx % 16) = some (s.mgmt.draws + 1)) ∧ (∀ y, y ≠ ctx → contextOf t y = contextOf s y) ∧
      (let rs := extentsOf s (contextOf s ctx)
       (∀ q, (∀ r ∈ rs, q < r.1 ∨ r.1 + r.2 ≤ q) → tget t.mem 0#8 q = tget s.mem 0#8 q) ∧
       ∀ r ∈ rs, ∀ q, r.1 ≤ q → q < r.1 + r.2 → ∃ n, s.fresh ≤ n ∧ tget t.mem 0#8 q = (Config.freeValue n).setWidth 8)) ∧
  (∀ s,
    (∀ q ctx bound, q < 256 → (queueOf s q).current = none → exec (.configWrite (.queueBind q ctx bound)) s = .next (setQueue s q { ctx := ctx, bound := bound })) ∧
    (∀ ctx base n, base % 4096 = 0 → 6 ≤ n → n ≤ 16 → exec (.configWrite (.completionQueue ctx base n)) s =
      .next (setContext s ctx { contextOf s ctx with cqBase := base, cqS := n, cqProducer := 0#32, cqConsumer := 0#32 })) ∧
    (∀ ctx base size, let x := contextOf s ctx; ∃ y, exec (.configWrite (.saveArea ctx base size)) s = .next (setContext s ctx y) ∧
      y = { x with saveBase := base, saveSize := size, oldAreas := y.oldAreas } ∧ (∀ r ∈ x.oldAreas, r ∈ y.oldAreas) ∧
      (x.saveSize ≠ 0 → (s.ownPkg * 2 ^ 48 + x.saveBase, x.saveSize) ∈ y.oldAreas)) ∧
    (∀ ctx un us usz quota sb sq s0 s1 limit flags, un % 2 ^ 20 = 0 → us % 2 ^ 20 = 0 → usz % 2 ^ 20 = 0 → limit < 256 → flags < 2 →
      ∃ y, exec (.configWrite (.lapControl ctx un us usz quota sb sq s0 s1 limit flags)) s = .next (setContext s ctx y) ∧ y.undoN = un ∧ y.undoS = us ∧
        y.undoSize = usz ∧ y.quota = quota ∧ y.stageBase = sb ∧ y.stageQuota = sq ∧ y.seal0 = s0 ∧ y.seal1 = s1 ∧ y.limit = limit ∧ (y.laps = true ↔ flags = 1) ∧
        y.lapId = (contextOf s ctx).lapId ∧ y.pages = (contextOf s ctx).pages ∧ ∀ r ∈ (contextOf s ctx).oldAreas, r ∈ y.oldAreas) ∧
    (∀ ctx va, exec (.configWrite (.endpointTable ctx va)) s = .next (setContext s ctx { contextOf s ctx with endpoints := va })) ∧
    (∀ i eb el sb fmt ncol pitch, i < 64 → eb % 512 = 0 → fmt < 4 → ncol < 256 → pitch % 128 = 0 → pitch < 2 ^ 20 → ∃ t,
      exec (.configWrite (.formatWindow i eb el sb fmt ncol pitch)) s = .next t ∧ t = { s with windows := t.windows } ∧
      tfind t.windows i = some { ebase := eb, elimit := el, sbase := sb, fmt := fmt, ncol := ncol, pitch := pitch }) ∧
    (∀ i time out inn valid, i < 64 → out < 2 ^ 16 → inn < 2 ^ 16 → ∃ t, exec (.configWrite (.ttEntry i time out inn valid)) s = .next t ∧
      t = { s with starter := t.starter } ∧ tget t.starter.ttable {} i = { time := time, out := out, inn := inn, valid := valid }) ∧
    (∀ pkg mask, pkg < 2048 → ∃ t, exec (.configWrite (.route pkg mask)) s = .next t ∧ t = { s with routes := t.routes } ∧ tget t.routes 0#24 pkg = mask) ∧
    (∀ a (v : Word), agentExists a = true → 1 ≤ v.toNat → v.toNat ≤ 64 → exec (.configWrite (.leaseRun a v)) s = .next (setCore s a { coreOf s a with leaseRun := v.toNat })) ∧
    (∀ a (v : Word), v.toNat = 0 ∨ 64 < v.toNat → exec (.configWrite (.leaseRun a v)) s = .next s) ∧
    (∀ phys bytes, bytes ≠ [] → phys % 2 ^ 47 + bytes.length ≤ 0x4800000000 → phys < 2 ^ 59 → exec (.configWrite (.poke phys bytes)) s = .next (memWrite s phys bytes))) ∧
  (∀ a quota stage s ctx, (coreOf s a).mode = .sFreeze → ctxOf s (coreOf s a) = some ctx → ∃ t, exec (.supervisorResume a (.raise quota stage)) s = .next t ∧
    t = { s with cores := t.cores, contexts := t.contexts } ∧ coreOf t a = { resumedCore (coreOf s a) with mode := .running, wait := .none } ∧
    contextOf t ctx = { contextOf s ctx with quota := max (contextOf s ctx).quota quota, stageQuota := max (contextOf s ctx).stageQuota stage })

/-- R321: err_inject of a tile or memory core takes a value without a reserved bit and kind 3; a matching event of an armed register counts down and, at count 0, disarms it and marks its data, so that its core consumes an
uncorrectable error. R275: a scrub leaves a corrected sector, repairs a bad one from its duplicate, or poisons and reports it. R217, R218: the advance of a peer's incarnation, with which accesses in flight to it fail. -/
def Obligations.ErrorsAndLostPackages : Prop :=
  (∀ a (v : Word) s, (∃ n, n < 2048 ∧ a = .tile n) ∨ (∃ k, k < 384 ∧ a = .mem k) →
    (v.toNat < 2 ^ 16 → v.toNat / 8 % 32 = 0 → v.toNat / 2 % 4 ≠ 3 → exec (.errInjectWrite a v) s = .next (setCore s a { coreOf s a with errInject := v })) ∧
    ((2 ^ 16 ≤ v.toNat ∨ v.toNat / 8 % 32 ≠ 0 ∨ v.toNat / 2 % 4 = 3) → exec (.errInjectWrite a v) s = .next s)) ∧
  (∀ a (kind : BitVec 2) (addr : Word) s, let c := coreOf s a; let v := c.errInject.toNat
    (v % 2 = 0 ∨ v / 2 % 4 ≠ kind.toNat → exec (.errInjectFire a kind addr) s = .next (setCore s a c)) ∧
    (v % 2 = 1 → v / 2 % 4 = kind.toNat → v / 2 ^ 8 % 2 ^ 8 ≠ 0 →
      exec (.errInjectFire a kind addr) s = .next (setCore s a { c with errInject := BitVec.ofNat 64 (v - 256) })) ∧
    (v % 2 = 1 → v / 2 % 4 = kind.toNat → v / 2 ^ 8 % 2 ^ 8 = 0 → exec (.errInjectFire a kind addr) s =
      .next (setCore s a { c with errInject := BitVec.ofNat 64 (v - 1), pend := c.pend ++ [{ cause := .ue, addr := addr }] }))) ∧
  (∀ addr s, let a := addr / 32 * 32
    exec (.scrubSector addr false) s = .next s ∧
    (duplicated s a = true → poisonedAt s (dupAddr a) 32 = false → ∃ t, exec (.scrubSector addr true) s = .next t ∧ t = { s with mem := t.mem, poisoned := t.poisoned } ∧
      memBytes t a 32 = memBytes s (dupAddr a) 32 ∧ (∀ p, p ∈ t.poisoned ↔ p ∈ s.poisoned ∧ p ≠ a / 32) ∧
      ∀ q, (q < a ∨ a + 32 ≤ q) → tget t.mem 0#8 q = tget s.mem 0#8 q) ∧
    (duplicated s a = false ∨ poisonedAt s (dupAddr a) 32 = true → ∃ t, exec (.scrubSector addr true) s = .next t ∧
      t = { s with poisoned := t.poisoned, notices := s.notices ++ [.poisoned a] } ∧ ∀ p, p ∈ t.poisoned ↔ p = a / 32 ∨ p ∈ s.poisoned)) ∧
  (∀ pkg s, (pkg = s.ownPkg ∨ 2048 ≤ pkg → exec (.incarnationAdvance pkg) s = .next s) ∧
    (pkg ≠ s.ownPkg → pkg < 2048 → s.acqQ = [] → (∀ e ∈ s.contexts, pkg ∉ e.2.pkgs) → s.collectives = [] →
      ∃ t, exec (.incarnationAdvance pkg) s = .next t ∧
        t = { s with incarnations := t.incarnations, net := t.net, starter := { s.starter with batons := t.starter.batons } } ∧
        tget t.incarnations 0#8 pkg = tget s.incarnations 0#8 pkg + 1#8 ∧ (∀ p, p ≠ pkg → tget t.incarnations 0#8 p = tget s.incarnations 0#8 p) ∧
        t.net.length = s.net.length ∧
        ∀ (i : Nat) (p : Packet), s.net[i]? = some p → p.addr < 2 ^ 59 → p.addr / 2 ^ 48 % 2 ^ 11 = pkg →
          (∀ n v e va, p.kind = .store n v e va → t.net[i]? = some { p with kind := .lost p.src va }) ∧
          (∀ n e, p.kind = .load n e → ∃ va, t.net[i]? = some { p with kind := .reply p.src (.fail { cause := .remoteLost, addr := va }) }) ∧
          (∀ o n x y e va, p.kind = .atomic o n x y true e va →
            t.net[i]? = some { p with kind := .reply p.src (.fail { cause := .remoteLost, addr := BitVec.ofNat 64 va }) })))
/-! ### Where each form completes

Each clause names one form, the conditions on the state and the operands under which the form has its own effect, and that exec then answers a next state, with the mark of that
effect. What else the form does is stated with its family above. -/

namespace Sys2Proof.Says

/-- The core that steps has nothing pending, no answer waits for it, and the registers that its instruction names are no ports. -/
def settled (s : State) (rs : List Reg) : Prop :=
  (own s).scalars = [] ∧ (own s).inflight = [] ∧ (own s).replies = [] ∧ ∀ r ∈ rs, isPort (kind s) r = false

/-- What a register of the core that steps holds. -/
abbrev val (s : State) (r : Reg) : Word := reg (own s) r

/-- The core that steps has gone on at the next word. -/
def goneOn (s t : State) : Prop := (coreOf t s.cur).pc = (own s).pc + 4#14

/-- One entry of the core's TLB at most is for an address (R213). -/
def oneEntry (s : State) (va : Word) : Prop :=
  ∀ d ∈ (own s).tlb, ∀ e ∈ (own s).tlb, d.ctx = e.ctx → leafCovers d.leaf va.toNat = true → leafCovers e.leaf va.toNat = true → d = e

/-- No context of a gang on this core runs laps. -/
def noLaps (s : State) (a : Agent) : Prop := ∀ x, ctxOf s (coreOf s a) = some x → (contextOf s x).laps = false

/-- A member with no word, no dirty sector, no stream and nothing in progress. -/
def idleMember (s : State) (a : Agent) : Prop :=
  let c := coreOf s a
  c.fifoA = [] ∧ c.fifoB = [] ∧ c.lines = [] ∧ c.streams = [] ∧ c.replies = [] ∧ c.blocked = false ∧ c.inflight = [] ∧ c.scalars = [] ∧ c.landing = false

/-- A gang whose members are idle, with nothing on the network and no matrix command in its quads. -/
def idleGang (s : State) (g : Gang) : Prop :=
  s.net = [] ∧ (∀ a ∈ laneAgents g.first g.lanes, idleMember s a) ∧ ∀ q ∈ laneQuads g.first g.lanes, (quadOf s q).queue = []

/-- The Starter does its own work (R235, R236). -/
def serving (s : State) : Prop := s.starter.stopped = false ∧ s.starter.takingOver = false

/-- A switch word of tile n is ready (R112, R114, R119): its switch runs, each FIFO that it pops holds a word without an error, each that it pushes into has room, its cursors are set for
it and have accesses left, and its gang runs no laps. -/
def issues (s : State) (n : Nat) (r : Routes) (extra : List Nat) : Prop :=
  switchRuns s n ∧ wordReady s n r extra ∧ cursorsAgree s n r ∧ noLaps s (.tile n)

end Sys2Proof.Says

/-- Where the cache, TLB, baton, collective and matrix forms complete: CFLUSH and CINV (R344), TLBW and TLBINV (R213, R214), BATON (R338), XCOLL and XWAIT (R297, R298), MMA, MCELL, MZERO and
MDRAIN (R152, R154, R157, R159). -/
def Obligations.CoreFormsComplete : Prop :=
  (∀ a s e, settled s [a] → mapped s (own s) true false false (val s a) e → s.net = [] → (∀ l ∈ (own s).lines, l.2.dirty = 0#128) →
    ∃ t, exec (.cflush a) s = .next t ∧ goneOn s t ∧ t.mem = s.mem) ∧
  (∀ a s e, settled s [a] → mapped s (own s) true false false (val s a) e →
    ∃ t, exec (.cinv a) s = .next t ∧ goneOn s t ∧ t.mem = s.mem ∧ t.net = s.net) ∧
  (∀ a b s m, settled s [a, b] → kind s = .supervisor → (own s).fillTarget = some m → fillable (val s b ++ val s a) m.va →
    ∃ t, exec (.tlbw a b) s = .next t ∧ goneOn s t ∧ (coreOf t s.cur).fillTarget = none ∧
      t.net = s.net ++ [{ src := agentCode s.cur, addr := m.va, kind := .tlbFill m (val s b ++ val s a) }]) ∧
  (∀ a s, settled s [a] → kind s = .supervisor → s.net = [] → (∀ c ∈ s.cores, ∀ l ∈ c.2.lines, l.2.dirty = 0#128) →
    ∃ t, exec (.tlbinv a) s = .next t ∧ goneOn s t ∧ t.mem = s.mem) ∧
  (∀ a b s, settled s [a, b] → (val s a).toNat % 128 = 0 → (val s b).toNat < 256 → s.net = [] → passAway s = false → (queueOf s (val s b).toNat).bound = true →
    ctxOf s (own s) = some (queueOf s (val s b).toNat).ctx → (queueOf s (val s b).toNat).entries.length < 64 →
    ∃ t e, exec (.baton a b) s = .next t ∧ goneOn s t ∧ (queueOf t (val s b).toNat).entries = (queueOf s (val s b).toNat).entries ++ [e] ∧
      t.starter.pend.getLsbD (val s b).toNat = true) ∧
  (∀ a s e es ed x, settled s [a] → ctxOf s (own s) = some x → (val s a).toNat % 64 = 0 → mapped s (own s) true true true (val s a) e → plainPage e → s.net = [] →
    let d := memRead s (physAt e (val s a)) 64; let f (off n : Nat) : Nat := d / 2 ^ (8 * off) % 2 ^ (8 * n)
    let b : BitVec 512 := BitVec.ofNat 512 d; let src := BitVec.ofNat 64 (collSrc b); let dst := BitVec.ofNat 64 (collDst b)
    mapped s (own s) true false true src es → mapped s (own s) false true true dst ed → oneEntry s (val s a) → oneEntry s src → oneEntry s dst →
    src.toNat % 8 = 0 → dst.toNat % 8 = 0 → src = dst → f 0x1C 4 = 0 → f 0x28 24 = 0 → collOp b ≤ 3 → collType b ≤ 3 → 1 ≤ collCount b →
    collCount b * collSize (collType b) ≤ 2 ^ 24 → s.collectives = [] →
    ∃ t y, exec (.xcoll a) s = .next t ∧ goneOn s t ∧ t.collectives = [y] ∧ memRead t (physAt e (val s a) + 0x20) 8 = 1) ∧
  (∀ a s e, settled s [a] → (val s a).toNat % 64 = 0 → mapped s (own s) true true true (val s a) e → s.net = [] →
    memRead s (physAt e (val s a) + 0x20) 8 % 4 = 2 → ∃ t, exec (.xwait a) s = .next t ∧ goneOn s t ∧ t.mem = s.mem) ∧
  (∀ b s m, mayCommand s m → ∃ t, exec (.mzero b) s = .next t ∧ goneOn s t ∧ (quadRec t m).queue.length = (quadRec s m).queue.length + 1) ∧
  (∀ a s m d, settled s [a] → mayCommand s m → descriptorAt s (own s) (val s a) 16 d → cellPasses d →
    ∃ t, exec (.mcell a) s = .next t ∧ goneOn s t ∧ (quadRec t m).queue.length = (quadRec s m).queue.length + 1) ∧
  (∀ a s m d, settled s [a] → mayCommand s m → undoReserved s (kind s) (own s) = false → descriptorAt s (own s) (val s a) 32 d →
    mmaPasses d ((((quadRec s m).cells[tileInQuad m]?).getD none).isSome) (2 ^ 20) → (∀ i, i < 4 → (quadCore s (tileQuad m) i).score = []) →
    ∃ t, exec (.mma a) s = .next t ∧ goneOn s t ∧ (quadRec t m).queue.length = (quadRec s m).queue.length + 1) ∧
  (∀ a s m d, settled s [a] → mayCommand s m → undoReserved s (kind s) (own s) = false → descriptorAt s (own s) (val s a) 32 d →
    drainPasses d (2 ^ 20) → (∀ i, i < 4 → (quadCore s (tileQuad m) i).score = []) →
    ∃ t, exec (.mdrain a) s = .next t ∧ goneOn s t ∧ (quadRec t m).queue.length = (quadRec s m).queue.length + 1)

/-- Where the words of a switch complete (R112, R114 to R120, R124): each issues when it is ready, and its spc stands where its rule leaves it. -/
def Obligations.SwitchFormsComplete : Prop :=
  let spc (s : State) (n : Nat) : BitVec 10 := (coreOf s (.tile n)).spc
  (∀ r s n, (Instr.route r).WellFormed = true → issues s n r [] → ∃ t, exec (.route r) s = .next t ∧ spc t n = spc s n + 1#10) ∧
  (∀ r dest ix k s n, (Instr.sj r dest ix k).WellFormed = true → issues s n r [] →
    ∃ t, exec (.sj r dest ix k) s = .next t ∧ spc t n = if ix then dest + (cnt (coreOf s (.tile n)) k).setWidth 10 else dest) ∧
  (∀ r k m s n, (Instr.sloop r k m).WellFormed = true → issues s n r [] →
    ∃ t, exec (.sloop r k m) s = .next t ∧ spc t n = spc s n + 1#10 ∧ cnt (coreOf t (.tile n)) k = m.setWidth 16) ∧
  (∀ r k dest s n, (Instr.sdbnz r k dest).WellFormed = true → issues s n r [] →
    ∃ t, exec (.sdbnz r k dest) s = .next t ∧ cnt (coreOf t (.tile n)) k = cnt (coreOf s (.tile n)) k - 1#16 ∧
      spc t n = if cnt (coreOf s (.tile n)) k = 1#16 then spc s n + 1#10 else dest) ∧
  (∀ r k src s n, (Instr.smov r k src).WellFormed = true → issues s n r [src.toNat] →
    ∃ t, exec (.smov r k src) s = .next t ∧ spc t n = spc s n + 1#10 ∧
      cnt (coreOf t (.tile n)) k = (sourceWord s n r false src.toNat).setWidth 16) ∧
  (∀ r k m s n, (Instr.scurSwitch r k m).WellFormed = true → issues s n r [] → (coreOf s (.tile n)).score = [] →
    ∃ t, exec (.scurSwitch r k m) s = .next t ∧ spc t n = spc s n + 1#10 ∧ (cursorAt (coreOf t (.tile n)) k.toNat).left = m.setWidth 16) ∧
  (∀ r slot s n serial g, (Instr.stok r slot).WellFormed = true → issues s n r [] → s.starter.takingOver = false → (coreOf s (.tile n)).gang = some serial →
    tfind s.gangs serial = some g → ∃ t h, exec (.stok r slot) s = .next t ∧ spc t n = spc s n + 1#10 ∧ tfind t.gangs serial = some h ∧
      h.tokens = g.tokens ++ [slot]) ∧
  (∀ r s n, (Instr.swaith r).WellFormed = true → issues s n r [] → ∃ t, exec (.swaith r) s = .next t ∧ (coreOf t (.tile n)).swWaitH = true) ∧
  (∀ r s n, (Instr.shalt r).WellFormed = true → issues s n r [] → ∃ t, exec (.shalt r) s = .next t ∧ (coreOf t (.tile n)).swHalted = true)

/-- Where the events of streams, cursors and the matrix block take effect (R116, R149, R160, R185, R186, R216). -/
def Sys2Proof.Says.UnitEvents : Prop :=
  (∀ s k slot st e base n, st.write = false → sdCopy st.desc = false → st.run = some base → movable s k slot st st.pages e (base + st.byte) n →
    (fifoOf s (sdPlane st.desc) (.mem k, 4)).length < 4 → (st.byte ≠ 0 ∨ s.windows = []) → s.poisoned = [] →
    ∃ t w, exec (.streamWord k slot) s = .next t ∧ fifoOf t (sdPlane st.desc) (.mem k, 4) = fifoOf s (sdPlane st.desc) (.mem k, 4) ++ [w]) ∧
  (∀ s k slot st, streamOf s k slot = some st → st.done = true → ∃ t, exec (.streamComplete k slot) s = .next t ∧ streamOf t k slot = none) ∧
  (∀ s k slot st tr, streamOf s k slot = some st → st.fault = some tr → tr.cause = .boundary ∨ tr.cause = .illegal →
    ∃ t, exec (.streamFault k slot) s = .next t ∧ streamOf t k slot = none ∧ tr ∈ (coreOf t (.mem k)).pend) ∧
  (∀ s n k u, k < 4 → (coreOf s (.tile n)).cursors[k]? = some u → u.left = 0#16 →
    ∃ t, exec (.cursorExhausted n k) s = .next t ∧ ∀ e ∈ (coreOf t (.tile n)).score, e.owner ≠ .cursor k) ∧
  (∀ s quad c l, (quadOf s quad).queue = c :: l → c.begun = false → (∀ g ∈ s.gangs, g.2.stopping = false) →
    ∃ t d, exec (.matrixCmdBegin quad 0) s = .next t ∧ d ∈ (quadOf t quad).queue ∧ d = { c with begun := true }) ∧
  (∀ s quad c l, (quadOf s quad).queue = c :: l → c.begun = true → c.kind = .mzero → (∀ g ∈ s.gangs, g.2.stopping = false) →
    ∃ t, exec (.matrixCmdComplete quad 0) s = .next t ∧ (∀ d ∈ (quadOf t quad).queue, d.serial ≠ c.serial) ∧
      ∀ i j, i < 128 → j < 128 → element (quadOf t quad) (c.desc.toNat % 2) i j = 0#32) ∧
  (∀ s quad k, (quadOf s quad).held = false → 1 ≤ k → k ≤ 4 → leaseOf (quadOf s quad) (((quadOf s quad).holder + k) % 4) = .waiting →
    ∃ t, exec (.leaseGrant quad) s = .next t ∧ (quadOf t quad).held = true ∧ leaseOf (quadOf t quad) (quadOf t quad).holder = .holding)

/-- Where the events of gangs take effect: HURDLE_COMPLETE (R41), JOB_HURDLE_ARRIVAL (R299), GANG_AT_SEAL (R267), DECISION_TOKEN and DECISION_FLIP (R42, R43), LOAD_COMMIT (R227), PREEMPT (R242),
RESTORE (R248), LOCK_HOLDER_NOTICE (R254), RUNNER_RETIRE (R362), DEADLOCK_SCAN (R252). -/
def Sys2Proof.Says.GangEvents : Prop :=
  (∀ s serial g, tfind s.gangs serial = some g → g.state = .running → g.hurdleOn = true → g.hurdleScope = 0#2 → g.sealing = false →
    (∀ m ∈ membersOf g.lanes, m ∈ g.arrived) → idleGang s g →
    ∃ t h, exec (.hurdleComplete serial) s = .next t ∧ tfind t.gangs serial = some h ∧ h.hurdleOn = false ∧ h.arrived = []) ∧
  (∀ s serial g pkg, tfind s.gangs serial = some g → g.state = .running → (contextOf s g.ctx).switching = false → pkg ∈ (contextOf s g.ctx).pkgs → pkg ≠ s.ownPkg →
    capturedOpen s serial (portOfPkg s pkg) = false → ∃ t h, exec (.jobHurdleArrival serial pkg) s = .next t ∧ tfind t.gangs serial = some h ∧ h = { g with jobArrived := g.jobArrived ++ [pkg] }) ∧
  (∀ s serial g, tfind s.gangs serial = some g → g.state = .running → g.stopping = false → g.atSeal = false → g.hurdleOn = true → g.hurdleScope = 0#2 → g.sealing = true →
    (∀ m ∈ membersOf g.lanes, m ∈ g.arrived) → idleGang s g →
    ∃ t h, exec (.gangAtSeal serial) s = .next t ∧ tfind t.gangs serial = some h ∧ h.atSeal = true) ∧
  (∀ s serial g slot r, tfind s.gangs serial = some g → g.state = .running → g.stopping = false → serving s → g.applying = none → g.tokens = slot :: r →
    ∃ t, exec (.decisionToken serial) s = .next t ∧ tfind t.gangs serial = some { g with applying := some slot, tokens := r }) ∧
  (∀ s serial g slot, tfind s.gangs serial = some g → g.state = .running → g.stopping = false → serving s → g.applying = some slot → g.first + g.lanes ≤ 32 → idleGang s g →
    (∀ a ∈ laneAgents g.first g.lanes, (coreOf s a).mode = .stopped ∧ tagged s (bImage g.bytes) g.ctx slot.toNat a slot.toNat = true) →
    ∃ t h, exec (.decisionFlip serial) s = .next t ∧ tfind t.gangs serial = some h ∧ h.slot = slot ∧ h.applying = none ∧
      ∀ a ∈ laneAgents g.first g.lanes, (coreOf t a).mode = .running ∧ (coreOf t a).slot = slot ∧ (coreOf t a).pc = 0#14) ∧
  (∀ s serial g l, tfind s.gangs serial = some g → g.state = .loading → serving s → g.first + g.lanes ≤ 32 →
    loadLeg s g.ctx g.cfg (bImage g.bytes) 0 g.retried = .ok l → passAway s = false →
    (∀ e ∈ (contextOf s g.ctx).capture, e.serial ≠ serial ∧ e.serial ≠ 0) →
    ∃ t h, exec (.loadCommit serial true) s = .next t ∧ tfind t.gangs serial = some h ∧ h.state = .running ∧
      ∀ a ∈ laneAgents g.first g.lanes, (coreOf t a).mode = .running ∧ (coreOf t a).pc = 0#14) ∧
  (∀ s serial g, tfind s.gangs serial = some g → g.state = .running → g.first + g.lanes ≤ 32 → g.heat = none → g.stopping = true → idleGang s g →
    (∀ a ∈ laneAgents g.first g.lanes, (coreOf s a).wait = .none) →
    ∃ t h, exec (.preempt serial) s = .next t ∧ tfind t.gangs serial = some h ∧ h.state = .saved ∧ ∀ a ∈ laneAgents g.first g.lanes, (coreOf t a).mode = .off) ∧
  (∀ s serial g i f, s.gangs = [(serial, g)] → g.state = .saved → g.image = some i → (contextOf s g.ctx).running = true → (contextOf s g.ctx).stopped = none →
    lowestRun s g.lanes = some f → g.unloaded = false → (∀ a ∈ laneAgents f g.lanes, tagged s (bImage g.bytes) g.ctx (configOf g) a g.slot.toNat = true) →
    ∃ t h, exec (.restore serial) s = .next t ∧ tfind t.gangs serial = some h ∧ h.state = .running ∧ h.first = f) ∧
  (∀ s holder waiter h w r, tfind s.gangs holder = some h → tfind s.gangs waiter = some w → h.state = .saved → s.acqQ = [r] → r.who.serial = waiter →
    heldBy s r.obj holder = true → (contextOf s h.ctx).running = false → alone s holder h → serving s →
    ∃ t k, exec (.lockHolderNotice holder waiter) s = .next t ∧ .lockHolder holder waiter ∈ t.notices ∧ tfind t.gangs holder = some k ∧ k.resume = true ∧
      ∃ e ∈ k.boost, e.2 = r.obj ∧ gangPriority s w ≤ e.1) ∧
  (∀ s serial g, tfind s.gangs serial = some g → g.state = .saved → g.cancelled = true →
    (∀ m ∈ membersOf g.lanes, (memberCore s serial m).holdings = [] ∧ (memberCore s serial m).wait = .none) →
    ∃ t, exec (.runnerRetire serial) s = .next t ∧ tfind t.gangs serial = none) ∧
  (∀ s, s.gangs = [] → s.trackTime.toNat % 1000 = 0 → s.starter.lastScan ≠ some s.trackTime.toNat → s.starter.stopped = false →
    ∃ t, exec .deadlockScan s = .next t ∧ t.starter.lastScan = some s.trackTime.toNat)

/-- Where the events of the units and of gangs take effect. -/
def Obligations.UnitAndGangEventsTakeEffect : Prop := Says.UnitEvents ∧ Says.GangEvents

/-- Where the events of jobs take effect: SEAL_COMMIT, IDLE_SEAL, RECLAMATION_DONE, ROLLBACK (R260, R268, R272), COLLECTIVE_COMPLETE (R297), QUIET_MARKER (R249), INCARNATION_ADVANCE (R217),
TIME_TRIGGERED_SWITCH (R233), RELEASE_COMPLETE (R38), TTIME_REACHED (R33), AGING (R46), CONTEXT_TEARDOWN (R307). -/
def Sys2Proof.Says.JobEvents : Prop :=
  (∀ s ctx, let x := contextOf s ctx
    x.laps = true → x.sealPending = true → x.reclaiming = [] → x.trigger = none → (∀ e ∈ s.gangs, e.2.ctx = ctx → e.2.state = .running ∧ e.2.atSeal = true) →
    (∀ e ∈ s.heats, e.2.ctx ≠ ctx) → x.stagedWrites = [] → x.stagedRecords = [] → x.heldRecords = [] → x.heldSteps = [] →
    ∃ t, exec (.sealCommit ctx) s = .next t ∧ (contextOf t ctx).lapId = x.lapId + 1#32 ∧ (contextOf t ctx).sealPending = false) ∧
  (∀ s ctx, let x := contextOf s ctx
    x.laps = true → x.resident = true → x.sealPending = false → x.idleSealed = false → s.gangs = [] → s.starter.queues = [] → s.starter.pushBuf = [] →
    ∃ t, exec (.idleSeal ctx) s = .next t ∧ (contextOf t ctx).sealPending = true) ∧
  (∀ s ctx mc, mc ∈ (contextOf s ctx).reclaiming → ∃ t, exec (.reclamationDone ctx mc) s = .next t ∧ mc ∉ (contextOf t ctx).reclaiming) ∧
  (∀ s ctx, let x := contextOf s ctx
    x.laps = true → x.trigger.isSome = true → x.rollbacks < rollbackLimit x → s.poisoned = [] → s.gangs = [] → x.current = none → lapUndo s ctx = [] →
    ¬ lostForGood s ctx → nothingUnderway s ctx →
    ∃ t, exec (.rollback ctx) s = .next t ∧ (contextOf t ctx).rollbacks = x.rollbacks + 1 ∧ (contextOf t ctx).trigger = none ∧ (contextOf t ctx).lapId = x.lapId) ∧
  (∀ s x bs ed pd, s.collectives = [x] → (contextOf s x.ctx).running = true → (contextOf s x.ctx).stopped = none → (∀ n, x.gang = some n → tfind s.gangs n = none) →
    dataCaptured s x = false → collWhole x.desc s.ownPkg (contextOf s x.ctx).pkgs [] [s.ownPkg] = true → plainPage x.leaf → plainPage ed →
    unitRead s x.ctx x.cfg { need := .r, scalar := false, memSide := true } (collSrc x.desc) (collBytes x.desc) = .ok bs →
    let r := collResult x.desc [(s.ownPkg, bs)] [s.ownPkg]
    translateFor s x.ctx x.cfg { need := .w, scalar := false, memSide := true } (collDst x.desc) = .ok (ed, pd) → collDst x.desc % 4096 + r.length ≤ 4096 → 0 < r.length →
    ∃ t, exec (.collectiveComplete 0 [] [s.ownPkg]) s = .next t ∧ t.collectives = [] ∧ memRead t (x.descAt + 0x20) 8 = 2) ∧
  (∀ s ctx port, (contextOf s ctx).resident = true → port ∈ jobPorts s ctx → ∃ t, exec (.quietMarker ctx port) s = .next t ∧ port ∈ (contextOf t ctx).quiet) ∧
  (∀ s pkg, pkg ≠ s.ownPkg → pkg < 2048 → s.acqQ = [] → s.collectives = [] → (∀ e ∈ s.contexts, pkg ∉ e.2.pkgs) →
    ∃ t, exec (.incarnationAdvance pkg) s = .next t ∧ incarnation t pkg = incarnation s pkg + 1#8) ∧
  (∀ s idx e, s.starter.ttable = [(idx, e)] → e.valid = true → e.done = false → e.failed = false → e.time ≤ s.trackTime.toNat → s.starter.switching = none → serving s →
    s.mgmt.thermalStop = false → passAway s = false → e.out = 0xFFFF → e.inn ≠ 0xFFFF → (contextOf s e.inn).resident = true →
    (contextOf s e.inn).running = true → s.gangs = [] →
    ∃ t, exec (.timeTriggeredSwitch idx) s = .next t ∧ tget t.starter.ttable {} idx = { e with done := true } ∧ (contextOf t e.inn).running = true) ∧
  (∀ s n b, batonOf s n = some b → b.stage = .release → b.byFirmware = false → serving s → s.net = [] → b.lost = false → bCword b.bytes = 0 → bSucc0 b.bytes = 0 →
    bSucc1 b.bytes = 0 → bSealing b.bytes = false → (contextOf s b.ctx).laps = true →
    ∃ t, exec (.releaseComplete n) s = .next t ∧ batonOf t n = none) ∧
  (∀ s q n b, (queueOf s q).current = some n → batonOf s n = some b → bTimed b.bytes = true → bTtime b.bytes ≤ s.trackTime.toNat → b.ready = none → b.stage = .head →
    b.depMet = true → ∃ t, exec (.ttimeReached q) s = .next t ∧ batonOf t n = some { b with ready := some s.trackTime.toNat }) ∧
  (∀ s q n b since, (queueOf s q).current = some n → batonOf s n = some b → b.ready = some since → since + 2000000 * (b.waited + 1) ≤ s.trackTime.toNat →
    ∃ t, exec (.aging q) s = .next t ∧ batonOf t n = some { b with waited := b.waited + 1 }) ∧
  (∀ s ctx, (contextOf s ctx).resident = true → s.gangs = [] → ∃ t, exec (.contextTeardown ctx) s = .next t ∧ contextOf t ctx = {})

/-- Where the events of the Starter and of homes take effect: STARTER_PASS (R224), PUSH_BUFFER_APPEND (R223), STARTER_TAKEOVER (R236), ISSUE and JOURNAL_DONE (R234, R327), OBJECT_GRANT and
OBJECT_RELEASE (R199, R200), WAKE_DELIVERY (R253), HEAT_DEADLINE (R282). -/
def Sys2Proof.Says.StarterAndHomeEvents : Prop :=
  (∀ s q, onlyQueues s → headsWait s → q < 256 → (queueOf s q).bound = true → s.starter.pend.getLsbD q = true → s.starter.app.getLsbD q = true →
    (queueOf s q).entries.length < 64 → ∃ t e, exec .starterPass s = .next t ∧ t.starter.pend.getLsbD q = false ∧
      (queueOf t q).entries = (queueOf s q).entries ++ [e] ∧ e.bytes = tget s.starter.submit 0#1024 q) ∧
  (∀ s q e r, s.starter.pushBuf = (q, e) :: r → (queueOf s q).entries.length < 64 → starterRests s →
    ∃ t f, exec .pushBufferAppend s = .next t ∧ t.starter.pushBuf = r ∧ (queueOf t q).entries = (queueOf s q).entries ++ [f] ∧ f.bytes = e.bytes) ∧
  (∀ s, serving s → s.starter.active < 2 → s.starter.standbyOk = false →
    ∃ t, exec .starterTakeover s = .next t ∧ t.starter.stopped = true ∧ .packageFault ∈ t.notices) ∧
  (∀ s seq, seq < 2 ^ 32 → s.starter.performed = [] → jeDone (entryAt s seq) = false → jeSeq (entryAt s seq) = seq → belowTail s seq = true → jeKind (entryAt s seq) = 1 →
    jeQ (entryAt s seq) < 256 → s.starter.pend.getLsbD (jeQ (entryAt s seq)) = true → s.starter.app.getLsbD (jeQ (entryAt s seq)) = false →
    (queueOf s (jeQ (entryAt s seq))).bound = true →
    ∃ t, exec (.issue seq) s = .next t ∧ t.starter.performed = [seq] ∧ t.starter.pend.getLsbD (jeQ (entryAt s seq)) = false) ∧
  (∀ s seq, s.starter.performed = [seq] → failedRelease s seq = none → s.starter.delayed = [] → acknowledged s seq = true → jeSeq (entryAt s seq) = seq →
    ∃ t, exec (.journalDone seq) s = .next t ∧ t.starter.performed = [] ∧ jeDone (entryAt t seq) = true) ∧
  (∀ s r g, s.acqQ = [r] → s.pick = 0 → tfind s.gangs r.who.serial = some g → g.state = .running → plainPage r.leaf → r.shared = false → memRead s r.obj 8 % 2 ^ 17 = 0 →
    ∃ t, exec .objectGrant s = .next t ∧ t.acqQ = [] ∧ memRead t r.obj 8 / 2 ^ 16 % 2 = 1 ∧ .ok 0#64 ∈ (coreOf t (memberAgent g.first r.who.member)).replies) ∧
  (∀ s p h e, picked s = some p → p.kind = .release h e → plainPage e → s.acqQ = [] → h.shared = false →
    ∃ t, exec .objectRelease s = .next t ∧ memRead t p.addr 8 / 2 ^ 16 % 2 = 0 ∧ .ok 0#64 ∈ (coreOf t (agentOf p.src)).replies) ∧
  (∀ s p serial m g, picked s = some p → p.kind = .wake serial m → tfind s.gangs serial = some g → g.state = .running →
    ∃ t, exec .wakeDelivery s = .next t ∧ .ok 0#64 ∈ (coreOf t (memberAgent g.first m)).replies) ∧
  (∀ s rec h, tfind s.heats rec = some h → h.deadline ≠ 0 → h.deadline ≤ h.run → plainPage h.leaf → memRead s (rec + 2) 1 ≤ 64 → s.heatWaiters = [] →
    ∃ t, exec (.heatDeadline rec) s = .next t ∧ tfind t.heats rec = none ∧ 2 ≤ memRead t rec 1)

/-- Where the events of jobs, of the Starter and of homes take effect. -/
def Obligations.JobAndStarterEventsTakeEffect : Prop := Says.JobEvents ∧ Says.StarterAndHomeEvents
end

