-- ==== Sys2Proof/Laws/Table.lean ====
section
/-! SUPPORT. The laws of sparse tables: reading after writing, and the canonical form. -/

namespace Sys2Proof.Machine

variable {α : Type}

/-- Every key of the table lies above k. -/
def tabove (t : Tbl α) (k : Nat) : Prop := ∀ e ∈ t, k < e.1

theorem tfind_above {t : Tbl α} {k : Nat} (h : tabove t k) : tfind t k = none := by
  induction t with
  | nil => rfl
  | cons e r ih =>
    obtain ⟨j, v⟩ := e
    have hj : k < j := h (j, v) (by simp)
    simp only [tfind, show ¬ j = k by omega, if_false]
    exact ih fun e he => h e (by simp [he])

@[simp] theorem tfind_tput_same (t : Tbl α) (k : Nat) (v : α) : tfind (tput t k v) k = some v := by
  induction t with
  | nil => simp [tput, tfind]
  | cons e r ih =>
    obtain ⟨j, w⟩ := e
    by_cases h1 : k < j
    · simp [tput, h1, tfind]
    · by_cases h2 : k = j
      · simp [tput, h2, tfind]
      · simp [tput, h1, h2, tfind, show ¬ j = k by omega, ih]

theorem tfind_tput_ne (t : Tbl α) {k j : Nat} (v : α) (h : j ≠ k) : tfind (tput t k v) j = tfind t j := by
  induction t with
  | nil => simp [tput, tfind, h.symm]
  | cons e r ih =>
    obtain ⟨i, w⟩ := e
    by_cases h1 : k < i
    · simp [tput, h1, tfind, h.symm]
    · by_cases h2 : k = i
      · subst h2; simp [tput, tfind, h.symm]
      · by_cases h3 : i = j
        · subst h3; simp [tput, h1, h2, tfind]
        · simp [tput, h1, h2, tfind, h3, ih]

theorem tfind_tput (t : Tbl α) (k j : Nat) (v : α) : tfind (tput t k v) j = if j = k then some v else tfind t j := by
  by_cases h : j = k
  · subst h; simp
  · simp [h, tfind_tput_ne]

@[simp] theorem tget_tput_same (t : Tbl α) (d : α) (k : Nat) (v : α) : tget (tput t k v) d k = v := by simp [tget]

theorem tget_tput_ne (t : Tbl α) (d : α) {k j : Nat} (v : α) (h : j ≠ k) : tget (tput t k v) d j = tget t d j := by
  simp [tget, tfind_tput_ne t v h]

@[simp] theorem tput_tput (t : Tbl α) (k : Nat) (v w : α) : tput (tput t k v) k w = tput t k w := by
  induction t with
  | nil => simp [tput]
  | cons e r ih =>
    obtain ⟨j, u⟩ := e
    by_cases h1 : k < j
    · simp [tput, h1]
    · by_cases h2 : k = j
      · simp [tput, h2]
      · simp [tput, h1, h2, ih]

theorem tfind_tdel (t : Tbl α) (k j : Nat) : tfind (tdel t k) j = if j = k then none else tfind t j := by
  induction t with
  | nil => simp [tdel, tfind]
  | cons e r ih =>
    obtain ⟨i, v⟩ := e
    unfold tdel at ih ⊢
    by_cases h1 : i = k
    · subst h1
      by_cases h2 : j = i
      · subst h2; simpa [tfind] using ih
      · simp [tfind, h2, ih, show ¬ i = j by omega]
    · by_cases h2 : i = j
      · subst h2; simp [tfind, h1]
      · simp [tfind, h1, h2, ih]

/-- Reading after writing gives the value written. -/
@[simp] theorem tget_tset_same [DecidableEq α] (t : Tbl α) (d : α) (k : Nat) (v : α) : tget (tset t d k v) d k = v := by
  by_cases h : v = d
  · simp [tset, h, tget, tfind_tdel]
  · simp [tset, h]

/-- A write leaves every other key alone. -/
theorem tget_tset_ne [DecidableEq α] (t : Tbl α) (d : α) {k j : Nat} (v : α) (h : j ≠ k) : tget (tset t d k v) d j = tget t d j := by
  by_cases hv : v = d
  · simp [tset, hv, tget, tfind_tdel, h]
  · simp [tset, hv, tget_tput_ne _ _ _ h]

theorem tget_tset [DecidableEq α] (t : Tbl α) (d : α) (k j : Nat) (v : α) :
    tget (tset t d k v) d j = if j = k then v else tget t d j := by
  by_cases h : j = k
  · subst h; simp
  · simp [h, tget_tset_ne]

/-- A run of values is written at its keys and nowhere else. -/
theorem tget_tsetList [DecidableEq α] (vs : List α) (t : Tbl α) (d : α) (k j : Nat) :
    tget (tsetList t d k vs) d j = if k ≤ j ∧ j < k + vs.length then vs.getD (j - k) d else tget t d j := by
  induction vs generalizing t k with
  | nil => simp [tsetList]
  | cons v r ih =>
    rw [tsetList, ih]
    by_cases h1 : j = k
    · subst h1
      simp
    · rw [tget_tset_ne _ _ _ h1]
      by_cases h2 : k + 1 ≤ j ∧ j < k + 1 + r.length
      · obtain ⟨i, hi⟩ : ∃ i, j - k = i + 1 := ⟨j - k - 1, by omega⟩
        have : j - (k + 1) = i := by omega
        have h3 : k ≤ j ∧ j < k + (v :: r).length := by simp; omega
        rw [if_pos h2, if_pos h3, hi, this]
        simp
      · have h3 : ¬ (k ≤ j ∧ j < k + (v :: r).length) := by simp; omega
        rw [if_neg h2, if_neg h3]

/-! ### The canonical form -/

theorem twf_cons [DecidableEq α] {d : α} {e : Nat × α} {r : Tbl α} :
    twf (e :: r) d = true ↔ e.2 ≠ d ∧ tabove r e.1 ∧ twf r d = true := by
  obtain ⟨j, v⟩ := e
  simp [twf, tabove, and_assoc]

theorem tabove_tput {t : Tbl α} {j k : Nat} {v : α} (h : tabove t j) (hk : j < k) : tabove (tput t k v) j := by
  induction t with
  | nil => intro e he; simp [tput] at he; subst he; exact hk
  | cons x r ih =>
    obtain ⟨i, w⟩ := x
    have hr : tabove r j := fun e he => h e (by simp [he])
    have hi : j < i := h (i, w) (by simp)
    intro e he
    unfold tput at he
    split at he
    · simp at he; rcases he with rfl | rfl | he
      · exact hk
      · exact hi
      · exact hr e he
    · split at he
      · simp at he; rcases he with rfl | he
        · exact hk
        · exact hr e he
      · simp at he; rcases he with rfl | he
        · exact hi
        · exact ih hr e he

theorem twf_tput [DecidableEq α] {t : Tbl α} {d : α} {k : Nat} {v : α} (h : twf t d = true) (hv : v ≠ d) :
    twf (tput t k v) d = true := by
  induction t with
  | nil => simp [tput, twf, hv]
  | cons e r ih =>
    obtain ⟨j, w⟩ := e
    have ⟨hw, ha, hr⟩ := twf_cons.1 h
    unfold tput
    split
    · next h1 =>
      refine twf_cons.2 ⟨hv, ?_, h⟩
      intro e he
      simp at he; rcases he with rfl | he
      · exact h1
      · exact Nat.lt_trans h1 (ha e he)
    · split
      · next h1 h2 => subst h2; exact twf_cons.2 ⟨hv, ha, hr⟩
      · next h1 h2 => exact twf_cons.2 ⟨hw, tabove_tput ha (by simp only at h1 h2 ⊢; omega), ih hr⟩

/-- Taking entries out keeps the canonical form. -/
theorem twf_filter [DecidableEq α] {t : Tbl α} {d : α} (p : Nat × α → Bool) (h : twf t d = true) : twf (t.filter p) d = true := by
  induction t with
  | nil => simpa using h
  | cons e r ih =>
    have ⟨hw, ha, hr⟩ := twf_cons.1 h
    rw [List.filter_cons]
    split
    · exact twf_cons.2 ⟨hw, fun x hx => ha x (List.mem_filter.1 hx).1, ih hr⟩
    · exact ih hr

/-- A write keeps the canonical form. -/
theorem twf_tset [DecidableEq α] {t : Tbl α} {d : α} {k : Nat} {v : α} (h : twf t d = true) : twf (tset t d k v) d = true := by
  unfold tset tdel
  split
  · exact twf_filter _ h
  · next hv => exact twf_tput h hv

/-- Writing a run keeps the canonical form. -/
theorem twf_tsetList [DecidableEq α] (vs : List α) {t : Tbl α} {d : α} {k : Nat} (h : twf t d = true) :
    twf (tsetList t d k vs) d = true := by
  induction vs generalizing t k with
  | nil => exact h
  | cons v r ih => exact ih (twf_tset h)

/-- Two canonical tables that read the same at every key are the same table. -/
theorem twf_ext [DecidableEq α] {t u : Tbl α} {d : α} (ht : twf t d = true) (hu : twf u d = true)
    (h : ∀ k, tget t d k = tget u d k) : t = u := by
  induction t generalizing u with
  | nil =>
    cases u with
    | nil => rfl
    | cons e r =>
      have ⟨hw, _, _⟩ := twf_cons.1 hu
      have := h e.1
      simp [tget, tfind] at this
      exact absurd this.symm hw
  | cons e r ih =>
    obtain ⟨j, v⟩ := e
    have ⟨hv, ha, hr⟩ := twf_cons.1 ht
    cases u with
    | nil =>
      have := h j
      simp [tget, tfind] at this
      exact absurd this hv
    | cons e2 r2 =>
      obtain ⟨j2, v2⟩ := e2
      have ⟨hv2, ha2, hr2⟩ := twf_cons.1 hu
      simp only at hv hv2 ha ha2
      have hj : j = j2 := by
        rcases Nat.lt_trichotomy j j2 with hl | he | hl
        · have h1 := h j
          have h2 : tfind r2 j = none := tfind_above fun e he => Nat.lt_trans hl (ha2 e he)
          simp [tget, tfind, show ¬ j2 = j by omega, h2] at h1
          exact absurd h1 hv
        · exact he
        · have h1 := h j2
          have h2 : tfind r j2 = none := tfind_above fun e he => Nat.lt_trans hl (ha e he)
          simp [tget, tfind, show ¬ j = j2 by omega, h2] at h1
          exact absurd h1.symm hv2
      subst hj
      have hvv : v = v2 := by simpa [tget, tfind] using h j
      subst hvv
      refine congrArg _ (ih hr hr2 fun k => ?_)
      by_cases hk : j = k
      · subst hk
        simp [tget, tfind_above ha, tfind_above ha2]
      · simpa [tget, tfind, hk] using h k

end Sys2Proof.Machine
end

