-- ==== Sys2Proof/Laws/State.lean ====
section
/-! SUPPORT. What each named update of the state leaves unchanged: one lemma per field per update; reading a record after
writing it. -/

namespace Sys2Proof.Machine

/-! ### Agents have one number each -/

theorem agentCode_inj {a b : Agent} (h : agentCode a = agentCode b) : a = b := by
  cases a <;> cases b <;> simp only [agentCode] at h <;> first | rfl | (congr 1; omega)

/-! ### Cores, contexts, gangs -/

@[simp] theorem coreOf_setCore_same (s : State) (a : Agent) (c : Core) : coreOf (setCore s a c) a = c := by simp [coreOf, setCore]

theorem coreOf_setCore_ne (s : State) {a b : Agent} (c : Core) (h : b ≠ a) : coreOf (setCore s a c) b = coreOf s b := by
  simp only [coreOf, setCore]
  exact tget_tput_ne _ _ _ fun e => h (agentCode_inj e)

@[simp] theorem setCore_setCore (s : State) (a : Agent) (c e : Core) : setCore (setCore s a c) a e = setCore s a e := by
  simp [setCore]

@[simp] theorem contextOf_setContext_same (s : State) (x : Nat) (c : Context) : contextOf (setContext s x c) x = c := by
  simp [contextOf, setContext]

theorem contextOf_setContext_ne (s : State) {x y : Nat} (c : Context) (h : y ≠ x) :
    contextOf (setContext s x c) y = contextOf s y := by
  simp only [contextOf, setContext]
  exact tget_tput_ne _ _ _ h

@[simp] theorem find_setGang_same (s : State) (n : Nat) (g : Gang) : tfind (setGang s n g).gangs n = some g := by simp [setGang]

theorem find_setGang_ne (s : State) {n m : Nat} (g : Gang) (h : m ≠ n) :
    tfind (setGang s n g).gangs m = tfind s.gangs m := by
  simp only [setGang]
  exact tfind_tput_ne _ _ h

@[simp] theorem coreOf_setContext (s : State) (x : Nat) (c : Context) (a : Agent) : coreOf (setContext s x c) a = coreOf s a := rfl
@[simp] theorem coreOf_setGang (s : State) (n : Nat) (g : Gang) (a : Agent) : coreOf (setGang s n g) a = coreOf s a := rfl
@[simp] theorem coreOf_urgent (s : State) (ts : List Turn) (a : Agent) : coreOf (urgent s ts) a = coreOf s a := rfl
@[simp] theorem coreOf_notify (s : State) (n : SupNotice) (a : Agent) : coreOf (notify s n) a = coreOf s a := rfl
@[simp] theorem contextOf_setCore (s : State) (a : Agent) (c : Core) (x : Nat) : contextOf (setCore s a c) x = contextOf s x := rfl
@[simp] theorem contextOf_setGang (s : State) (n : Nat) (g : Gang) (x : Nat) : contextOf (setGang s n g) x = contextOf s x := rfl

/-! ### setCore -/

@[simp] theorem setCore_cur (s : State) (a : Agent) (c : Core) : (setCore s a c).cur = s.cur := rfl
@[simp] theorem setCore_agenda (s : State) (a : Agent) (c : Core) : (setCore s a c).agenda = s.agenda := rfl
@[simp] theorem setCore_pick (s : State) (a : Agent) (c : Core) : (setCore s a c).pick = s.pick := rfl
@[simp] theorem setCore_fresh (s : State) (a : Agent) (c : Core) : (setCore s a c).fresh = s.fresh := rfl
@[simp] theorem setCore_ownPkg (s : State) (a : Agent) (c : Core) : (setCore s a c).ownPkg = s.ownPkg := rfl
@[simp] theorem setCore_trackTime (s : State) (a : Agent) (c : Core) : (setCore s a c).trackTime = s.trackTime := rfl
@[simp] theorem setCore_quads (s : State) (a : Agent) (c : Core) : (setCore s a c).quads = s.quads := rfl
@[simp] theorem setCore_gangs (s : State) (a : Agent) (c : Core) : (setCore s a c).gangs = s.gangs := rfl
@[simp] theorem setCore_contexts (s : State) (a : Agent) (c : Core) : (setCore s a c).contexts = s.contexts := rfl
@[simp] theorem setCore_mem (s : State) (a : Agent) (c : Core) : (setCore s a c).mem = s.mem := rfl
@[simp] theorem setCore_lapTags (s : State) (a : Agent) (c : Core) : (setCore s a c).lapTags = s.lapTags := rfl
@[simp] theorem setCore_poisoned (s : State) (a : Agent) (c : Core) : (setCore s a c).poisoned = s.poisoned := rfl
@[simp] theorem setCore_net (s : State) (a : Agent) (c : Core) : (setCore s a c).net = s.net := rfl
@[simp] theorem setCore_acqQ (s : State) (a : Agent) (c : Core) : (setCore s a c).acqQ = s.acqQ := rfl
@[simp] theorem setCore_heatWaiters (s : State) (a : Agent) (c : Core) : (setCore s a c).heatWaiters = s.heatWaiters := rfl
@[simp] theorem setCore_heats (s : State) (a : Agent) (c : Core) : (setCore s a c).heats = s.heats := rfl
@[simp] theorem setCore_starter (s : State) (a : Agent) (c : Core) : (setCore s a c).starter = s.starter := rfl
@[simp] theorem setCore_windows (s : State) (a : Agent) (c : Core) : (setCore s a c).windows = s.windows := rfl
@[simp] theorem setCore_incarnations (s : State) (a : Agent) (c : Core) : (setCore s a c).incarnations = s.incarnations := rfl
@[simp] theorem setCore_routes (s : State) (a : Agent) (c : Core) : (setCore s a c).routes = s.routes := rfl
@[simp] theorem setCore_collectives (s : State) (a : Agent) (c : Core) : (setCore s a c).collectives = s.collectives := rfl
@[simp] theorem setCore_inCopies (s : State) (a : Agent) (c : Core) : (setCore s a c).inCopies = s.inCopies := rfl
@[simp] theorem setCore_outQ (s : State) (a : Agent) (c : Core) : (setCore s a c).outQ = s.outQ := rfl
@[simp] theorem setCore_writes (s : State) (a : Agent) (c : Core) : (setCore s a c).writes = s.writes := rfl
@[simp] theorem setCore_hostMem (s : State) (a : Agent) (c : Core) : (setCore s a c).hostMem = s.hostMem := rfl
@[simp] theorem setCore_hostRead (s : State) (a : Agent) (c : Core) : (setCore s a c).hostRead = s.hostRead := rfl
@[simp] theorem setCore_msix (s : State) (a : Agent) (c : Core) : (setCore s a c).msix = s.msix := rfl
@[simp] theorem setCore_mgmt (s : State) (a : Agent) (c : Core) : (setCore s a c).mgmt = s.mgmt := rfl
@[simp] theorem setCore_notices (s : State) (a : Agent) (c : Core) : (setCore s a c).notices = s.notices := rfl

/-! ### setContext -/

@[simp] theorem setContext_cur (s : State) (x : Nat) (c : Context) : (setContext s x c).cur = s.cur := rfl
@[simp] theorem setContext_agenda (s : State) (x : Nat) (c : Context) : (setContext s x c).agenda = s.agenda := rfl
@[simp] theorem setContext_pick (s : State) (x : Nat) (c : Context) : (setContext s x c).pick = s.pick := rfl
@[simp] theorem setContext_fresh (s : State) (x : Nat) (c : Context) : (setContext s x c).fresh = s.fresh := rfl
@[simp] theorem setContext_ownPkg (s : State) (x : Nat) (c : Context) : (setContext s x c).ownPkg = s.ownPkg := rfl
@[simp] theorem setContext_trackTime (s : State) (x : Nat) (c : Context) : (setContext s x c).trackTime = s.trackTime := rfl
@[simp] theorem setContext_cores (s : State) (x : Nat) (c : Context) : (setContext s x c).cores = s.cores := rfl
@[simp] theorem setContext_quads (s : State) (x : Nat) (c : Context) : (setContext s x c).quads = s.quads := rfl
@[simp] theorem setContext_gangs (s : State) (x : Nat) (c : Context) : (setContext s x c).gangs = s.gangs := rfl
@[simp] theorem setContext_mem (s : State) (x : Nat) (c : Context) : (setContext s x c).mem = s.mem := rfl
@[simp] theorem setContext_lapTags (s : State) (x : Nat) (c : Context) : (setContext s x c).lapTags = s.lapTags := rfl
@[simp] theorem setContext_poisoned (s : State) (x : Nat) (c : Context) : (setContext s x c).poisoned = s.poisoned := rfl
@[simp] theorem setContext_net (s : State) (x : Nat) (c : Context) : (setContext s x c).net = s.net := rfl
@[simp] theorem setContext_acqQ (s : State) (x : Nat) (c : Context) : (setContext s x c).acqQ = s.acqQ := rfl
@[simp] theorem setContext_heatWaiters (s : State) (x : Nat) (c : Context) : (setContext s x c).heatWaiters = s.heatWaiters := rfl
@[simp] theorem setContext_heats (s : State) (x : Nat) (c : Context) : (setContext s x c).heats = s.heats := rfl
@[simp] theorem setContext_starter (s : State) (x : Nat) (c : Context) : (setContext s x c).starter = s.starter := rfl
@[simp] theorem setContext_windows (s : State) (x : Nat) (c : Context) : (setContext s x c).windows = s.windows := rfl
@[simp] theorem setContext_incarnations (s : State) (x : Nat) (c : Context) : (setContext s x c).incarnations = s.incarnations := rfl
@[simp] theorem setContext_routes (s : State) (x : Nat) (c : Context) : (setContext s x c).routes = s.routes := rfl
@[simp] theorem setContext_collectives (s : State) (x : Nat) (c : Context) : (setContext s x c).collectives = s.collectives := rfl
@[simp] theorem setContext_inCopies (s : State) (x : Nat) (c : Context) : (setContext s x c).inCopies = s.inCopies := rfl
@[simp] theorem setContext_outQ (s : State) (x : Nat) (c : Context) : (setContext s x c).outQ = s.outQ := rfl
@[simp] theorem setContext_writes (s : State) (x : Nat) (c : Context) : (setContext s x c).writes = s.writes := rfl
@[simp] theorem setContext_hostMem (s : State) (x : Nat) (c : Context) : (setContext s x c).hostMem = s.hostMem := rfl
@[simp] theorem setContext_hostRead (s : State) (x : Nat) (c : Context) : (setContext s x c).hostRead = s.hostRead := rfl
@[simp] theorem setContext_msix (s : State) (x : Nat) (c : Context) : (setContext s x c).msix = s.msix := rfl
@[simp] theorem setContext_mgmt (s : State) (x : Nat) (c : Context) : (setContext s x c).mgmt = s.mgmt := rfl
@[simp] theorem setContext_notices (s : State) (x : Nat) (c : Context) : (setContext s x c).notices = s.notices := rfl

/-! ### setGang -/

@[simp] theorem setGang_cur (s : State) (n : Nat) (g : Gang) : (setGang s n g).cur = s.cur := rfl
@[simp] theorem setGang_agenda (s : State) (n : Nat) (g : Gang) : (setGang s n g).agenda = s.agenda := rfl
@[simp] theorem setGang_pick (s : State) (n : Nat) (g : Gang) : (setGang s n g).pick = s.pick := rfl
@[simp] theorem setGang_fresh (s : State) (n : Nat) (g : Gang) : (setGang s n g).fresh = s.fresh := rfl
@[simp] theorem setGang_ownPkg (s : State) (n : Nat) (g : Gang) : (setGang s n g).ownPkg = s.ownPkg := rfl
@[simp] theorem setGang_trackTime (s : State) (n : Nat) (g : Gang) : (setGang s n g).trackTime = s.trackTime := rfl
@[simp] theorem setGang_cores (s : State) (n : Nat) (g : Gang) : (setGang s n g).cores = s.cores := rfl
@[simp] theorem setGang_quads (s : State) (n : Nat) (g : Gang) : (setGang s n g).quads = s.quads := rfl
@[simp] theorem setGang_contexts (s : State) (n : Nat) (g : Gang) : (setGang s n g).contexts = s.contexts := rfl
@[simp] theorem setGang_mem (s : State) (n : Nat) (g : Gang) : (setGang s n g).mem = s.mem := rfl
@[simp] theorem setGang_lapTags (s : State) (n : Nat) (g : Gang) : (setGang s n g).lapTags = s.lapTags := rfl
@[simp] theorem setGang_poisoned (s : State) (n : Nat) (g : Gang) : (setGang s n g).poisoned = s.poisoned := rfl
@[simp] theorem setGang_net (s : State) (n : Nat) (g : Gang) : (setGang s n g).net = s.net := rfl
@[simp] theorem setGang_acqQ (s : State) (n : Nat) (g : Gang) : (setGang s n g).acqQ = s.acqQ := rfl
@[simp] theorem setGang_heatWaiters (s : State) (n : Nat) (g : Gang) : (setGang s n g).heatWaiters = s.heatWaiters := rfl
@[simp] theorem setGang_heats (s : State) (n : Nat) (g : Gang) : (setGang s n g).heats = s.heats := rfl
@[simp] theorem setGang_starter (s : State) (n : Nat) (g : Gang) : (setGang s n g).starter = s.starter := rfl
@[simp] theorem setGang_windows (s : State) (n : Nat) (g : Gang) : (setGang s n g).windows = s.windows := rfl
@[simp] theorem setGang_incarnations (s : State) (n : Nat) (g : Gang) : (setGang s n g).incarnations = s.incarnations := rfl
@[simp] theorem setGang_routes (s : State) (n : Nat) (g : Gang) : (setGang s n g).routes = s.routes := rfl
@[simp] theorem setGang_collectives (s : State) (n : Nat) (g : Gang) : (setGang s n g).collectives = s.collectives := rfl
@[simp] theorem setGang_inCopies (s : State) (n : Nat) (g : Gang) : (setGang s n g).inCopies = s.inCopies := rfl
@[simp] theorem setGang_outQ (s : State) (n : Nat) (g : Gang) : (setGang s n g).outQ = s.outQ := rfl
@[simp] theorem setGang_writes (s : State) (n : Nat) (g : Gang) : (setGang s n g).writes = s.writes := rfl
@[simp] theorem setGang_hostMem (s : State) (n : Nat) (g : Gang) : (setGang s n g).hostMem = s.hostMem := rfl
@[simp] theorem setGang_hostRead (s : State) (n : Nat) (g : Gang) : (setGang s n g).hostRead = s.hostRead := rfl
@[simp] theorem setGang_msix (s : State) (n : Nat) (g : Gang) : (setGang s n g).msix = s.msix := rfl
@[simp] theorem setGang_mgmt (s : State) (n : Nat) (g : Gang) : (setGang s n g).mgmt = s.mgmt := rfl
@[simp] theorem setGang_notices (s : State) (n : Nat) (g : Gang) : (setGang s n g).notices = s.notices := rfl

/-! ### urgent -/

@[simp] theorem urgent_cur (s : State) (ts : List Turn) : (urgent s ts).cur = s.cur := rfl
@[simp] theorem urgent_pick (s : State) (ts : List Turn) : (urgent s ts).pick = s.pick := rfl
@[simp] theorem urgent_fresh (s : State) (ts : List Turn) : (urgent s ts).fresh = s.fresh := rfl
@[simp] theorem urgent_ownPkg (s : State) (ts : List Turn) : (urgent s ts).ownPkg = s.ownPkg := rfl
@[simp] theorem urgent_trackTime (s : State) (ts : List Turn) : (urgent s ts).trackTime = s.trackTime := rfl
@[simp] theorem urgent_cores (s : State) (ts : List Turn) : (urgent s ts).cores = s.cores := rfl
@[simp] theorem urgent_quads (s : State) (ts : List Turn) : (urgent s ts).quads = s.quads := rfl
@[simp] theorem urgent_gangs (s : State) (ts : List Turn) : (urgent s ts).gangs = s.gangs := rfl
@[simp] theorem urgent_contexts (s : State) (ts : List Turn) : (urgent s ts).contexts = s.contexts := rfl
@[simp] theorem urgent_mem (s : State) (ts : List Turn) : (urgent s ts).mem = s.mem := rfl
@[simp] theorem urgent_lapTags (s : State) (ts : List Turn) : (urgent s ts).lapTags = s.lapTags := rfl
@[simp] theorem urgent_poisoned (s : State) (ts : List Turn) : (urgent s ts).poisoned = s.poisoned := rfl
@[simp] theorem urgent_net (s : State) (ts : List Turn) : (urgent s ts).net = s.net := rfl
@[simp] theorem urgent_acqQ (s : State) (ts : List Turn) : (urgent s ts).acqQ = s.acqQ := rfl
@[simp] theorem urgent_heatWaiters (s : State) (ts : List Turn) : (urgent s ts).heatWaiters = s.heatWaiters := rfl
@[simp] theorem urgent_heats (s : State) (ts : List Turn) : (urgent s ts).heats = s.heats := rfl
@[simp] theorem urgent_starter (s : State) (ts : List Turn) : (urgent s ts).starter = s.starter := rfl
@[simp] theorem urgent_windows (s : State) (ts : List Turn) : (urgent s ts).windows = s.windows := rfl
@[simp] theorem urgent_incarnations (s : State) (ts : List Turn) : (urgent s ts).incarnations = s.incarnations := rfl
@[simp] theorem urgent_routes (s : State) (ts : List Turn) : (urgent s ts).routes = s.routes := rfl
@[simp] theorem urgent_collectives (s : State) (ts : List Turn) : (urgent s ts).collectives = s.collectives := rfl
@[simp] theorem urgent_inCopies (s : State) (ts : List Turn) : (urgent s ts).inCopies = s.inCopies := rfl
@[simp] theorem urgent_outQ (s : State) (ts : List Turn) : (urgent s ts).outQ = s.outQ := rfl
@[simp] theorem urgent_writes (s : State) (ts : List Turn) : (urgent s ts).writes = s.writes := rfl
@[simp] theorem urgent_hostMem (s : State) (ts : List Turn) : (urgent s ts).hostMem = s.hostMem := rfl
@[simp] theorem urgent_hostRead (s : State) (ts : List Turn) : (urgent s ts).hostRead = s.hostRead := rfl
@[simp] theorem urgent_msix (s : State) (ts : List Turn) : (urgent s ts).msix = s.msix := rfl
@[simp] theorem urgent_mgmt (s : State) (ts : List Turn) : (urgent s ts).mgmt = s.mgmt := rfl
@[simp] theorem urgent_notices (s : State) (ts : List Turn) : (urgent s ts).notices = s.notices := rfl

/-! ### notify -/

@[simp] theorem notify_cur (s : State) (n : SupNotice) : (notify s n).cur = s.cur := rfl
@[simp] theorem notify_agenda (s : State) (n : SupNotice) : (notify s n).agenda = s.agenda := rfl
@[simp] theorem notify_pick (s : State) (n : SupNotice) : (notify s n).pick = s.pick := rfl
@[simp] theorem notify_fresh (s : State) (n : SupNotice) : (notify s n).fresh = s.fresh := rfl
@[simp] theorem notify_ownPkg (s : State) (n : SupNotice) : (notify s n).ownPkg = s.ownPkg := rfl
@[simp] theorem notify_trackTime (s : State) (n : SupNotice) : (notify s n).trackTime = s.trackTime := rfl
@[simp] theorem notify_cores (s : State) (n : SupNotice) : (notify s n).cores = s.cores := rfl
@[simp] theorem notify_quads (s : State) (n : SupNotice) : (notify s n).quads = s.quads := rfl
@[simp] theorem notify_gangs (s : State) (n : SupNotice) : (notify s n).gangs = s.gangs := rfl
@[simp] theorem notify_contexts (s : State) (n : SupNotice) : (notify s n).contexts = s.contexts := rfl
@[simp] theorem notify_mem (s : State) (n : SupNotice) : (notify s n).mem = s.mem := rfl
@[simp] theorem notify_lapTags (s : State) (n : SupNotice) : (notify s n).lapTags = s.lapTags := rfl
@[simp] theorem notify_poisoned (s : State) (n : SupNotice) : (notify s n).poisoned = s.poisoned := rfl
@[simp] theorem notify_net (s : State) (n : SupNotice) : (notify s n).net = s.net := rfl
@[simp] theorem notify_acqQ (s : State) (n : SupNotice) : (notify s n).acqQ = s.acqQ := rfl
@[simp] theorem notify_heatWaiters (s : State) (n : SupNotice) : (notify s n).heatWaiters = s.heatWaiters := rfl
@[simp] theorem notify_heats (s : State) (n : SupNotice) : (notify s n).heats = s.heats := rfl
@[simp] theorem notify_starter (s : State) (n : SupNotice) : (notify s n).starter = s.starter := rfl
@[simp] theorem notify_windows (s : State) (n : SupNotice) : (notify s n).windows = s.windows := rfl
@[simp] theorem notify_incarnations (s : State) (n : SupNotice) : (notify s n).incarnations = s.incarnations := rfl
@[simp] theorem notify_routes (s : State) (n : SupNotice) : (notify s n).routes = s.routes := rfl
@[simp] theorem notify_collectives (s : State) (n : SupNotice) : (notify s n).collectives = s.collectives := rfl
@[simp] theorem notify_inCopies (s : State) (n : SupNotice) : (notify s n).inCopies = s.inCopies := rfl
@[simp] theorem notify_outQ (s : State) (n : SupNotice) : (notify s n).outQ = s.outQ := rfl
@[simp] theorem notify_writes (s : State) (n : SupNotice) : (notify s n).writes = s.writes := rfl
@[simp] theorem notify_hostMem (s : State) (n : SupNotice) : (notify s n).hostMem = s.hostMem := rfl
@[simp] theorem notify_hostRead (s : State) (n : SupNotice) : (notify s n).hostRead = s.hostRead := rfl
@[simp] theorem notify_msix (s : State) (n : SupNotice) : (notify s n).msix = s.msix := rfl
@[simp] theorem notify_mgmt (s : State) (n : SupNotice) : (notify s n).mgmt = s.mgmt := rfl

/-! ### memWrite -/

@[simp] theorem memWrite_cur (s : State) (addr : Nat) (bs : List Byte) : (memWrite s addr bs).cur = s.cur := rfl
@[simp] theorem memWrite_agenda (s : State) (addr : Nat) (bs : List Byte) : (memWrite s addr bs).agenda = s.agenda := rfl
@[simp] theorem memWrite_pick (s : State) (addr : Nat) (bs : List Byte) : (memWrite s addr bs).pick = s.pick := rfl
@[simp] theorem memWrite_fresh (s : State) (addr : Nat) (bs : List Byte) : (memWrite s addr bs).fresh = s.fresh := rfl
@[simp] theorem memWrite_ownPkg (s : State) (addr : Nat) (bs : List Byte) : (memWrite s addr bs).ownPkg = s.ownPkg := rfl
@[simp] theorem memWrite_trackTime (s : State) (addr : Nat) (bs : List Byte) : (memWrite s addr bs).trackTime = s.trackTime := rfl
@[simp] theorem memWrite_cores (s : State) (addr : Nat) (bs : List Byte) : (memWrite s addr bs).cores = s.cores := rfl
@[simp] theorem memWrite_quads (s : State) (addr : Nat) (bs : List Byte) : (memWrite s addr bs).quads = s.quads := rfl
@[simp] theorem memWrite_gangs (s : State) (addr : Nat) (bs : List Byte) : (memWrite s addr bs).gangs = s.gangs := rfl
@[simp] theorem memWrite_contexts (s : State) (addr : Nat) (bs : List Byte) : (memWrite s addr bs).contexts = s.contexts := rfl
@[simp] theorem memWrite_lapTags (s : State) (addr : Nat) (bs : List Byte) : (memWrite s addr bs).lapTags = s.lapTags := rfl
@[simp] theorem memWrite_net (s : State) (addr : Nat) (bs : List Byte) : (memWrite s addr bs).net = s.net := rfl
@[simp] theorem memWrite_acqQ (s : State) (addr : Nat) (bs : List Byte) : (memWrite s addr bs).acqQ = s.acqQ := rfl
@[simp] theorem memWrite_heatWaiters (s : State) (addr : Nat) (bs : List Byte) : (memWrite s addr bs).heatWaiters = s.heatWaiters := rfl
@[simp] theorem memWrite_heats (s : State) (addr : Nat) (bs : List Byte) : (memWrite s addr bs).heats = s.heats := rfl
@[simp] theorem memWrite_starter (s : State) (addr : Nat) (bs : List Byte) : (memWrite s addr bs).starter = s.starter := rfl
@[simp] theorem memWrite_windows (s : State) (addr : Nat) (bs : List Byte) : (memWrite s addr bs).windows = s.windows := rfl
@[simp] theorem memWrite_incarnations (s : State) (addr : Nat) (bs : List Byte) : (memWrite s addr bs).incarnations = s.incarnations := rfl
@[simp] theorem memWrite_routes (s : State) (addr : Nat) (bs : List Byte) : (memWrite s addr bs).routes = s.routes := rfl
@[simp] theorem memWrite_collectives (s : State) (addr : Nat) (bs : List Byte) : (memWrite s addr bs).collectives = s.collectives := rfl
@[simp] theorem memWrite_inCopies (s : State) (addr : Nat) (bs : List Byte) : (memWrite s addr bs).inCopies = s.inCopies := rfl
@[simp] theorem memWrite_outQ (s : State) (addr : Nat) (bs : List Byte) : (memWrite s addr bs).outQ = s.outQ := rfl
@[simp] theorem memWrite_writes (s : State) (addr : Nat) (bs : List Byte) : (memWrite s addr bs).writes = s.writes := rfl
@[simp] theorem memWrite_hostMem (s : State) (addr : Nat) (bs : List Byte) : (memWrite s addr bs).hostMem = s.hostMem := rfl
@[simp] theorem memWrite_hostRead (s : State) (addr : Nat) (bs : List Byte) : (memWrite s addr bs).hostRead = s.hostRead := rfl
@[simp] theorem memWrite_msix (s : State) (addr : Nat) (bs : List Byte) : (memWrite s addr bs).msix = s.msix := rfl
@[simp] theorem memWrite_mgmt (s : State) (addr : Nat) (bs : List Byte) : (memWrite s addr bs).mgmt = s.mgmt := rfl
@[simp] theorem memWrite_notices (s : State) (addr : Nat) (bs : List Byte) : (memWrite s addr bs).notices = s.notices := rfl

/-! ### memClear -/

@[simp] theorem memClear_cur (s : State) (addr n : Nat) : (memClear s addr n).cur = s.cur := rfl
@[simp] theorem memClear_agenda (s : State) (addr n : Nat) : (memClear s addr n).agenda = s.agenda := rfl
@[simp] theorem memClear_pick (s : State) (addr n : Nat) : (memClear s addr n).pick = s.pick := rfl
@[simp] theorem memClear_fresh (s : State) (addr n : Nat) : (memClear s addr n).fresh = s.fresh := rfl
@[simp] theorem memClear_ownPkg (s : State) (addr n : Nat) : (memClear s addr n).ownPkg = s.ownPkg := rfl
@[simp] theorem memClear_trackTime (s : State) (addr n : Nat) : (memClear s addr n).trackTime = s.trackTime := rfl
@[simp] theorem memClear_cores (s : State) (addr n : Nat) : (memClear s addr n).cores = s.cores := rfl
@[simp] theorem memClear_quads (s : State) (addr n : Nat) : (memClear s addr n).quads = s.quads := rfl
@[simp] theorem memClear_gangs (s : State) (addr n : Nat) : (memClear s addr n).gangs = s.gangs := rfl
@[simp] theorem memClear_contexts (s : State) (addr n : Nat) : (memClear s addr n).contexts = s.contexts := rfl
@[simp] theorem memClear_lapTags (s : State) (addr n : Nat) : (memClear s addr n).lapTags = s.lapTags := rfl
@[simp] theorem memClear_poisoned (s : State) (addr n : Nat) : (memClear s addr n).poisoned = s.poisoned := rfl
@[simp] theorem memClear_net (s : State) (addr n : Nat) : (memClear s addr n).net = s.net := rfl
@[simp] theorem memClear_acqQ (s : State) (addr n : Nat) : (memClear s addr n).acqQ = s.acqQ := rfl
@[simp] theorem memClear_heatWaiters (s : State) (addr n : Nat) : (memClear s addr n).heatWaiters = s.heatWaiters := rfl
@[simp] theorem memClear_heats (s : State) (addr n : Nat) : (memClear s addr n).heats = s.heats := rfl
@[simp] theorem memClear_starter (s : State) (addr n : Nat) : (memClear s addr n).starter = s.starter := rfl
@[simp] theorem memClear_windows (s : State) (addr n : Nat) : (memClear s addr n).windows = s.windows := rfl
@[simp] theorem memClear_incarnations (s : State) (addr n : Nat) : (memClear s addr n).incarnations = s.incarnations := rfl
@[simp] theorem memClear_routes (s : State) (addr n : Nat) : (memClear s addr n).routes = s.routes := rfl
@[simp] theorem memClear_collectives (s : State) (addr n : Nat) : (memClear s addr n).collectives = s.collectives := rfl
@[simp] theorem memClear_inCopies (s : State) (addr n : Nat) : (memClear s addr n).inCopies = s.inCopies := rfl
@[simp] theorem memClear_outQ (s : State) (addr n : Nat) : (memClear s addr n).outQ = s.outQ := rfl
@[simp] theorem memClear_writes (s : State) (addr n : Nat) : (memClear s addr n).writes = s.writes := rfl
@[simp] theorem memClear_hostMem (s : State) (addr n : Nat) : (memClear s addr n).hostMem = s.hostMem := rfl
@[simp] theorem memClear_hostRead (s : State) (addr n : Nat) : (memClear s addr n).hostRead = s.hostRead := rfl
@[simp] theorem memClear_msix (s : State) (addr n : Nat) : (memClear s addr n).msix = s.msix := rfl
@[simp] theorem memClear_mgmt (s : State) (addr n : Nat) : (memClear s addr n).mgmt = s.mgmt := rfl
@[simp] theorem memClear_notices (s : State) (addr n : Nat) : (memClear s addr n).notices = s.notices := rfl

end Sys2Proof.Machine
end

