-- ==== Sys2Proof/Laws/Ops.lean ====
section
/-! SUPPORT. What the shared operations of a core do, once each: reading and writing registers and ports, the interlock, completing,
freezing, and what a meaning that touches its own core only can come to. -/

namespace Sys2Proof.Machine

variable {k : CoreKind} {c : Core} {s : State}

/-! ### Registers and ports -/

theorem readX_x0 (h : isPort k 0#5 = false) : readX k c 0#5 = .ok (0#64, c) := by simp [readX, h]

theorem readX_reg {r : Reg} (hp : isPort k r = false) (h0 : r ≠ 0#5) : readX k c r = .ok (c.x[r.toNat], c) := by simp [readX, hp, h0]

theorem readV_reg {r : Reg} (hp : isPort k r = false) : readV k c r = .ok (c.v[r.toNat], c) := by simp [readV, hp]

@[simp] theorem readP_zero : readP c 0#3 = BitVec.allOnes 128 := rfl

theorem writeX_reg {r : Reg} (hp : isPort k r = false) (v : Word) : writeX k c r v = .ok (putX c r.toNat v) := by simp [writeX, hp]

@[simp] theorem putX_zero (v : Word) : putX c 0 v = c := rfl

@[simp] theorem putP_zero (v : PWord) : putP c 0 v = c := rfl

theorem putX_eq {r : Nat} (h : r ≠ 0) (v : Word) : putX c r v = { c with x := c.x.setIfInBounds r v } := by simp [putX, h]

theorem putX_shape (r : Nat) (v : Word) : putX c r v = { c with x := (putX c r v).x } := by
  unfold putX; split <;> rfl

theorem setFifoA_shape (i : Nat) (l : List Word) : setFifoA c i l =
    { c with fifoA := (setFifoA c i l).fifoA, stirred := true } := rfl

@[simp] theorem fifoA_setFifoA_same (i : Nat) (l : List Word) : fifoA (setFifoA c i l) i = l := by simp [fifoA, setFifoA]

theorem fifoA_setFifoA_ne {i j : Nat} (l : List Word) (h : j ≠ i) : fifoA (setFifoA c i l) j = fifoA c j := by
  simp [fifoA, setFifoA, tget_tset_ne _ _ _ h]

@[simp] theorem fifoB_setFifoB_same (i : Nat) (l : List VWord) : fifoB (setFifoB c i l) i = l := by simp [fifoB, setFifoB]

theorem fifoB_setFifoB_ne {i j : Nat} (l : List VWord) (h : j ≠ i) : fifoB (setFifoB c i l) j = fifoB c j := by
  simp [fifoB, setFifoB, tget_tset_ne _ _ _ h]

theorem injectEvent_shape (n : Nat) : (injectEvent c n).2 = { c with errInject := (injectEvent c n).2.errInject } := by
  unfold injectEvent
  split
  · split <;> rfl
  · rfl

theorem popMark_shape (b : Bool) (i : Nat) : (popMark c b i).2 = { c with marks := (popMark c b i).2.marks } := by
  unfold popMark; split <;> rfl

/-- A pop changes its FIFO, the marks of errors, the error injection and the causes due, nothing else. -/
theorem popEvent_shape (d : Nat) (b : Bool) : popEvent c d b =
    { c with marks := (popEvent c d b).marks, errInject := (popEvent c d b).errInject, pend := (popEvent c d b).pend } := by
  have h1 := popMark_shape (c := c) b d
  have h2 := injectEvent_shape (c := (popMark c b d).2) 2
  unfold popEvent addPend
  dsimp only
  generalize (popMark c b d).2.marks = m at h1
  rw [h1] at h2 ⊢
  generalize (injectEvent _ 2).2.errInject = e at h2
  rw [h2]
  split <;> rfl

theorem popEvent_idle (h : c.errInject.getLsbD 0 = false) (hm : c.marks = []) (d : Nat) (b : Bool) : popEvent c d b = c := by
  have h1 : injectArmed c 2 = false := by unfold injectArmed; rw [h]; rfl
  unfold popEvent popMark injectEvent
  rw [if_pos hm]
  dsimp only
  rw [h1]
  rfl

/-- What reading a scalar source can change: a FIFO, the record of words pulled, the error injection. -/
theorem readX_shape {r : Reg} {x : Word} {c' : Core} (h : readX k c r = .ok (x, c')) :
    c' = { c with fifoA := c'.fifoA, stirred := c'.stirred, marks := c'.marks, pulled := c'.pulled, taken := c'.taken,
                  errInject := c'.errInject, pend := c'.pend } := by
  unfold readX at h
  split at h
  · unfold pullA at h
    split at h
    · cases h; rfl
    · split at h
      · cases h
      · cases h
        rw [popEvent_shape]
        rfl
  · split at h <;> cases h <;> rfl

/-- What reading a vector source can change. -/
theorem readV_shape {r : Reg} {x : VWord} {c' : Core} (h : readV k c r = .ok (x, c')) :
    c' = { c with fifoB := c'.fifoB, stirred := c'.stirred, marks := c'.marks, pulled := c'.pulled, taken := c'.taken,
                  errInject := c'.errInject, pend := c'.pend } := by
  unfold readV at h
  split at h
  · unfold pullB at h
    split at h
    · cases h; rfl
    · split at h
      · cases h
      · cases h
        rw [popEvent_shape]
        rfl
  · cases h; rfl

/-- What writing a scalar result can change: a FIFO or a register. -/
theorem writeX_shape {r : Reg} {v : Word} {c' : Core} (h : writeX k c r v = .ok c') :
    c' = { c with fifoA := c'.fifoA, stirred := c'.stirred, x := c'.x } := by
  unfold writeX pushA at h
  split at h
  · split at h
    · next h1 =>
      split at h1
      · cases h1; cases h; rfl
      · cases h1
    · cases h
  · cases h; unfold putX; split <;> rfl

/-! ### The interlock -/

/-- Nothing pending among the registers an instruction names. -/
def unlocked (k : CoreKind) (c : Core) (reads dests : List Reg) : Bool :=
  !((reads.filter (fun x => !isPort k x) ++ dests).any (scalarBusy c) ||
    (reads.filter (fun x => !isPort k x) ++ dests.filter fun x => !isPort k x).any (landBusy c))

theorem unlocked_iff {reads dests : List Reg} : unlocked k c reads dests = true ↔
    (∀ r ∈ reads, isPort k r = false → scalarBusy c r = false ∧ landBusy c r = false) ∧
    (∀ r ∈ dests, scalarBusy c r = false ∧ (isPort k r = false → landBusy c r = false)) := by
  simp only [unlocked, Bool.not_eq_true', Bool.or_eq_false_iff, List.any_eq_false, List.mem_append, List.mem_filter, Bool.not_eq_true]
  constructor
  · rintro ⟨h1, h2⟩
    exact ⟨fun r hr hp => ⟨h1 r (.inl ⟨hr, hp⟩), h2 r (.inl ⟨hr, hp⟩)⟩,
      fun r hr => ⟨h1 r (.inr hr), fun hp => h2 r (.inr ⟨hr, hp⟩)⟩⟩
  · rintro ⟨h1, h2⟩
    refine ⟨?_, ?_⟩
    · rintro r (⟨hr, hp⟩ | hr)
      · exact (h1 r hr hp).1
      · exact (h2 r hr).1
    · rintro r (⟨hr, hp⟩ | ⟨hr, hp⟩)
      · exact (h1 r hr hp).2
      · exact (h2 r hr).2 hp

theorem interlock_eq (reads dests : List Reg) (r : Res) :
    interlock k c reads dests r = if unlocked k c reads dests then r else .hold := by
  unfold interlock unlocked
  dsimp only
  cases h : ((reads.filter fun x => !isPort k x) ++ dests).any (scalarBusy c) ||
    ((reads.filter fun x => !isPort k x) ++ dests.filter fun x => !isPort k x).any (landBusy c) <;> simp

theorem interlock_unlocked {reads dests : List Reg} (h : unlocked k c reads dests = true) (r : Res) :
    interlock k c reads dests r = r := by simp [interlock_eq, h]

theorem interlock_locked {reads dests : List Reg} (h : unlocked k c reads dests = false) (r : Res) :
    interlock k c reads dests r = .hold := by simp [interlock_eq, h]

/-! ### Sources and results -/

theorem withX_ok {r : Reg} {x : Word} {c' : Core} (h : readX k c r = .ok (x, c')) (f : Word → Core → Res) :
    withX k c r f = f x c' := by simp [withX, h]

theorem withX_error {r : Reg} {w : Wait} (h : readX k c r = .error w) (f : Word → Core → Res) : withX k c r f = .freeze w := by
  simp [withX, h]

theorem withV_ok {r : Reg} {x : VWord} {c' : Core} (h : readV k c r = .ok (x, c')) (f : VWord → Core → Res) :
    withV k c r f = f x c' := by simp [withV, h]

theorem withV_error {r : Reg} {w : Wait} (h : readV k c r = .error w) (f : VWord → Core → Res) : withV k c r f = .freeze w := by
  simp [withV, h]

theorem doneX_ok {r : Reg} {v : Word} {c' : Core} (h : writeX k c r v = .ok c') : doneX k c r v = .done c' := by simp [doneX, h]

theorem doneX_error {r : Reg} {v : Word} {w : Wait} (h : writeX k c r v = .error w) : doneX k c r v = .freeze w := by simp [doneX, h]

/-! ### What a meaning comes to -/

theorem runCore_done {f : CoreKind → Core → Res} {c' : Core} (h : f (agentKind s.cur) (coreOf s s.cur) = .done c') :
    runCore s f = .next (setCore s s.cur (retire c')) := by simp [runCore, h, settle]

theorem runCore_goto {f : CoreKind → Core → Res} {c' : Core} {pc : BitVec 14}
    (h : f (agentKind s.cur) (coreOf s s.cur) = .goto c' pc) :
    runCore s f = .next (setCore s s.cur (retireTo c' pc)) := by simp [runCore, h, settle]

theorem runCore_jump {f : CoreKind → Core → Res} {c' : Core} {pc : BitVec 14} {b : Bool}
    (h : f (agentKind s.cur) (coreOf s s.cur) = .jump c' pc b) :
    runCore s f = .next (setCore s s.cur (feedBranch (retireTo c' pc) b)) := by simp [runCore, h, settle]

theorem runCore_freeze {f : CoreKind → Core → Res} {w : Wait} (h : f (agentKind s.cur) (coreOf s s.cur) = .freeze w) :
    runCore s f = .next (setCore s s.cur { coreOf s s.cur with wait := w }) := by simp [runCore, h, settle]

theorem runCore_hold {f : CoreKind → Core → Res} (h : f (agentKind s.cur) (coreOf s s.cur) = .hold) :
    runCore s f = .next (setCore s s.cur { coreOf s s.cur with landing := true, wait := .scalar }) := by simp [runCore, h, settle]

theorem runCore_trap {f : CoreKind → Core → Res} {t : Trap} (h : f (agentKind s.cur) (coreOf s s.cur) = .trap t) :
    runCore s f = .next (takeCause (withNotice s s.cur t) s.cur t) := by simp [runCore, h, settle]

/-- A precise cause other than DEADLOCK carries no notice. -/
theorem withNotice_other {a : Agent} {t : Trap} (h : t.cause ≠ .deadlock) : withNotice s a t = s := by
  unfold withNotice
  split
  · next h1 _ => exact absurd h1 h
  · rfl

/-- A meaning that touches its own core only always answers a next state. -/
theorem runCore_answers (f : CoreKind → Core → Res) : ∃ t, runCore s f = .next t := ⟨_, rfl⟩

theorem runState_answers (f : CoreKind → Core → State × Res) : ∃ t, runState s f = .next t := ⟨_, rfl⟩

/-! ### Completing -/

theorem feedWord_shape (w : IWord) : feedWord c w = { c with checker := (feedWord c w).checker } := by
  unfold feedWord; split <;> rfl

theorem feedBranch_shape (b : Bool) : feedBranch c b = { c with checker := (feedBranch c b).checker } := by
  unfold feedBranch; split <;> rfl

/-- What completing changes at a core: the checker, the pc, the tc's end, and nothing of the instruction stays in progress. -/
theorem retire_shape : retire c = { c with
    wait := .none, blocked := false, pulled := [], taken := [], replies := [], checker := (retire c).checker,
    pc := c.pc + 4#14, landing := true, evalAt := (retire c).evalAt } := by
  unfold retire
  dsimp only
  rw [feedWord_shape]
  rfl

theorem retireTo_shape (pc : BitVec 14) : retireTo c pc = { c with
    wait := .none, blocked := false, pulled := [], taken := [], replies := [], checker := (retireTo c pc).checker,
    pc := pc, landing := true, evalAt := none } := by
  unfold retireTo
  dsimp only
  rw [feedWord_shape]
  rfl

@[simp] theorem retire_pc : (retire c).pc = c.pc + 4#14 := rfl
@[simp] theorem retireTo_pc (pc : BitVec 14) : (retireTo c pc).pc = pc := rfl
@[simp] theorem retire_x : (retire c).x = c.x := by rw [retire_shape]
@[simp] theorem retire_v : (retire c).v = c.v := by rw [retire_shape]
@[simp] theorem retire_p : (retire c).p = c.p := by rw [retire_shape]
@[simp] theorem retire_scratch : (retire c).scratch = c.scratch := by rw [retire_shape]
@[simp] theorem retire_inflight : (retire c).inflight = c.inflight := by rw [retire_shape]
@[simp] theorem retire_scalars : (retire c).scalars = c.scalars := by rw [retire_shape]

end Sys2Proof.Machine
end

