-- ==== Sys2Proof/Laws/Access.lean ====
section
/-! SUPPORT. What the operations over scratch, translation and the network can do, one lemma each, and what taking a cause leaves as it was. -/

namespace Sys2Proof.Machine

variable (s : State) (k : CoreKind) (c : Core)

/-! ### Bookkeeping -/

theorem addPend_shape (t : Trap) : addPend c t = { c with pend := (addPend c t).pend } := rfl

@[simp] theorem notify_notices (n : SupNotice) : (notify s n).notices = s.notices ++ [n] := rfl

theorem send_shape (p : Packet) : send s p = { s with net := s.net ++ [p] } := rfl

/-! ### Scratch -/

/-- What putting bytes into scratch changes. -/
theorem scratchPut_shape (ps : List Nat) (bs : List Byte) : scratchPut c ps bs =
    { c with scratch := (scratchPut c ps bs).scratch, marks := (scratchPut c ps bs).marks } := rfl

/-- An UNDO_FULL that becomes due changes what is due and its flag. -/
theorem undoDue_shape (x : Nat) : undoDue c x = { c with undoRaised := (undoDue c x).undoRaised, pend := (undoDue c x).pend } := by
  unfold undoDue; split <;> rfl

/-- The undo log of scratch sectors lies in the core's scratch, whose marks a record clears, and its logged bits. -/
theorem logSectors_shape (lap : BitVec 32) (ss : List Nat) : ∀ c : Core, logSectors c lap ss =
    { c with scratch := (logSectors c lap ss).scratch, undoFill := (logSectors c lap ss).undoFill, logged := (logSectors c lap ss).logged,
             marks := (logSectors c lap ss).marks } := by
  induction ss with
  | nil => intro c; rfl
  | cons x r ih => intro c; rw [logSectors, ih]

/-- Each sector logged takes 64 bytes of the area. -/
theorem logSectors_fill (lap : BitVec 32) (ss : List Nat) : ∀ c : Core, (logSectors c lap ss).undoFill = c.undoFill + 64 * ss.length := by
  induction ss with
  | nil => intro c; rfl
  | cons x r ih => intro c; rw [logSectors, ih]; simp only [List.length_cons]; omega

/-- From c to d only scratch with its marks and undo log, and an UNDO_FULL that has become due, may differ. -/
def ScratchFrame (c d : Core) : Prop :=
  d = { c with scratch := d.scratch, marks := d.marks, undoFill := d.undoFill, logged := d.logged, undoRaised := d.undoRaised,
               pend := d.pend }

/-- A core's own write to scratch changes scratch and the undo log, or finds the log full and changes nothing. -/
theorem coreScratchWrite_cases (ps : List Nat) (bs : List Byte) :
    (∃ x, coreScratchWrite s k c ps bs = .full x) ∨
    (∃ c', coreScratchWrite s k c ps bs = .ok c' ∧ ScratchFrame c c') := by
  unfold coreScratchWrite
  generalize (if undoActive s k c then sectorsToLog c ps else []) = ss
  cases ss with
  | nil => exact .inr ⟨_, rfl, rfl⟩
  | cons x r =>
    dsimp only
    split
    · exact .inl ⟨_, rfl⟩
    · split
      · refine .inr ⟨_, rfl, ?_⟩
        unfold ScratchFrame
        split
        · rw [undoDue_shape, scratchPut_shape, logSectors_shape _ _ c]
        · rw [scratchPut_shape, logSectors_shape _ _ c]
      · exact .inl ⟨_, rfl⟩

/-- Without an active undo log a core's write is the write. -/
theorem coreScratchWrite_plain (h : undoActive s k c = false) (ps : List Nat) (bs : List Byte) :
    coreScratchWrite s k c ps bs = .ok (scratchPut c ps bs) := by simp [coreScratchWrite, h]

theorem engineScratchWrite_plain (h : undoActive s k c = false) (ps : List Nat) (bs : List Byte) :
    engineScratchWrite s k c ps bs = some (scratchPut c ps bs) := by simp [engineScratchWrite, h]

theorem readEvent_shape (o : Nat) :
    readEvent c o = { c with errInject := (readEvent c o).errInject, pend := (readEvent c o).pend } := by
  unfold readEvent
  have hs := injectEvent_shape (c := c) 1
  cases h : injectEvent c 1 with
  | mk b c1 =>
    rw [h] at hs
    dsimp only at hs
    generalize c1.errInject = e at hs
    subst hs
    cases b <;> rfl

theorem consumeScratch_shape (ps : List Nat) : consumeScratch c ps = { c with pend := (consumeScratch c ps).pend } := by
  unfold consumeScratch; split <;> rfl

/-- A local read waits for the scoreboard, or goes on with the visible bytes and at most a marked read due. -/
theorem localRead_cases (o n : Nat) (f : List Byte → Core → Res) :
    localRead c o n f = .freeze .scoreboard ∨
    ∃ c', localRead c o n f = f (scratchRead c o n) c' ∧ c' = { c with errInject := c'.errInject, pend := c'.pend } := by
  unfold localRead
  split
  · exact .inl rfl
  · refine .inr ⟨_, rfl, ?_⟩
    rw [readEvent_shape, consumeScratch_shape]

/-- A local write waits for the scoreboard, raises UNDO_FULL, or goes on with scratch and the undo log changed. -/
theorem localWrite_cases (os : List Nat) (bs : List Byte) (f : Core → Res) :
    localWrite s k c os bs f = .freeze .scoreboard ∨ (∃ x, localWrite s k c os bs f = raise .undoFull x) ∨
    ∃ c', localWrite s k c os bs f = f c' ∧ ScratchFrame c c' := by
  unfold localWrite
  dsimp only
  split
  · exact .inl rfl
  · rcases coreScratchWrite_cases s k c (os.map (visible c.bufs)) bs with ⟨x, h⟩ | ⟨c', h, e⟩
    · rw [h]; exact .inr (.inl ⟨_, rfl⟩)
    · rw [h]; exact .inr (.inr ⟨c', rfl, e⟩)

/-! ### Translation -/

/-- Of its core a translation changes the order of the TLB alone. -/
theorem translate_shape {ac : AccessClass} {va : Word} {e : Leaf} {phys : Nat} {c' : Core}
    (h : translate s k c ac va = .ok e phys c') : c' = { c with tlb := c'.tlb } := by
  unfold translate at h
  split at h
  · cases h
  · split at h
    · split at h
      · cases h; rfl
      · split at h
        · cases h
        · split at h <;> cases h
          rfl
    · dsimp only at h
      split at h
      · cases h
      · split at h <;> cases h
        rfl

/-- An address above 2^56 is PAGE. -/
theorem translate_high {ac : AccessClass} {va : Word} (h : va.extractLsb' 56 8 ≠ 0#8) : translate s k c ac va = .fail .page := by
  simp [translate, h]

/-- What a translated access comes to: it goes on at its place, a miss is sent and waited for, or its fault is handled. -/
theorem withPhys_cases (ac : AccessClass) (va : Word) (onFail : Trap → Core → SRes) (f : Leaf → Nat → Core → SRes) :
    (∃ e phys c', withPhys s k c ac va onFail f = f e phys c' ∧ c' = { c with tlb := c'.tlb }) ∨
    withPhys s k c ac va onFail f = (send s (missPacket s s.cur c ac.kind va 0), .block c .tlbMiss) ∨
    ∃ x, withPhys s k c ac va onFail f = onFail { cause := x, addr := va } c := by
  unfold withPhys
  split
  · next e phys c' h => exact .inl ⟨e, phys, c', rfl, translate_shape s k c h⟩
  · exact .inr (.inl rfl)
  · next x _ => exact .inr (.inr ⟨x, rfl⟩)

/-- Asking a home sends one packet and waits. -/
theorem askHome_eq (a : Nat) (p : PacketKind) (w : Wait) :
    askHome s c a p w = ({ s with net := s.net ++ [{ src := agentCode s.cur, addr := a, kind := p, ctx := (ctxOf s c).getD 0 }] }, .block c w) := rfl

/-- A posted access sends one packet. -/
theorem post_shape (a : Nat) (va : Word) (p : PacketKind) : ∃ q, post s a va p = { s with net := s.net ++ [q] } ∧ q.src = agentCode s.cur ∧ q.addr = a := by
  unfold post
  split <;> exact ⟨_, rfl, rfl, rfl⟩

/-! ### Taking and leaving an exception -/

/-- What the trap registers are set to (R237, R238). -/
theorem trapRegs_shape (t : Trap) : trapRegs c t = { c with
    trapCause := (trapRegs c t).trapCause, trapPc := (trapRegs c t).trapPc, trapAddr := t.addr, sub := t.sub, posted := t.posted,
    bySwitch := t.switch } := rfl

/-- Entering the handler: where the core goes on, and what it keeps for TRET (R239). -/
theorem enterHandler_enters (t : Trap) : (enterHandler k c t).inHandler = true ∧
    (enterHandler k c t).pc = pcOf (atBoundary k c).trapVec ∧ (enterHandler k c t).records = (atBoundary k c).inflight ∧
    (enterHandler k c t).inflight = [] ∧ (enterHandler k c t).heldChecker = (atBoundary k c).checker := ⟨rfl, rfl, rfl, rfl, rfl⟩

/-- Leaving it: the checker is back and the records are in flight again (R241). -/
theorem leaveHandler_leaves : (leaveHandler c).inHandler = false ∧ (leaveHandler c).records = [] ∧
    (leaveHandler c).checker = c.heldChecker ∧ (leaveHandler c).x = c.x ∧ (leaveHandler c).v = c.v ∧ (leaveHandler c).p = c.p :=
  ⟨rfl, rfl, rfl, rfl, rfl, rfl⟩

/-- A class-S cause freezes the core and keeps where it stands (R239). -/
theorem freezeForSupervisor_freezes (t : Trap) : (freezeForSupervisor k c t).mode = .sFreeze ∧
    (freezeForSupervisor k c t).pc = (atBoundary k c).pc ∧ (freezeForSupervisor k c t).x = (atBoundary k c).x := ⟨rfl, rfl, rfl⟩

end Sys2Proof.Machine
end

