-- ==== Sys2Proof/Laws/Encode.lean ====
section
/-! SUPPORT. Every field of a core word that an encoder has put together is read back by the field's selector. -/

namespace Sys2Proof

@[simp] theorem fMajor_encR (m : BitVec 6) (d a b : Reg) (pg : PReg) (fn : BitVec 8) : fMajor (encR m d a b pg fn) = m := by
  ext i hi
  simp [fMajor, encR]
  grind

@[simp] theorem fD_encR (m : BitVec 6) (d a b : Reg) (pg : PReg) (fn : BitVec 8) : fD (encR m d a b pg fn) = d := by
  ext i hi
  simp [fD, encR]
  grind

@[simp] theorem fA_encR (m : BitVec 6) (d a b : Reg) (pg : PReg) (fn : BitVec 8) : fA (encR m d a b pg fn) = a := by
  ext i hi
  simp [fA, encR]
  grind

@[simp] theorem fB_encR (m : BitVec 6) (d a b : Reg) (pg : PReg) (fn : BitVec 8) : fB (encR m d a b pg fn) = b := by
  ext i hi
  simp [fB, encR]
  grind

@[simp] theorem fPg_encR (m : BitVec 6) (d a b : Reg) (pg : PReg) (fn : BitVec 8) : fPg (encR m d a b pg fn) = pg := by
  ext i hi
  simp [fPg, encR]
  grind

@[simp] theorem fFn_encR (m : BitVec 6) (d a b : Reg) (pg : PReg) (fn : BitVec 8) : fFn (encR m d a b pg fn) = fn := by
  ext i hi
  simp [fFn, encR]
  grind

@[simp] theorem fMajor_encI (m : BitVec 6) (d a : Reg) (imm : BitVec 16) : fMajor (encI m d a imm) = m := by
  ext i hi
  simp [fMajor, encI]
  grind

@[simp] theorem fD_encI (m : BitVec 6) (d a : Reg) (imm : BitVec 16) : fD (encI m d a imm) = d := by
  ext i hi
  simp [fD, encI]
  grind

@[simp] theorem fA_encI (m : BitVec 6) (d a : Reg) (imm : BitVec 16) : fA (encI m d a imm) = a := by
  ext i hi
  simp [fA, encI]
  grind

@[simp] theorem fImm16_encI (m : BitVec 6) (d a : Reg) (imm : BitVec 16) : fImm16 (encI m d a imm) = imm := by
  ext i hi
  simp [fImm16, encI]
  grind

@[simp] theorem fMajor_encU (m : BitVec 6) (d : Reg) (imm : BitVec 21) : fMajor (encU m d imm) = m := by
  ext i hi
  simp [fMajor, encU]
  grind

@[simp] theorem fD_encU (m : BitVec 6) (d : Reg) (imm : BitVec 21) : fD (encU m d imm) = d := by
  ext i hi
  simp [fD, encU]
  grind

@[simp] theorem fImm21_encU (m : BitVec 6) (d : Reg) (imm : BitVec 21) : fImm21 (encU m d imm) = imm := by
  ext i hi
  simp [fImm21, encU]
  grind

@[simp] theorem fMajor_encM (m : BitVec 6) (d a : Reg) (width : BitVec 2) (nat : Bool) (imm : BitVec 13) : fMajor (encM m d a width nat imm) = m := by
  ext i hi
  simp [fMajor, encM]
  grind

@[simp] theorem fD_encM (m : BitVec 6) (d a : Reg) (width : BitVec 2) (nat : Bool) (imm : BitVec 13) : fD (encM m d a width nat imm) = d := by
  ext i hi
  simp [fD, encM]
  grind

@[simp] theorem fA_encM (m : BitVec 6) (d a : Reg) (width : BitVec 2) (nat : Bool) (imm : BitVec 13) : fA (encM m d a width nat imm) = a := by
  ext i hi
  simp [fA, encM]
  grind

@[simp] theorem fWidth_encM (m : BitVec 6) (d a : Reg) (width : BitVec 2) (nat : Bool) (imm : BitVec 13) : fWidth (encM m d a width nat imm) = width := by
  ext i hi
  simp [fWidth, encM]
  grind

@[simp] theorem fNat_encM (m : BitVec 6) (d a : Reg) (width : BitVec 2) (nat : Bool) (imm : BitVec 13) : fNat (encM m d a width nat imm) = nat := by
  cases nat <;> simp [fNat, encM, bit] <;> grind

@[simp] theorem fImm13_encM (m : BitVec 6) (d a : Reg) (width : BitVec 2) (nat : Bool) (imm : BitVec 13) : fImm13 (encM m d a width nat imm) = imm := by
  ext i hi
  simp [fImm13, encM]
  grind

@[simp] theorem fMajor_encS (m : BitVec 6) (d a : Reg) (width : BitVec 2) (imm : BitVec 14) : fMajor (encS m d a width imm) = m := by
  ext i hi
  simp [fMajor, encS]
  grind

@[simp] theorem fD_encS (m : BitVec 6) (d a : Reg) (width : BitVec 2) (imm : BitVec 14) : fD (encS m d a width imm) = d := by
  ext i hi
  simp [fD, encS]
  grind

@[simp] theorem fA_encS (m : BitVec 6) (d a : Reg) (width : BitVec 2) (imm : BitVec 14) : fA (encS m d a width imm) = a := by
  ext i hi
  simp [fA, encS]
  grind

@[simp] theorem fWidth_encS (m : BitVec 6) (d a : Reg) (width : BitVec 2) (imm : BitVec 14) : fWidth (encS m d a width imm) = width := by
  ext i hi
  simp [fWidth, encS]
  grind

@[simp] theorem fImm14_encS (m : BitVec 6) (d a : Reg) (width : BitVec 2) (imm : BitVec 14) : fImm14 (encS m d a width imm) = imm := by
  ext i hi
  simp [fImm14, encS]
  grind

@[simp] theorem fMajor_encB (m : BitVec 6) (cond : BitVec 3) (a b : Reg) (off : BitVec 13) : fMajor (encB m cond a b off) = m := by
  ext i hi
  simp [fMajor, encB]
  grind

@[simp] theorem fCond_encB (m : BitVec 6) (cond : BitVec 3) (a b : Reg) (off : BitVec 13) : fCond (encB m cond a b off) = cond := by
  ext i hi
  simp [fCond, encB]
  grind

@[simp] theorem fBa_encB (m : BitVec 6) (cond : BitVec 3) (a b : Reg) (off : BitVec 13) : fBa (encB m cond a b off) = a := by
  ext i hi
  simp [fBa, encB]
  grind

@[simp] theorem fBb_encB (m : BitVec 6) (cond : BitVec 3) (a b : Reg) (off : BitVec 13) : fBb (encB m cond a b off) = b := by
  ext i hi
  simp [fBb, encB]
  grind

@[simp] theorem fBoff_encB (m : BitVec 6) (cond : BitVec 3) (a b : Reg) (off : BitVec 13) : fBoff (encB m cond a b off) = off := by
  ext i hi
  simp [fBoff, encB]
  grind

@[simp] theorem fMajor_encJ (m : BitVec 6) (off : BitVec 26) : fMajor (encJ m off) = m := by
  ext i hi
  simp [fMajor, encJ]
  grind

@[simp] theorem fJoff_encJ (m : BitVec 6) (off : BitVec 26) : fJoff (encJ m off) = off := by
  ext i hi
  simp [fJoff, encJ]
  grind

@[simp] theorem fMajor_encQ (m : BitVec 6) (d a b c : Reg) (pg : PReg) (fn : BitVec 3) : fMajor (encQ m d a b c pg fn) = m := by
  ext i hi
  simp [fMajor, encQ]
  grind

@[simp] theorem fD_encQ (m : BitVec 6) (d a b c : Reg) (pg : PReg) (fn : BitVec 3) : fD (encQ m d a b c pg fn) = d := by
  ext i hi
  simp [fD, encQ]
  grind

@[simp] theorem fA_encQ (m : BitVec 6) (d a b c : Reg) (pg : PReg) (fn : BitVec 3) : fA (encQ m d a b c pg fn) = a := by
  ext i hi
  simp [fA, encQ]
  grind

@[simp] theorem fB_encQ (m : BitVec 6) (d a b c : Reg) (pg : PReg) (fn : BitVec 3) : fB (encQ m d a b c pg fn) = b := by
  ext i hi
  simp [fB, encQ]
  grind

@[simp] theorem fQc_encQ (m : BitVec 6) (d a b c : Reg) (pg : PReg) (fn : BitVec 3) : fQc (encQ m d a b c pg fn) = c := by
  ext i hi
  simp [fQc, encQ]
  grind

@[simp] theorem fQpg_encQ (m : BitVec 6) (d a b c : Reg) (pg : PReg) (fn : BitVec 3) : fQpg (encQ m d a b c pg fn) = pg := by
  ext i hi
  simp [fQpg, encQ]
  grind

@[simp] theorem fQfn_encQ (m : BitVec 6) (d a b c : Reg) (pg : PReg) (fn : BitVec 3) : fQfn (encQ m d a b c pg fn) = fn := by
  ext i hi
  simp [fQfn, encQ]
  grind

@[simp] theorem fMajor_encLoop (m : BitVec 6) (slot : Bool) (a : Reg) (fin : BitVec 16) : fMajor (encLoop m slot a fin) = m := by
  ext i hi
  simp [fMajor, encLoop]
  grind

@[simp] theorem fSlot_encLoop (m : BitVec 6) (slot : Bool) (a : Reg) (fin : BitVec 16) : fSlot (encLoop m slot a fin) = slot := by
  cases slot <;> simp [fSlot, encLoop, bit] <;> grind

@[simp] theorem fA_encLoop (m : BitVec 6) (slot : Bool) (a : Reg) (fin : BitVec 16) : fA (encLoop m slot a fin) = a := by
  ext i hi
  simp [fA, encLoop]
  grind

@[simp] theorem fImm16_encLoop (m : BitVec 6) (slot : Bool) (a : Reg) (fin : BitVec 16) : fImm16 (encLoop m slot a fin) = fin := by
  ext i hi
  simp [fImm16, encLoop]
  grind

@[simp] theorem fLoopRes_encLoop (m : BitVec 6) (slot : Bool) (a : Reg) (fin : BitVec 16) : fLoopRes (encLoop m slot a fin) = 0#4 := by
  ext i hi
  simp [fLoopRes, encLoop]
  grind

@[simp] theorem fMajor_encLoopi (m : BitVec 6) (slot : Bool) (cnt : BitVec 12) (fin : BitVec 13) : fMajor (encLoopi m slot cnt fin) = m := by
  ext i hi
  simp [fMajor, encLoopi]
  grind

@[simp] theorem fSlot_encLoopi (m : BitVec 6) (slot : Bool) (cnt : BitVec 12) (fin : BitVec 13) : fSlot (encLoopi m slot cnt fin) = slot := by
  cases slot <;> simp [fSlot, encLoopi, bit] <;> grind

@[simp] theorem fCount_encLoopi (m : BitVec 6) (slot : Bool) (cnt : BitVec 12) (fin : BitVec 13) : fCount (encLoopi m slot cnt fin) = cnt := by
  ext i hi
  simp [fCount, encLoopi]
  grind

@[simp] theorem fLoopEnd_encLoopi (m : BitVec 6) (slot : Bool) (cnt : BitVec 12) (fin : BitVec 13) : fLoopEnd (encLoopi m slot cnt fin) = fin := by
  ext i hi
  simp [fLoopEnd, encLoopi]
  grind

/-! ### Switch words -/

/-- A field above the low part of a word. -/
theorem extract_high {n m : Nat} (a : BitVec n) (b : BitVec m) (s l : Nat) :
    (a ++ b).extractLsb' (m + s) l = a.extractLsb' s l := by
  rw [BitVec.extractLsb'_append_eq_of_le (by omega), Nat.add_sub_cancel_left]

/-- A field within the low part of a word. -/
theorem extract_low {n m : Nat} (a : BitVec n) (b : BitVec m) (s l : Nat) (h : s + l ≤ m) :
    (a ++ b).extractLsb' s l = b.extractLsb' s l := BitVec.extractLsb'_append_eq_of_add_le h

theorem extract_all {n : Nat} (a : BitVec n) : a.extractLsb' 0 n = a := by simp

theorem encSw_aN (r : Routes) (ctl : BitVec 4) (opd : BitVec 16) : (encSw r ctl opd).extractLsb' 0 3 = r.aN :=
  (extract_low _ _ 0 3 (by decide)).trans (extract_all _)

theorem encSw_aE (r : Routes) (ctl : BitVec 4) (opd : BitVec 16) : (encSw r ctl opd).extractLsb' 3 3 = r.aE :=
  (extract_high _ _ 0 3).trans ((extract_low _ _ 0 3 (by decide)).trans (extract_all _))

theorem encSw_aS (r : Routes) (ctl : BitVec 4) (opd : BitVec 16) : (encSw r ctl opd).extractLsb' 6 3 = r.aS :=
  (extract_high _ _ 3 3).trans ((extract_high _ _ 0 3).trans ((extract_low _ _ 0 3 (by decide)).trans (extract_all _)))

theorem encSw_aW (r : Routes) (ctl : BitVec 4) (opd : BitVec 16) : (encSw r ctl opd).extractLsb' 9 3 = r.aW :=
  (extract_high _ _ 6 3).trans ((extract_high _ _ 3 3).trans ((extract_high _ _ 0 3).trans ((extract_low _ _ 0 3 (by decide)).trans (extract_all _))))

theorem encSw_aMask (r : Routes) (ctl : BitVec 4) (opd : BitVec 16) : (encSw r ctl opd).extractLsb' 12 4 = r.aMask :=
  (extract_high _ _ 9 4).trans ((extract_high _ _ 6 4).trans ((extract_high _ _ 3 4).trans ((extract_high _ _ 0 4).trans ((extract_low _ _ 0 4 (by decide)).trans (extract_all _)))))

theorem encSw_aSink (r : Routes) (ctl : BitVec 4) (opd : BitVec 16) : (encSw r ctl opd).extractLsb' 16 3 = r.aSink :=
  (extract_high _ _ 13 3).trans ((extract_high _ _ 10 3).trans ((extract_high _ _ 7 3).trans ((extract_high _ _ 4 3).trans ((extract_high _ _ 0 3).trans ((extract_low _ _ 0 3 (by decide)).trans (extract_all _))))))

theorem encSw_bN (r : Routes) (ctl : BitVec 4) (opd : BitVec 16) : (encSw r ctl opd).extractLsb' 19 3 = r.bN :=
  (extract_high _ _ 16 3).trans ((extract_high _ _ 13 3).trans ((extract_high _ _ 10 3).trans ((extract_high _ _ 7 3).trans ((extract_high _ _ 3 3).trans ((extract_high _ _ 0 3).trans ((extract_low _ _ 0 3 (by decide)).trans (extract_all _)))))))

theorem encSw_bE (r : Routes) (ctl : BitVec 4) (opd : BitVec 16) : (encSw r ctl opd).extractLsb' 22 3 = r.bE :=
  (extract_high _ _ 19 3).trans ((extract_high _ _ 16 3).trans ((extract_high _ _ 13 3).trans ((extract_high _ _ 10 3).trans ((extract_high _ _ 6 3).trans ((extract_high _ _ 3 3).trans ((extract_high _ _ 0 3).trans ((extract_low _ _ 0 3 (by decide)).trans (extract_all _))))))))

theorem encSw_bS (r : Routes) (ctl : BitVec 4) (opd : BitVec 16) : (encSw r ctl opd).extractLsb' 25 3 = r.bS :=
  (extract_high _ _ 22 3).trans ((extract_high _ _ 19 3).trans ((extract_high _ _ 16 3).trans ((extract_high _ _ 13 3).trans ((extract_high _ _ 9 3).trans ((extract_high _ _ 6 3).trans ((extract_high _ _ 3 3).trans ((extract_high _ _ 0 3).trans ((extract_low _ _ 0 3 (by decide)).trans (extract_all _)))))))))

theorem encSw_bW (r : Routes) (ctl : BitVec 4) (opd : BitVec 16) : (encSw r ctl opd).extractLsb' 28 3 = r.bW :=
  (extract_high _ _ 25 3).trans ((extract_high _ _ 22 3).trans ((extract_high _ _ 19 3).trans ((extract_high _ _ 16 3).trans ((extract_high _ _ 12 3).trans ((extract_high _ _ 9 3).trans ((extract_high _ _ 6 3).trans ((extract_high _ _ 3 3).trans ((extract_high _ _ 0 3).trans ((extract_low _ _ 0 3 (by decide)).trans (extract_all _))))))))))

theorem encSw_bMask (r : Routes) (ctl : BitVec 4) (opd : BitVec 16) : (encSw r ctl opd).extractLsb' 31 4 = r.bMask :=
  (extract_high _ _ 28 4).trans ((extract_high _ _ 25 4).trans ((extract_high _ _ 22 4).trans ((extract_high _ _ 19 4).trans ((extract_high _ _ 15 4).trans ((extract_high _ _ 12 4).trans ((extract_high _ _ 9 4).trans ((extract_high _ _ 6 4).trans ((extract_high _ _ 3 4).trans ((extract_high _ _ 0 4).trans ((extract_low _ _ 0 4 (by decide)).trans (extract_all _)))))))))))

theorem encSw_bSink (r : Routes) (ctl : BitVec 4) (opd : BitVec 16) : (encSw r ctl opd).extractLsb' 35 3 = r.bSink :=
  (extract_high _ _ 32 3).trans ((extract_high _ _ 29 3).trans ((extract_high _ _ 26 3).trans ((extract_high _ _ 23 3).trans ((extract_high _ _ 19 3).trans ((extract_high _ _ 16 3).trans ((extract_high _ _ 13 3).trans ((extract_high _ _ 10 3).trans ((extract_high _ _ 7 3).trans ((extract_high _ _ 4 3).trans ((extract_high _ _ 0 3).trans ((extract_low _ _ 0 3 (by decide)).trans (extract_all _))))))))))))

theorem encSw_aCur (r : Routes) (ctl : BitVec 4) (opd : BitVec 16) : (encSw r ctl opd).extractLsb' 38 2 = r.aCur :=
  (extract_high _ _ 35 2).trans ((extract_high _ _ 32 2).trans ((extract_high _ _ 29 2).trans ((extract_high _ _ 26 2).trans ((extract_high _ _ 22 2).trans ((extract_high _ _ 19 2).trans ((extract_high _ _ 16 2).trans ((extract_high _ _ 13 2).trans ((extract_high _ _ 10 2).trans ((extract_high _ _ 7 2).trans ((extract_high _ _ 3 2).trans ((extract_high _ _ 0 2).trans ((extract_low _ _ 0 2 (by decide)).trans (extract_all _)))))))))))))

theorem encSw_bCur (r : Routes) (ctl : BitVec 4) (opd : BitVec 16) : (encSw r ctl opd).extractLsb' 40 2 = r.bCur :=
  (extract_high _ _ 37 2).trans ((extract_high _ _ 34 2).trans ((extract_high _ _ 31 2).trans ((extract_high _ _ 28 2).trans ((extract_high _ _ 24 2).trans ((extract_high _ _ 21 2).trans ((extract_high _ _ 18 2).trans ((extract_high _ _ 15 2).trans ((extract_high _ _ 12 2).trans ((extract_high _ _ 9 2).trans ((extract_high _ _ 5 2).trans ((extract_high _ _ 2 2).trans ((extract_high _ _ 0 2).trans ((extract_low _ _ 0 2 (by decide)).trans (extract_all _))))))))))))))

theorem encSw_ctl (r : Routes) (ctl : BitVec 4) (opd : BitVec 16) : (encSw r ctl opd).extractLsb' 42 4 = ctl :=
  (extract_high _ _ 39 4).trans ((extract_high _ _ 36 4).trans ((extract_high _ _ 33 4).trans ((extract_high _ _ 30 4).trans ((extract_high _ _ 26 4).trans ((extract_high _ _ 23 4).trans ((extract_high _ _ 20 4).trans ((extract_high _ _ 17 4).trans ((extract_high _ _ 14 4).trans ((extract_high _ _ 11 4).trans ((extract_high _ _ 7 4).trans ((extract_high _ _ 4 4).trans ((extract_high _ _ 2 4).trans ((extract_high _ _ 0 4).trans ((extract_low _ _ 0 4 (by decide)).trans (extract_all _)))))))))))))))

theorem encSw_opd (r : Routes) (ctl : BitVec 4) (opd : BitVec 16) : (encSw r ctl opd).extractLsb' 46 16 = opd :=
  (extract_high _ _ 43 16).trans ((extract_high _ _ 40 16).trans ((extract_high _ _ 37 16).trans ((extract_high _ _ 34 16).trans ((extract_high _ _ 30 16).trans ((extract_high _ _ 27 16).trans ((extract_high _ _ 24 16).trans ((extract_high _ _ 21 16).trans ((extract_high _ _ 18 16).trans ((extract_high _ _ 15 16).trans ((extract_high _ _ 11 16).trans ((extract_high _ _ 8 16).trans ((extract_high _ _ 6 16).trans ((extract_high _ _ 4 16).trans ((extract_high _ _ 0 16).trans ((extract_low _ _ 0 16 (by decide)).trans (extract_all _))))))))))))))))

theorem encSw_edge (r : Routes) (ctl : BitVec 4) (opd : BitVec 16) : (encSw r ctl opd).extractLsb' 62 2 = r.edge :=
  (extract_high _ _ 59 2).trans ((extract_high _ _ 56 2).trans ((extract_high _ _ 53 2).trans ((extract_high _ _ 50 2).trans ((extract_high _ _ 46 2).trans ((extract_high _ _ 43 2).trans ((extract_high _ _ 40 2).trans ((extract_high _ _ 37 2).trans ((extract_high _ _ 34 2).trans ((extract_high _ _ 31 2).trans ((extract_high _ _ 27 2).trans ((extract_high _ _ 24 2).trans ((extract_high _ _ 22 2).trans ((extract_high _ _ 20 2).trans ((extract_high _ _ 16 2).trans ((extract_high _ _ 0 2).trans (extract_all _))))))))))))))))

@[simp] theorem swCtl_encSw (r : Routes) (ctl : BitVec 4) (opd : BitVec 16) : swCtl (encSw r ctl opd) = ctl := encSw_ctl r ctl opd

@[simp] theorem swOpd_encSw (r : Routes) (ctl : BitVec 4) (opd : BitVec 16) : swOpd (encSw r ctl opd) = opd := encSw_opd r ctl opd

@[simp] theorem swRoutes_encSw (r : Routes) (ctl : BitVec 4) (opd : BitVec 16) : swRoutes (encSw r ctl opd) = r := by
  cases r
  simp only [swRoutes, encSw_aN, encSw_aE, encSw_aS, encSw_aW, encSw_aMask, encSw_aSink, encSw_bN, encSw_bE, encSw_bS, encSw_bW, encSw_bMask, encSw_bSink, encSw_aCur, encSw_bCur, encSw_edge]

/-! ### Decoding by major -/

theorem decode_major_01 {w : IWord} (h : fMajor w = 0x01#6) :
    decode w = decodeInt w := by
  unfold decode; rw [h]; rfl

theorem decode_major_02 {w : IWord} (h : fMajor w = 0x02#6) :
    decode w = .ok (.addi (fD w) (fA w) (fImm16 w)) := by
  unfold decode; rw [h]; rfl

theorem decode_major_03 {w : IWord} (h : fMajor w = 0x03#6) :
    decode w = .ok (.andi (fD w) (fA w) (fImm16 w)) := by
  unfold decode; rw [h]; rfl

theorem decode_major_04 {w : IWord} (h : fMajor w = 0x04#6) :
    decode w = .ok (.ori (fD w) (fA w) (fImm16 w)) := by
  unfold decode; rw [h]; rfl

theorem decode_major_05 {w : IWord} (h : fMajor w = 0x05#6) :
    decode w = .ok (.xori (fD w) (fA w) (fImm16 w)) := by
  unfold decode; rw [h]; rfl

theorem decode_major_06 {w : IWord} (h : fMajor w = 0x06#6) :
    decode w = decodeShi w := by
  unfold decode; rw [h]; rfl

theorem decode_major_07 {w : IWord} (h : fMajor w = 0x07#6) :
    decode w = .ok (.slti (fD w) (fA w) (fImm16 w)) := by
  unfold decode; rw [h]; rfl

theorem decode_major_08 {w : IWord} (h : fMajor w = 0x08#6) :
    decode w = .ok (.sltni (fD w) (fA w) (fImm16 w)) := by
  unfold decode; rw [h]; rfl

theorem decode_major_09 {w : IWord} (h : fMajor w = 0x09#6) :
    decode w = .ok (.li (fD w) (fImm21 w)) := by
  unfold decode; rw [h]; rfl

theorem decode_major_0A {w : IWord} (h : fMajor w = 0x0A#6) :
    decode w = .ok (.lis (fD w) (fImm21 w)) := by
  unfold decode; rw [h]; rfl

theorem decode_major_0B {w : IWord} (h : fMajor w = 0x0B#6) :
    decode w = .ok (.addpc (fD w) (fImm21 w)) := by
  unfold decode; rw [h]; rfl

theorem decode_major_0C {w : IWord} (h : fMajor w = 0x0C#6) :
    decode w = decodeBitf w := by
  unfold decode; rw [h]; rfl

theorem decode_major_0D {w : IWord} (h : fMajor w = 0x0D#6) :
    decode w = decodeLoad .ld w := by
  unfold decode; rw [h]; rfl

theorem decode_major_0E {w : IWord} (h : fMajor w = 0x0E#6) :
    decode w = .ok (.st (fD w) (fA w) (fWidth w) (fImm14 w)) := by
  unfold decode; rw [h]; rfl

theorem decode_major_0F {w : IWord} (h : fMajor w = 0x0F#6) :
    decode w = decodeLoad .ldl w := by
  unfold decode; rw [h]; rfl

theorem decode_major_10 {w : IWord} (h : fMajor w = 0x10#6) :
    decode w = .ok (.stl (fD w) (fA w) (fWidth w) (fImm14 w)) := by
  unfold decode; rw [h]; rfl

theorem decode_major_11 {w : IWord} (h : fMajor w = 0x11#6) :
    decode w = decodeLoad .ldnf w := by
  unfold decode; rw [h]; rfl

theorem decode_major_12 {w : IWord} (h : fMajor w = 0x12#6) :
    decode w = decodeAmo w := by
  unfold decode; rw [h]; rfl

theorem decode_major_13 {w : IWord} (h : fMajor w = 0x13#6) :
    decode w = decodeCas w := by
  unfold decode; rw [h]; rfl

theorem decode_major_14 {w : IWord} (h : fMajor w = 0x14#6) :
    decode w = decodeBr w := by
  unfold decode; rw [h]; rfl

theorem decode_major_15 {w : IWord} (h : fMajor w = 0x15#6) :
    decode w = .ok (.j (fJoff w)) := by
  unfold decode; rw [h]; rfl

theorem decode_major_16 {w : IWord} (h : fMajor w = 0x16#6) :
    decode w = .ok (.jal (fJoff w)) := by
  unfold decode; rw [h]; rfl

theorem decode_major_17 {w : IWord} (h : fMajor w = 0x17#6) :
    decode w = .ok (.jalr (fD w) (fA w) (fImm16 w)) := by
  unfold decode; rw [h]; rfl

theorem decode_major_18 {w : IWord} (h : fMajor w = 0x18#6) :
    decode w = needZero (fPg w == 0#3 && fD w == 0#5) (.jtab (fA w) (fB w) (fFn w)) := by
  unfold decode; rw [h]; rfl

theorem decode_major_19 {w : IWord} (h : fMajor w = 0x19#6) :
    decode w = needZero (fLoopRes w == 0#4) (.loop (fSlot w) (fA w) (fImm16 w)) := by
  unfold decode; rw [h]; rfl

theorem decode_major_1A {w : IWord} (h : fMajor w = 0x1A#6) :
    decode w = .ok (.loopi (fSlot w) (fCount w) (fLoopEnd w)) := by
  unfold decode; rw [h]; rfl

theorem decode_major_1B {w : IWord} (h : fMajor w = 0x1B#6) :
    decode w = decodeSys w := by
  unfold decode; rw [h]; rfl

theorem decode_major_1C {w : IWord} (h : fMajor w = 0x1C#6) :
    decode w = needZero (fA w == 0#5) (.mfs (fD w) (fImm16 w)) := by
  unfold decode; rw [h]; rfl

theorem decode_major_1D {w : IWord} (h : fMajor w = 0x1D#6) :
    decode w = needZero (fD w == 0#5) (.mts (fA w) (fImm16 w)) := by
  unfold decode; rw [h]; rfl

theorem decode_major_1E {w : IWord} (h : fMajor w = 0x1E#6) :
    decode w = needZero (fD w == 0#5 && (fImm21 w).extractLsb' 16 5 == 0#5) (.sig ((fImm21 w).extractLsb' 0 16)) := by
  unfold decode; rw [h]; rfl

theorem decode_major_1F {w : IWord} (h : fMajor w = 0x1F#6) :
    decode w = decodeSync w := by
  unfold decode; rw [h]; rfl

theorem decode_major_20 {w : IWord} (h : fMajor w = 0x20#6) :
    decode w = decodeLaunch w := by
  unfold decode; rw [h]; rfl

theorem decode_major_21 {w : IWord} (h : fMajor w = 0x21#6) :
    decode w = decodeHeat w := by
  unfold decode; rw [h]; rfl

theorem decode_major_22 {w : IWord} (h : fMajor w = 0x22#6) :
    decode w = decodeNet w := by
  unfold decode; rw [h]; rfl

theorem decode_major_23 {w : IWord} (h : fMajor w = 0x23#6) :
    decode w = decodeVint w := by
  unfold decode; rw [h]; rfl

theorem decode_major_24 {w : IWord} (h : fMajor w = 0x24#6) :
    decode w = decodeVflt w := by
  unfold decode; rw [h]; rfl

theorem decode_major_25 {w : IWord} (h : fMajor w = 0x25#6) :
    decode w = decodeVfma w := by
  unfold decode; rw [h]; rfl

theorem decode_major_26 {w : IWord} (h : fMajor w = 0x26#6) :
    decode w = decodeVcmp w := by
  unfold decode; rw [h]; rfl

theorem decode_major_27 {w : IWord} (h : fMajor w = 0x27#6) :
    decode w = decodeVcvt w := by
  unfold decode; rw [h]; rfl

theorem decode_major_28 {w : IWord} (h : fMajor w = 0x28#6) :
    decode w = decodeVmove w := by
  unfold decode; rw [h]; rfl

theorem decode_major_29 {w : IWord} (h : fMajor w = 0x29#6) :
    decode w = decodeVred w := by
  unfold decode; rw [h]; rfl

theorem decode_major_2A {w : IWord} (h : fMajor w = 0x2A#6) :
    decode w = decodePred w := by
  unfold decode; rw [h]; rfl

theorem decode_major_2B {w : IWord} (h : fMajor w = 0x2B#6) :
    decode w = needZero (fWidth w == 0#2 && !fNat w) (.vld (fD w) (fA w) (fImm13 w)) := by
  unfold decode; rw [h]; rfl

theorem decode_major_2C {w : IWord} (h : fMajor w = 0x2C#6) :
    decode w = needZero (fWidth w == 0#2) (.vst (fD w) (fA w) (fImm14 w)) := by
  unfold decode; rw [h]; rfl

theorem decode_major_2D {w : IWord} (h : fMajor w = 0x2D#6) :
    decode w = decodeVidx w := by
  unfold decode; rw [h]; rfl

theorem decode_major_2E {w : IWord} (h : fMajor w = 0x2E#6) :
    decode w = decodeMat w := by
  unfold decode; rw [h]; rfl

theorem decode_major_2F {w : IWord} (h : fMajor w = 0x2F#6) :
    decode w = decodeBuf w := by
  unfold decode; rw [h]; rfl

theorem decode_major_30 {w : IWord} (h : fMajor w = 0x30#6) :
    decode w = decodeStream w := by
  unfold decode; rw [h]; rfl

theorem decode_major_31 {w : IWord} (h : fMajor w = 0x31#6) :
    decode w = decodeLap w := by
  unfold decode; rw [h]; rfl

end Sys2Proof
end

