-- ==== Sys2Proof/Laws/Home.lean ====
section
/-! SUPPORT. Memory at its homes: what a write leaves readable, that every operation that writes memory keeps its canonical form, and
all that a write performed at its home can change. -/

namespace Sys2Proof.Machine

variable {s : State}

/-! ### Reading after writing -/

theorem memWrite_shape (s : State) (a : Nat) (bs : List Byte) : memWrite s a bs =
    { s with mem := (memWrite s a bs).mem, poisoned := (memWrite s a bs).poisoned } := rfl

/-- A write changes the bytes written, and no other. -/
theorem memWrite_byte (s : State) (a : Nat) (bs : List Byte) (q : Nat) :
    tget (memWrite s a bs).mem 0#8 q = if a ≤ q ∧ q < a + bs.length then (bs[q - a]?).getD 0#8 else tget s.mem 0#8 q := by
  simp only [memWrite]
  rw [tget_tsetList, List.getD_eq_getElem?_getD]

theorem memWrite_elsewhere (s : State) (a : Nat) (bs : List Byte) {q : Nat} (h : q < a ∨ a + bs.length ≤ q) :
    tget (memWrite s a bs).mem 0#8 q = tget s.mem 0#8 q := by
  rw [memWrite_byte, if_neg (by omega)]

/-- A read of the bytes written gives what was written. -/
theorem memBytes_memWrite (s : State) (a : Nat) (bs : List Byte) : memBytes (memWrite s a bs) a bs.length = bs := by
  apply List.ext_getElem
  · simp [memBytes, tgetList]
  · intro i h1 h2
    simp only [memBytes, tgetList, List.getElem_map, List.getElem_range]
    rw [memWrite_byte, if_pos ⟨by omega, by omega⟩]
    simp [h2]

/-- A read apart from the bytes written gives what it gave. -/
theorem memBytes_apart (s : State) (a : Nat) (bs : List Byte) {b n : Nat} (h : b + n ≤ a ∨ a + bs.length ≤ b) :
    memBytes (memWrite s a bs) b n = memBytes s b n := by
  simp only [memBytes, tgetList]
  apply List.map_congr_left
  intro i hi
  have : i < n := List.mem_range.mp hi
  exact memWrite_elsewhere s a bs (by omega)

theorem memRead_apart (s : State) (a : Nat) (bs : List Byte) {b n : Nat} (h : b + n ≤ a ∨ a + bs.length ≤ b) :
    memRead (memWrite s a bs) b n = memRead s b n := by simp only [memRead, memBytes_apart s a bs h]

/-! ### The canonical form -/

theorem wf_reset : Memory.wf State.reset.mem = true := rfl

theorem wf_memWrite (h : Memory.wf s.mem = true) (a : Nat) (bs : List Byte) : Memory.wf (memWrite s a bs).mem = true :=
  twf_tsetList bs h

theorem wf_memClear (h : Memory.wf s.mem = true) (a n : Nat) : Memory.wf (memClear s a n).mem = true := twf_filter _ h

theorem wf_memWriteDup (h : Memory.wf s.mem = true) (e : Leaf) (a : Nat) (bs : List Byte) :
    Memory.wf (memWriteDup s e a bs).mem = true := by
  simp only [memWriteDup]
  split
  · exact wf_memWrite (wf_memWrite h _ _) _ _
  · exact wf_memWrite h _ _

theorem wf_putFields (fs : List Field) : ∀ {s : State}, Memory.wf s.mem = true → ∀ base, Memory.wf (putFields s base fs).mem = true := by
  induction fs with
  | nil => intro s h _; exact h
  | cons f r ih => intro s h base; exact ih (wf_memWrite h _ _) base

theorem wf_putRecord (h : Memory.wf s.mem = true) (base n : Nat) (fs : List Field) : Memory.wf (putRecord s base n fs).mem = true :=
  wf_putFields fs (wf_memClear h _ _) base

/-! ### What a write at its home can change (R258 to R261) -/

/-- From s to t only memory and its poisoned sectors, contexts, cores, lap tags, the agenda and the supervisor's notices may differ. -/
def HomeFrame (s t : State) : Prop :=
  t = { s with mem := t.mem, poisoned := t.poisoned, contexts := t.contexts, cores := t.cores, lapTags := t.lapTags,
               agenda := t.agenda, notices := t.notices }

theorem HomeFrame.refl (s : State) : HomeFrame s s := rfl

theorem HomeFrame.trans {s t u : State} (h : HomeFrame s t) (k : HomeFrame t u) : HomeFrame s u := by
  unfold HomeFrame at *
  rw [k, h]

theorem homeFrame_memWrite (s : State) (a : Nat) (bs : List Byte) : HomeFrame s (memWrite s a bs) := rfl

theorem homeFrame_memWriteDup (s : State) (e : Leaf) (a : Nat) (bs : List Byte) : HomeFrame s (memWriteDup s e a bs) := by
  simp only [memWriteDup]; split <;> rfl

theorem homeFrame_stopJob (s : State) (x : Nat) (c : Cause) : HomeFrame s (stopJob s x c) := by
  simp only [stopJob]; split <;> rfl

theorem homeFrame_pendAt (s : State) (code : Nat) (t : Trap) : HomeFrame s (pendAt s code t) := rfl

theorem homeFrame_appendUndo (s : State) (x mc : Nat) (b : Bool) (who : Nat) (ta : Word) (r : UndoRecord) :
    HomeFrame s (appendUndo s x mc b who ta r) := by
  simp only [appendUndo]
  split
  · rfl
  · split
    · exact homeFrame_stopJob _ _ _
    · split <;> rfl

theorem homeFrame_logSector (s : State) (x who : Nat) (ta : Word) (a : Nat) (d : Bool) : HomeFrame s (logSector s x who ta a d) := by
  simp only [logSector]
  split
  · rfl
  · exact (homeFrame_appendUndo ..).trans rfl

theorem homeFrame_foldl {α : Type} {f : State → α → State} (hf : ∀ t a, HomeFrame t (f t a)) (l : List α) :
    ∀ s, HomeFrame s (l.foldl f s) := by
  induction l with
  | nil => exact HomeFrame.refl
  | cons a r ih => exact fun s => (hf s a).trans (ih _)

/-- All that a write performed at its home can change. -/
theorem homeFrame_homeWrite (s : State) (x who : Nat) (e : Leaf) (va : Option Nat) (a : Nat) (bs : List Byte) :
    HomeFrame s (homeWrite s x who e va a bs) := by
  simp only [homeWrite]
  refine HomeFrame.trans ?_ (homeFrame_memWriteDup _ _ _ _)
  split
  · exact homeFrame_foldl (fun t _ => homeFrame_logSector ..) _ _
  · rfl

/-- On a page that is neither lap-tracked nor duplicated it is the write alone. -/
theorem homeWrite_plain {e : Leaf} (hl : leafL e = false) (hd : leafD e = false) (x who : Nat) (va : Option Nat) (a : Nat) (bs : List Byte) :
    homeWrite s x who e va a bs = memWrite s a bs := by
  simp [homeWrite, memWriteDup, hl, hd]

theorem wf_stopJob (h : Memory.wf s.mem = true) (x : Nat) (c : Cause) : Memory.wf (stopJob s x c).mem = true := by
  simp only [stopJob]; split <;> exact h

theorem wf_appendUndo (h : Memory.wf s.mem = true) (x mc : Nat) (b : Bool) (who : Nat) (ta : Word) (r : UndoRecord) :
    Memory.wf (appendUndo s x mc b who ta r).mem = true := by
  simp only [appendUndo]
  split
  · exact wf_memWrite (s := setContext s _ _) h _ _
  · split
    · exact wf_stopJob h _ _
    · split <;> exact wf_memWrite (s := setContext s _ _) h _ _

theorem wf_logSector (h : Memory.wf s.mem = true) (x who : Nat) (ta : Word) (a : Nat) (d : Bool) :
    Memory.wf (logSector s x who ta a d).mem = true := by
  simp only [logSector]
  split
  · exact h
  · exact wf_appendUndo h ..

theorem wf_foldl {α : Type} {f : State → α → State} (hf : ∀ t a, Memory.wf t.mem = true → Memory.wf (f t a).mem = true) (l : List α) :
    ∀ s : State, Memory.wf s.mem = true → Memory.wf (l.foldl f s).mem = true := by
  induction l with
  | nil => exact fun _ h => h
  | cons a r ih => exact fun s h => ih _ (hf s a h)

/-- A write performed at its home keeps the canonical form. -/
theorem wf_homeWrite (h : Memory.wf s.mem = true) (x who : Nat) (e : Leaf) (va : Option Nat) (a : Nat) (bs : List Byte) :
    Memory.wf (homeWrite s x who e va a bs).mem = true := by
  simp only [homeWrite]
  apply wf_memWriteDup
  split
  · exact wf_foldl (fun t _ k => wf_logSector k ..) _ _ h
  · exact h

theorem wf_maskedWrite (h : Memory.wf s.mem = true) (e : Leaf) (a : Nat) (m : BitVec 32) (d : BitVec 256) :
    Memory.wf (maskedWrite s e a m d).mem = true := by
  simp only [maskedWrite]
  split
  · exact wf_memWriteDup h ..
  · refine wf_foldl (fun t i k => ?_) _ _ h
    split
    · exact wf_memWriteDup k ..
    · exact k

/-! ### Meanings that act outside their core -/

theorem runState_done {f : CoreKind → Core → State × Res} {s1 : State} {c : Core}
    (h : f (agentKind s.cur) (coreOf s s.cur) = (s1, .done c)) (hp : (coreOf s1 s.cur).pend = (coreOf s s.cur).pend) :
    runState s f = .next (setCore s1 s.cur (retire c)) := by
  simp [runState, h, newPends, hp, withPend, settle]

theorem runState_trap {f : CoreKind → Core → State × Res} {s1 : State} {t : Trap}
    (h : f (agentKind s.cur) (coreOf s s.cur) = (s1, .trap t)) :
    runState s f = .next (takeCause (withNotice s s.cur t) s.cur t) := by
  simp [runState, h, withPend, settle]

end Sys2Proof.Machine
end

