-- ==== Sys2Proof/Tests/Slice0.lean ====
section
/-! SUPPORT. Tests: what WellFormed and the decoder refuse, words of the spec's encodings that they take, and for every statement
with hypotheses a concrete state and operands that meet them. -/

namespace Sys2Proof.Tests

set_option maxRecDepth 20000
open Sys2Proof Machine Says

/-! ### Ill-formed terms are refused -/

theorem test_bitfield_too_long_refused :
    (Instr.exts 5 6 32 32).WellFormed = false ∧ (Instr.extz 5 6 63 1).WellFormed = false ∧ (Instr.ins 5 6 1 63).WellFormed = false ∧
    (Instr.exts 5 6 0 63).WellFormed = true ∧ (Instr.ins 5 6 63 0).WellFormed = true := by
  decide

theorem test_natural_doubleword_refused :
    (Instr.ld 5 6 3 true 0).WellFormed = false ∧ (Instr.ldl 5 6 3 true 0).WellFormed = false ∧
    (Instr.ldnf 5 6 3 true 0).WellFormed = false ∧ (Instr.ld 5 6 3 false 0).WellFormed = true := by
  decide

theorem test_hurdle_scope_refused :
    (Instr.hurdle 3).WellFormed = false ∧ (Instr.hurdleS 3).WellFormed = false ∧ (Instr.hurdle 2).WellFormed = true := by
  decide

/-- The routes of the switch word worked out in R62's chapter: A: E<N C<W ; B: S<M sc1. -/
def routes : Routes :=
  { aN := 0, aE := 1, aS := 0, aW := 0, aMask := 8, aSink := 0, bN := 0, bE := 0, bS := 6, bW := 0, bMask := 0, bSink := 0,
    aCur := 0, bCur := 1, edge := 0 }

theorem test_route_defects_refused :
    (Instr.route { routes with aE := 7 }).WellFormed = false ∧ (Instr.swaith { routes with bW := 7 }).WellFormed = false ∧
    (Instr.shalt { routes with aSink := 5 }).WellFormed = false ∧ (Instr.sloop { routes with bSink := 1 } 0 0).WellFormed = false ∧
    (Instr.stok { routes with aCur := 2 } 0).WellFormed = false ∧ (Instr.route { routes with edge := 3 }).WellFormed = false ∧
    (Instr.route routes).WellFormed = true ∧ (Instr.sj { routes with edge := 2 } 0 false 0).WellFormed = true := by
  decide

theorem test_smov_source_refused :
    (Instr.smov routes 0 0).WellFormed = false ∧ (Instr.smov routes 0 6).WellFormed = false ∧
    (Instr.smov routes 0 1).WellFormed = true ∧ (Instr.smov routes 0 5).WellFormed = true := by
  decide

/-! ### Words written out from the encoding tables (R58, R62, R77 to R91) -/

theorem test_decode_scalar_0 :
    decode 0x00073141#32 = .ok (.add 5 6 7) ∧ decode 0x01073141#32 = .ok (.sub 5 6 7) ∧
    decode 0x02073141#32 = .ok (.and 5 6 7) ∧ decode 0x03073141#32 = .ok (.or 5 6 7) ∧
    decode 0x04073141#32 = .ok (.xor 5 6 7) ∧ decode 0x05073141#32 = .ok (.andn 5 6 7) ∧
    decode 0x06073141#32 = .ok (.sll 5 6 7) ∧ decode 0x07073141#32 = .ok (.srl 5 6 7) ∧
    decode 0x08073141#32 = .ok (.sra 5 6 7) ∧ decode 0x09073141#32 = .ok (.slt 5 6 7) ∧
    decode 0x0A073141#32 = .ok (.sltn 5 6 7) ∧ decode 0x0B073141#32 = .ok (.min 5 6 7) ∧
    decode 0x0C073141#32 = .ok (.max 5 6 7) ∧ decode 0x0D073141#32 = .ok (.minn 5 6 7) ∧
    decode 0x0E073141#32 = .ok (.maxn 5 6 7) ∧ decode 0x0F073141#32 = .ok (.mul 5 6 7) ∧
    decode 0x10073141#32 = .ok (.mulh 5 6 7) ∧ decode 0x11073141#32 = .ok (.mulhn 5 6 7) ∧
    decode 0x12073141#32 = .ok (.div 5 6 7) ∧ decode 0x13073141#32 = .ok (.divn 5 6 7) ∧
    decode 0x14073141#32 = .ok (.rem 5 6 7) ∧ decode 0x15073141#32 = .ok (.remn 5 6 7) ∧
    decode 0x16003141#32 = .ok (.clz 5 6) ∧ decode 0x17003141#32 = .ok (.ctz 5 6) ∧
    decode 0x18003141#32 = .ok (.popc 5 6) ∧ decode 0x19073141#32 = .ok (.cmov 5 6 7) := by
  decide

theorem test_decode_scalar_1 :
    decode 0x02D53142#32 = .ok (.addi 5 6 0x2d5) ∧ decode 0x02D53143#32 = .ok (.andi 5 6 0x2d5) ∧
    decode 0x02D53144#32 = .ok (.ori 5 6 0x2d5) ∧ decode 0x02D53145#32 = .ok (.xori 5 6 0x2d5) ∧
    decode 0x00083146#32 = .ok (.slli 5 6 8) ∧ decode 0x00483146#32 = .ok (.srli 5 6 8) ∧
    decode 0x00883146#32 = .ok (.srai 5 6 8) ∧ decode 0x00C83146#32 = .ok (.rori 5 6 8) ∧
    decode 0x02D53147#32 = .ok (.slti 5 6 0x2d5) ∧ decode 0x02D53148#32 = .ok (.sltni 5 6 0x2d5) ∧
    decode 0x091A2949#32 = .ok (.li 5 0x12345) ∧ decode 0x091A294A#32 = .ok (.lis 5 0x12345) ∧
    decode 0x091A294B#32 = .ok (.addpc 5 0x12345) ∧ decode 0x00C8314C#32 = .ok (.exts 5 6 8 3) ∧
    decode 0x10C8314C#32 = .ok (.extz 5 6 8 3) ∧ decode 0x20C8314C#32 = .ok (.ins 5 6 8 3) := by
  decide

theorem test_decode_access :
    decode 0x16AE314D#32 = .ok (.ld 5 6 2 true 0x2d5) ∧ decode 0x0B56314E#32 = .ok (.st 5 6 2 0x2d5) ∧
    decode 0x16AE314F#32 = .ok (.ldl 5 6 2 true 0x2d5) ∧ decode 0x0B563150#32 = .ok (.stl 5 6 2 0x2d5) ∧
    decode 0x16AE3151#32 = .ok (.ldnf 5 6 2 true 0x2d5) ∧ decode 0x00073152#32 = .ok (.amoAddW 5 6 7) ∧
    decode 0x01073152#32 = .ok (.amoAddD 5 6 7) ∧ decode 0x02073152#32 = .ok (.amoMinW 5 6 7) ∧
    decode 0x03073152#32 = .ok (.amoMinD 5 6 7) ∧ decode 0x04073152#32 = .ok (.amoMaxW 5 6 7) ∧
    decode 0x05073152#32 = .ok (.amoMaxD 5 6 7) ∧ decode 0x06073152#32 = .ok (.amoMinnW 5 6 7) ∧
    decode 0x07073152#32 = .ok (.amoMinnD 5 6 7) ∧ decode 0x08073152#32 = .ok (.amoMaxnW 5 6 7) ∧
    decode 0x09073152#32 = .ok (.amoMaxnD 5 6 7) ∧ decode 0x0A073152#32 = .ok (.amoAndD 5 6 7) ∧
    decode 0x0B073152#32 = .ok (.amoOrD 5 6 7) ∧ decode 0x0C073152#32 = .ok (.amoXorD 5 6 7) ∧
    decode 0x0D073152#32 = .ok (.amoSwapW 5 6 7) ∧ decode 0x0E073152#32 = .ok (.amoSwapD 5 6 7) ∧
    decode 0x0F073152#32 = .ok (.amoFaddF32 5 6 7) ∧ decode 0x10073152#32 = .ok (.amoFaddBf16x4 5 6 7) ∧
    decode 0x11073152#32 = .ok (.amoIncbW 5 6 7) ∧ decode 0x00073153#32 = .ok (.casW 5 6 7) ∧
    decode 0x01073153#32 = .ok (.casD 5 6 7) := by
  decide

theorem test_decode_control :
    decode 0xFFE9CC14#32 = .ok (.beq 6 7 0x1ffd) ∧ decode 0xFFE9CC54#32 = .ok (.bne 6 7 0x1ffd) ∧
    decode 0xFFE9CC94#32 = .ok (.blt 6 7 0x1ffd) ∧ decode 0xFFE9CCD4#32 = .ok (.bge 6 7 0x1ffd) ∧
    decode 0xFFE9CD14#32 = .ok (.bltn 6 7 0x1ffd) ∧ decode 0xFFE9CD54#32 = .ok (.bgen 6 7 0x1ffd) ∧
    decode 0x048D1595#32 = .ok (.j 0x123456) ∧ decode 0x048D1596#32 = .ok (.jal 0x123456) ∧
    decode 0x02D53157#32 = .ok (.jalr 5 6 0x2d5) ∧ decode 0x09073018#32 = .ok (.jtab 6 7 9) ∧
    decode 0x03213059#32 = .ok (.loop true 6 0x321) ∧ decode 0x190891DA#32 = .ok (.loopi true 0x123 0x321) := by
  decide

theorem test_decode_system :
    decode 0x0000001B#32 = .ok (.trap) ∧ decode 0x0100001B#32 = .ok (.tret) ∧
    decode 0x0202001B#32 = .ok (.fence 2) ∧ decode 0x0300001B#32 = .ok (.genbump) ∧
    decode 0x0400001B#32 = .ok (.wball) ∧ decode 0x0500301B#32 = .ok (.cflush 6) ∧
    decode 0x0600301B#32 = .ok (.cinv 6) ∧ decode 0x0700301B#32 = .ok (.tlbinv 6) ∧
    decode 0x0807301B#32 = .ok (.tlbw 6 7) ∧ decode 0x0900001B#32 = .ok (.idle) ∧
    decode 0x02D5015C#32 = .ok (.mfs 5 0x2d5) ∧ decode 0x02D5301D#32 = .ok (.mts 6 0x2d5) ∧
    decode 0x0091A01E#32 = .ok (.sig 0x1234) := by
  decide

theorem test_decode_sync :
    decode 0x0002001F#32 = .ok (.hurdle 2) ∧ decode 0x0102001F#32 = .ok (.hurdleS 2) ∧
    decode 0x0200001F#32 = .ok (.sealreq) ∧ decode 0x0301301F#32 = .ok (.acq 6 true) ∧
    decode 0x0400301F#32 = .ok (.rel 6) ∧ decode 0x0507301F#32 = .ok (.bind 6 7) ∧
    decode 0x0600301F#32 = .ok (.unbind 6) ∧ decode 0x0700301F#32 = .ok (.waitq 6) ∧
    decode 0x0807301F#32 = .ok (.wake 6 7) ∧ decode 0x0902001F#32 = .ok (.decide 2) ∧
    decode 0x00073020#32 = .ok (.baton 6 7) ∧ decode 0x01000020#32 = .ok (.finish) ∧
    decode 0x00003161#32 = .ok (.hfork 5 6) ∧ decode 0x01073021#32 = .ok (.hreward 6 7) ∧
    decode 0x02003161#32 = .ok (.hwait 5 6) ∧ decode 0x03073021#32 = .ok (.hcancel 6 7) ∧
    decode 0x00073022#32 = .ok (.dsend 6 7) ∧ decode 0x01003162#32 = .ok (.drecv 5 6) ∧
    decode 0x02000162#32 = .ok (.dpoll 5) ∧ decode 0x03003022#32 = .ok (.xcoll 6) ∧
    decode 0x04003022#32 = .ok (.xwait 6) := by
  decide

theorem test_decode_vint :
    decode 0x20673163#32 = .ok (.vadd .s16 3 5 6 7) ∧ decode 0x21673163#32 = .ok (.vsub .s16 3 5 6 7) ∧
    decode 0x22673163#32 = .ok (.vmul .s16 3 5 6 7) ∧ decode 0x23673163#32 = .ok (.vmin .s16 3 5 6 7) ∧
    decode 0x24673163#32 = .ok (.vmax .s16 3 5 6 7) ∧ decode 0x25673163#32 = .ok (.vand .s16 3 5 6 7) ∧
    decode 0x26673163#32 = .ok (.vor .s16 3 5 6 7) ∧ decode 0x27673163#32 = .ok (.vxor .s16 3 5 6 7) ∧
    decode 0x28673163#32 = .ok (.vshl .s16 3 5 6 7) ∧ decode 0x29673163#32 = .ok (.vshr .s16 3 5 6 7) ∧
    decode 0x2A673163#32 = .ok (.vsra .s16 3 5 6 7) ∧ decode 0x2B603163#32 = .ok (.vabs .s16 3 5 6) ∧
    decode 0x2C603163#32 = .ok (.vneg .s16 3 5 6) ∧ decode 0x2D673163#32 = .ok (.vadds .s16 3 5 6 7) ∧
    decode 0x2E673163#32 = .ok (.vsubs .s16 3 5 6 7) := by
  decide

theorem test_decode_vfloat :
    decode 0x20673164#32 = .ok (.vfadd .f32 3 5 6 7) ∧ decode 0x21673164#32 = .ok (.vfsub .f32 3 5 6 7) ∧
    decode 0x22673164#32 = .ok (.vfmul .f32 3 5 6 7) ∧ decode 0x23673164#32 = .ok (.vfmin .f32 3 5 6 7) ∧
    decode 0x24673164#32 = .ok (.vfmax .f32 3 5 6 7) ∧ decode 0x25603164#32 = .ok (.vfabs .f32 3 5 6) ∧
    decode 0x26603164#32 = .ok (.vfneg .f32 3 5 6) ∧ decode 0x27603164#32 = .ok (.vfexp2 .f32 3 5 6) ∧
    decode 0x28603164#32 = .ok (.vflog2 .f32 3 5 6) ∧ decode 0x29603164#32 = .ok (.vfrcp .f32 3 5 6) ∧
    decode 0x2A603164#32 = .ok (.vfrsq .f32 3 5 6) ∧ decode 0x0D273165#32 = .ok (.vfmaF32 3 5 6 7 9) ∧
    decode 0x2D273165#32 = .ok (.vfmaBf16 3 5 6 7 9) ∧ decode 0x4D273165#32 = .ok (.vfmsF32 3 5 6 7 9) ∧
    decode 0x6D273165#32 = .ok (.vfmsBf16 3 5 6 7 9) ∧ decode 0x23673126#32 = .ok (.vcmp .le (.int .s16) 3 4 6 7) := by
  decide

theorem test_decode_vcvt :
    decode 0xF0603167#32 = .ok (.vcvtF32Bf16 .rup true true 3 5 6) ∧ decode 0x81603167#32 = .ok (.vcvtBf16F32 true 3 5 6) ∧
    decode 0xF2603167#32 = .ok (.vcvtF32E4m3 .rup true true 3 5 6) ∧ decode 0xF3603167#32 = .ok (.vcvtF32E5m2 .rup true true 3 5 6) ∧
    decode 0xF4603167#32 = .ok (.vcvtBf16E4m3 .rup true true 3 5 6) ∧ decode 0xF5603167#32 = .ok (.vcvtBf16E5m2 .rup true true 3 5 6) ∧
    decode 0x86603167#32 = .ok (.vcvtE4m3Bf16 true 3 5 6) ∧ decode 0x87603167#32 = .ok (.vcvtE5m2Bf16 true 3 5 6) ∧
    decode 0xD8603167#32 = .ok (.vcvtF32S32 true true true 3 5 6) ∧ decode 0x79603167#32 = .ok (.vcvtS32F32 .rup true 3 5 6) ∧
    decode 0xDA603167#32 = .ok (.vcvtF32N32 true true true 3 5 6) ∧ decode 0x7B603167#32 = .ok (.vcvtN32F32 .rup true 3 5 6) ∧
    decode 0x4C603167#32 = .ok (.vcvtS32S16 true 3 5 6) ∧ decode 0x4D603167#32 = .ok (.vcvtS16S8 true 3 5 6) ∧
    decode 0xFE673167#32 = .ok (.vcvtE2m1E4m3 .rup true true 3 5 6 7) := by
  decide

theorem test_decode_vmove :
    decode 0x00623168#32 = .ok (.vsel 2 3 5 6) ∧ decode 0x01403168#32 = .ok (.vsplat 2 5 6) ∧
    decode 0x02473168#32 = .ok (.vmovx 2 5 6 7) ∧ decode 0x03473168#32 = .ok (.vins 2 5 6 7) ∧
    decode 0x04673168#32 = .ok (.vshuf 3 5 6 7) ∧ decode 0x05673168#32 = .ok (.vrot 3 5 6 7) ∧
    decode 0x06400168#32 = .ok (.viota 2 5) ∧ decode 0x00603169#32 = .ok (.vradd 3 5 6) ∧
    decode 0x01603169#32 = .ok (.vrmax 3 5 6) ∧ decode 0x02603169#32 = .ok (.vrmin 3 5 6) ∧
    decode 0x03673169#32 = .ok (.vdot 3 5 6 7) ∧ decode 0x0004106A#32 = .ok (.pand 1 2 4) ∧
    decode 0x0104106A#32 = .ok (.por 1 2 4) ∧ decode 0x0204106A#32 = .ok (.pxor 1 2 4) ∧
    decode 0x0300106A#32 = .ok (.pnot 1 2) ∧ decode 0x0400116A#32 = .ok (.pcnt 5 2) ∧
    decode 0x0500116A#32 = .ok (.pfirst 5 2) ∧ decode 0x0600306A#32 = .ok (.pset 1 6) := by
  decide

theorem test_decode_vmemory :
    decode 0x16A8316B#32 = .ok (.vld 5 6 0x2d5) ∧ decode 0x0B54316C#32 = .ok (.vst 5 6 0x2d5) ∧
    decode 0x0067316D#32 = .ok (.vldx 3 5 6 7) ∧ decode 0x0167316D#32 = .ok (.vstx 3 5 6 7) ∧
    decode 0x0200316D#32 = .ok (.vldb 5 6) := by
  decide

theorem test_decode_matrix :
    decode 0x0000002E#32 = .ok (.mlease) ∧ decode 0x0100002E#32 = .ok (.mrel) ∧
    decode 0x0200302E#32 = .ok (.mma 6) ∧ decode 0x0300302E#32 = .ok (.mcell 6) ∧
    decode 0x0401002E#32 = .ok (.mzero 1) ∧ decode 0x0500302E#32 = .ok (.mdrain 6) ∧
    decode 0x0600002E#32 = .ok (.mwait) := by
  decide

theorem test_decode_buffers :
    decode 0x000030EF#32 = .ok (.bufdef 3 6) ∧ decode 0x010000EF#32 = .ok (.publish 3) ∧
    decode 0x0207302F#32 = .ok (.ewait 6 7) ∧ decode 0x030030EF#32 = .ok (.scur 3 6) ∧
    decode 0x00003030#32 = .ok (.srd 6) ∧ decode 0x01003030#32 = .ok (.swr 6) ∧
    decode 0x02000030#32 = .ok (.swait) ∧ decode 0x00000031#32 = .ok (.undospill) ∧
    decode 0x01000171#32 = .ok (.lapq 5) := by
  decide
theorem test_decode_switch :
    decodeSwitch 0x000001000C008008#64 = .ok (.route routes) ∧
    decodeSwitch 0x050145000C008008#64 = .ok (.sj routes 5 true 2) ∧
    decodeSwitch 0x03E849000C008008#64 = .ok (.sloop routes 1 1000) ∧
    decodeSwitch 0x00054D000C008008#64 = .ok (.sdbnz routes 1 5) ∧
    decodeSwitch 0x000251000C008008#64 = .ok (.smov routes 1 2) ∧
    decodeSwitch 0x000795000C008008#64 = .ok (.scurSwitch routes 2 7) ∧
    decodeSwitch 0x0000D9000C008008#64 = .ok (.stok routes 3) ∧
    decodeSwitch 0x00001D000C008008#64 = .ok (.swaith routes) ∧
    decodeSwitch 0x000021000C008008#64 = .ok (.shalt routes) := by
  decide

theorem test_decode_route_fields :
    decodeSwitch 0x80000104DCE08A89#64 = .ok (.route { routes with aN := 1, aS := 2, aW := 5, bN := 4, bE := 3, bW := 5, bMask := 9, edge := 2 }) := by
  decide

theorem test_decode_route_sinks :
    decodeSwitch 0x0000025800020000#64 =
      .ok (.route { routes with aE := 0, aMask := 0, bS := 0, aSink := 2, bSink := 3, aCur := 1, bCur := 2 }) := by
  decide

theorem test_decode_switch_refuses :
    (decodeSwitch 0x000025000C008008#64).toOption = none ∧ (decodeSwitch 0x000041000C008008#64).toOption = none ∧
    (decodeSwitch 0x080005000C008008#64).toOption = none ∧ (decodeSwitch 0x04000D000C008008#64).toOption = none ∧
    (decodeSwitch 0x000051000C008008#64).toOption = none ∧ (decodeSwitch 0x000651000C008008#64).toOption = none ∧
    (decodeSwitch 0x000119000C008008#64).toOption = none ∧ (decodeSwitch 0x00005D000C008008#64).toOption = none ∧
    (decodeSwitch 0x000061000C008008#64).toOption = none ∧ (decodeSwitch 0x000001000C00800F#64).toOption = none ∧
    (decodeSwitch 0x000001000C058008#64).toOption = none ∧ (decodeSwitch 0xC00001000C008008#64).toOption = none := by
  decide

theorem test_decode_core_refuses :
    [0x00000000#32, 0x00000032#32, 0x0000003F#32, 0x00200001#32, 0x1A000001#32, 0x16013141#32, 0x01000006#32, 0x3000314C#32, 0x13F8314C#32, 0x0007000D#32, 0x12000012#32, 0x02000013#32, 0x00000194#32, 0x00000058#32, 0x00000459#32, 0x0000005B#32, 0x0204001B#32, 0x0A00001B#32, 0x0000085C#32, 0x0000005D#32, 0x0800001E#32, 0x0003001F#32, 0x0A00001F#32, 0x02000020#32, 0x04000021#32, 0x05000022#32, 0x0F000023#32, 0xC0000023#32, 0x0B000024#32, 0x40000024#32, 0x06000026#32, 0x00000226#32, 0x0F000027#32, 0x07000028#32, 0x04000029#32, 0x0700002A#32, 0x0001002B#32, 0x0001002C#32, 0x0300002D#32, 0x0700002E#32, 0x0400002F#32, 0x03000030#32, 0x02000031#32].all (fun w => (decode w).toOption.isNone) = true := by
  decide
/-! ### States to meet hypotheses with -/

/-- A package in which the core that steps, tile 0, is c. -/
def tileWith (c : Core) : State := { cores := [(0, c)] }

/-- A running core of gang 1 with small numbers in x5, x6 and x7. -/
def runner : Core := { mode := .running, gang := some 1, x := ((Vector.replicate 32 0).set 5 2).set 6 3 |>.set 7 (-4) }

/-- A tile's core whose inbound FIFO of direction N holds 9 and whose outbound FIFO of direction N is full. -/
def portCore : Core := { runner with fifoA := [(0, [9]), (4, [1, 2, 3, 4])] }

/-! ### Scalar forms -/

theorem witness_scalar_register_access :
    isPort .tile 27#5 = false ∧ isPort .tile 28#5 = true ∧ portCore.pulled = [] ∧ portCore.errInject.getLsbD 0 = false ∧
    fifoA portCore (portDir 28) = 9 :: [] ∧ fifoA portCore (portDir 29) = [] ∧ (fifoA portCore (4 + portDir 29)).length < 4 ∧
    4 ≤ (fifoA portCore (4 + portDir 28)).length := by
  decide

theorem witness_two_source : ∃ i d a b f s x y c1 c2 c3, twoSource i = some (d, a, b, f) ∧ Unlocked (kind s) (own s) [a, b] [d] ∧
    readX (kind s) (own s) a = .ok (x, c1) ∧ readX (kind s) c1 b = .ok (y, c2) ∧ writeX (kind s) c2 d (f x y) = .ok c3 :=
  ⟨.add 29 28 6, 29, 28, 6, _, tileWith portCore, _, _, _, _, _, rfl, by decide, rfl, rfl, rfl⟩

theorem witness_one_source : ∃ i d a f s x c1 c2, oneSource i = some (d, a, f) ∧ i.WellFormed = true ∧
    Unlocked (kind s) (own s) [a] [d] ∧ readX (kind s) (own s) a = .ok (x, c1) ∧ writeX (kind s) c1 d (f x) = .ok c2 :=
  ⟨.exts 5 6 63 0, 5, 6, _, tileWith runner, _, _, _, rfl, by decide, by decide, rfl, rfl⟩

theorem witness_counting : ∃ i d a f s x c1 c2, counting i = some (d, a, f) ∧ Unlocked (kind s) (own s) [a] [d] ∧
    readX (kind s) (own s) a = .ok (x, c1) ∧ writeX (kind s) c1 d (f x) = .ok c2 :=
  ⟨.clz 5 0, 5, 0, _, tileWith runner, _, _, _, rfl, by decide, rfl, rfl⟩

theorem witness_shift_immediate : ∃ i d a f s x c1 c2, shiftImm i = some (d, a, f) ∧ Unlocked (kind s) (own s) [a] [d] ∧
    readX (kind s) (own s) a = .ok (x, c1) ∧ writeX (kind s) c1 d (f x) = .ok c2 :=
  ⟨.rori 5 7 0, 5, 7, _, tileWith runner, _, _, _, rfl, by decide, rfl, rfl⟩

theorem witness_cmov : ∃ d a b s x y c1 c2 c3, Unlocked (kind s) (own s) [a, b] [d] ∧ readX (kind s) (own s) a = .ok (x, c1) ∧
    readX (kind s) c1 b = .ok (y, c2) ∧ (if y = 0#64 then .ok c2 else writeX (kind s) c2 d x) = .ok c3 :=
  ⟨5, 28, 0, tileWith portCore, _, _, _, _, _, by decide, rfl, rfl, rfl⟩

theorem witness_insert : ∃ d a pos len1 s x y v c1 c2 c3, bitFieldOk pos len1 = true ∧ Unlocked (kind s) (own s) [a, d] [d] ∧
    readX (kind s) (own s) a = .ok (x, c1) ∧ readX (kind s) c1 d = .ok (y, c2) ∧ writeX (kind s) c2 d v = .ok c3 ∧
    (∀ i, i < 64 → v.getLsbD i = if pos.toNat ≤ i ∧ i ≤ pos.toNat + len1.toNat then x.getLsbD (i - pos.toNat) else y.getLsbD i) :=
  ⟨5, 6, 60, 3, tileWith runner, 3, 2, 0x3000000000000002, _, _, _, by decide, by decide, rfl, rfl, rfl, by decide⟩

theorem witness_li : ∃ d, ∃ imm : BitVec 21, ∃ s c1, Unlocked (kind s) (own s) [] [d] ∧ writeX (kind s) (own s) d (BitVec.ofInt 64 (imm.toInt)) = .ok c1 :=
  ⟨5, (0x100000#21), tileWith runner, _, by decide, rfl⟩

/-- ADDPC at the two ends of the slot, and one word outside each. -/
theorem witness_addpc :
    (∃ imm : BitVec 21, ∃ s c1, ((own s).pc.toNat : Int) + 4 * imm.toInt = 0 ∧ Unlocked (kind s) (own s) [] [5] ∧
      writeX (kind s) (own s) 5 (BitVec.ofInt 64 (((own s).pc.toNat : Int) + 4 * imm.toInt)) = .ok c1) ∧
    (∃ imm : BitVec 21, ∃ s c1, ((own s).pc.toNat : Int) + 4 * imm.toInt = 0x3FFC ∧ Unlocked (kind s) (own s) [] [5] ∧
      writeX (kind s) (own s) 5 (BitVec.ofInt 64 (((own s).pc.toNat : Int) + 4 * imm.toInt)) = .ok c1) ∧
    (∃ imm : BitVec 21, ∃ s, ((own s).pc.toNat : Int) + 4 * imm.toInt = -4) ∧
    (∃ imm : BitVec 21, ∃ s, ((own s).pc.toNat : Int) + 4 * imm.toInt = 0x4000) :=
  ⟨⟨BitVec.ofInt 21 (-2), tileWith { runner with pc := 8 }, _, by decide, by decide, rfl⟩,
   ⟨4095, tileWith runner, _, by decide, by decide, rfl⟩, ⟨BitVec.ofInt 21 (-1), tileWith runner, by decide⟩,
   ⟨4096, tileWith runner, by decide⟩⟩

theorem witness_multi_cycle : ∃ i n d a b f s x y c1 c2, multiCycle i = some (n, d, a, b, f) ∧
    Unlocked (kind s) (own s) [a, b] [d] ∧ readX (kind s) (own s) a = .ok (x, c1) ∧ readX (kind s) c1 b = .ok (y, c2) :=
  ⟨.div 5 7 0, 20, 5, 7, 0, _, tileWith runner, _, _, _, _, rfl, by decide, rfl, rfl⟩

theorem witness_scalar_frame : (∃ i n d a b f s t, multiCycle i = some (n, d, a, b, f) ∧ exec i s = .next t) ∧
    (∃ i d s t, scalarDest i = some d ∧ exec i s = .next t) ∧
    (∃ imm : BitVec 21, ∃ s t, 0 ≤ ((own s).pc.toNat : Int) + 4 * imm.toInt ∧ ((own s).pc.toNat : Int) + 4 * imm.toInt ≤ 0x3FFC ∧
      exec (.addpc 5 imm) s = .next t) :=
  ⟨⟨.mul 5 6 7, 3, 5, 6, 7, _, tileWith runner, _, rfl, rfl⟩, ⟨.add 5 6 7, 5, tileWith runner, _, rfl, rfl⟩,
   ⟨4095, tileWith runner, _, by decide, by decide, rfl⟩⟩

theorem witness_pending_register : ∃ i d a b f s, twoSource i = some (d, a, b, f) ∧
    (∃ r ∈ [a, b, d], isPort (kind s) r = false ∧ (scalarBusy (own s) r = true ∨ landBusy (own s) r = true)) :=
  ⟨.add 5 6 7, 5, 6, 7, _, tileWith { runner with scalars := [{ reg := 6, remaining := 2, value := 1 }] }, rfl, by decide⟩

/-! ### Control -/

/-- A runner at the armed end of loop slot 0. -/
def atEnd : Core := { runner with pc := 8, loop0 := { armed := true, start := 4, fin := 8, count := 2, initial := 2 } }

/-- A branch at the last word of the slot, one back to its first, one past each, and one at an armed loop end. -/
theorem witness_branch :
    (∃ i a b off f s x y c1 c2, branchForm i = some (a, b, off, f) ∧ ((own s).pc.toNat : Int) + 4 * off.toInt = 0x3FFC ∧
      inRange (((own s).pc.toNat : Int) + 4 * off.toInt) ∧ ¬ standsAtLoopEnd (own s) ∧ Unlocked (kind s) (own s) [a, b] [] ∧
      readX (kind s) (own s) a = .ok (x, c1) ∧ readX (kind s) c1 b = .ok (y, c2)) ∧
    (∃ i a b off f s x y c1 c2, branchForm i = some (a, b, off, f) ∧ ((own s).pc.toNat : Int) + 4 * off.toInt = 0 ∧
      inRange (((own s).pc.toNat : Int) + 4 * off.toInt) ∧ ¬ standsAtLoopEnd (own s) ∧ Unlocked (kind s) (own s) [a, b] [] ∧
      readX (kind s) (own s) a = .ok (x, c1) ∧ readX (kind s) c1 b = .ok (y, c2)) ∧
    (∃ i a b off f s, branchForm i = some (a, b, off, f) ∧ ((own s).pc.toNat : Int) + 4 * off.toInt = 0x4000 ∧
      ¬ inRange (((own s).pc.toNat : Int) + 4 * off.toInt)) ∧
    (∃ i a b off f s, branchForm i = some (a, b, off, f) ∧ ((own s).pc.toNat : Int) + 4 * off.toInt = -4 ∧
      ¬ inRange (((own s).pc.toNat : Int) + 4 * off.toInt)) ∧
    (∃ i a b off f s, branchForm i = some (a, b, off, f) ∧ inRange (((own s).pc.toNat : Int) + 4 * off.toInt) ∧
      standsAtLoopEnd (own s)) :=
  ⟨⟨.beq 5 6 1, 5, 6, 1, _, tileWith { runner with pc := 0x3FF8 }, _, _, _, _, rfl, by decide, by unfold inRange; decide,
      by unfold standsAtLoopEnd; decide, by decide, rfl, rfl⟩,
   ⟨.bgen 5 6 0x1FFF, 5, 6, 0x1FFF, _, tileWith { runner with pc := 4 }, _, _, _, _, rfl, by decide, by unfold inRange; decide,
      by unfold standsAtLoopEnd; decide, by decide, rfl, rfl⟩,
   ⟨.bne 5 6 2, 5, 6, 2, _, tileWith { runner with pc := 0x3FF8 }, rfl, by decide, by unfold inRange; decide⟩,
   ⟨.blt 5 6 0x1FFF, 5, 6, 0x1FFF, _, tileWith runner, rfl, by decide, by unfold inRange; decide⟩,
   ⟨.bge 5 6 0, 5, 6, 0, _, tileWith atEnd, rfl, by unfold inRange; decide, by unfold standsAtLoopEnd; decide⟩⟩

theorem witness_jump :
    (∃ off : BitVec 26, ∃ s, ((own s).pc.toNat : Int) + 4 * off.toInt = 0x3FFC ∧ inRange (((own s).pc.toNat : Int) + 4 * off.toInt) ∧
      ¬ standsAtLoopEnd (own s) ∧ Unlocked (kind s) (own s) [] [1#5]) ∧
    (∃ off : BitVec 26, ∃ s, ((own s).pc.toNat : Int) + 4 * off.toInt = 0x4000 ∧ ¬ inRange (((own s).pc.toNat : Int) + 4 * off.toInt)) ∧
    (∃ off : BitVec 26, ∃ s, inRange (((own s).pc.toNat : Int) + 4 * off.toInt) ∧ standsAtLoopEnd (own s)) :=
  ⟨⟨4095, tileWith runner, by decide, by unfold inRange; decide, by unfold standsAtLoopEnd; decide, by decide⟩,
   ⟨4096, tileWith runner, by decide, by unfold inRange; decide⟩,
   ⟨1, tileWith atEnd, by unfold inRange; decide, by unfold standsAtLoopEnd; decide⟩⟩

/-- JALR to the last word of the slot, to a byte address, just outside the slot, and at an armed loop end. -/
theorem witness_jalr :
    (∃ d a, ∃ imm : BitVec 16, ∃ s x c1 c2, Unlocked (kind s) (own s) [a] [d] ∧ readX (kind s) (own s) a = .ok (x, c1) ∧
      (BitVec.ofInt 64 (x.toInt + imm.toInt)).toNat % 4 = 0 ∧ (BitVec.ofInt 64 (x.toInt + imm.toInt)).toNat = 0x3FFC ∧
      ¬ standsAtLoopEnd (own s) ∧ writeX (kind s) c1 d (BitVec.ofNat 64 ((own s).pc.toNat + 4)) = .ok c2) ∧
    (∃ d a, ∃ imm : BitVec 16, ∃ s x c1, Unlocked (kind s) (own s) [a] [d] ∧ readX (kind s) (own s) a = .ok (x, c1) ∧
      (BitVec.ofInt 64 (x.toInt + imm.toInt)).toNat % 4 ≠ 0) ∧
    (∃ d a, ∃ imm : BitVec 16, ∃ s x c1, Unlocked (kind s) (own s) [a] [d] ∧ readX (kind s) (own s) a = .ok (x, c1) ∧
      (BitVec.ofInt 64 (x.toInt + imm.toInt)).toNat = 0x4000) ∧
    (∃ d a, ∃ imm : BitVec 16, ∃ s x c1, Unlocked (kind s) (own s) [a] [d] ∧ readX (kind s) (own s) a = .ok (x, c1) ∧
      (BitVec.ofInt 64 (x.toInt + imm.toInt)).toNat = 0 ∧ standsAtLoopEnd (own s)) :=
  ⟨⟨1, 0, 0x3FFC, tileWith runner, _, _, _, by decide, rfl, by decide, by decide, by unfold standsAtLoopEnd; decide, rfl⟩,
   ⟨1, 5, 0, tileWith runner, _, _, by decide, rfl, by decide⟩, ⟨1, 0, 0x4000, tileWith runner, _, _, by decide, rfl, by decide⟩,
   ⟨1, 0, 0, tileWith atEnd, _, _, by decide, rfl, by decide, by unfold standsAtLoopEnd; decide⟩⟩

/-- LOOP with the counts 0, 1, 2^32 − 1 and 2^32 and an end at the last word of the slot; one whose end lies outside. -/
theorem witness_loop :
    (∀ n ∈ [0, 1, 2 ^ 32 - 1, 2 ^ 32], ∃ a, ∃ fin : BitVec 16, ∃ s x c1, loopPasses (own s) fin.toNat ∧ Unlocked (kind s) (own s) [a] [] ∧
      readX (kind s) (own s) a = .ok (x, c1) ∧ x.toNat = n) ∧
    (∃ fin : BitVec 16, ∃ s, ¬ loopPasses (own s) fin.toNat ∧ fin.toNat = 4096) ∧
    (∃ fin : BitVec 16, ∃ s, ¬ loopPasses (own s) fin.toNat ∧ fin.toNat = 0) ∧
    (∃ fin : BitVec 13, ∃ s, loopPasses (own s) fin.toNat ∧ fin.toNat = 1) :=
  ⟨fun n h => ⟨8, 4095, tileWith { runner with x := runner.x.set 8 (BitVec.ofNat 64 n) }, BitVec.ofNat 64 n, _,
      by unfold loopPasses standsAtLoopEnd; exact ⟨rfl, by decide, by show 0 + 4 * 4095 ≤ 0x3FFC; omega, by rintro (⟨h, -⟩ | ⟨h, -⟩) <;> cases h⟩, ⟨fun r hr _ => by simp only [List.mem_cons, List.not_mem_nil, or_false] at hr; subst hr; exact ⟨rfl, rfl⟩, fun r hr => by cases hr⟩, rfl,
      by simp only [List.mem_cons, List.not_mem_nil, or_false] at h; rcases h with rfl | rfl | rfl | rfl <;> rfl⟩,
   ⟨4096, tileWith runner, by unfold loopPasses standsAtLoopEnd; decide, rfl⟩,
   ⟨0, tileWith runner, by unfold loopPasses standsAtLoopEnd; decide, rfl⟩,
   ⟨1, tileWith runner, by unfold loopPasses standsAtLoopEnd; decide, rfl⟩⟩

/-- A core that has just completed the last word of both of its loops, n0 and n1 passes still to come. -/
def looping (a0 a1 : Bool) (n0 n1 : BitVec 32) : Core :=
  { runner with evalAt := some 8, loop0 := { armed := a0, start := 0, fin := 8, count := n0, initial := 5 },
                loop1 := { armed := a1, start := 4, fin := 8, count := n1, initial := 5 } }

/-- LOOP_EVAL with one slot and with both, at the last pass and the pass before it. -/
theorem witness_loop_evaluation : ∀ c ∈ [looping true false 2 1, looping true false 1 1, looping false true 1 2, looping false true 1 1,
    looping true true 1 2, looping true true 2 1, looping true true 1 1], ∃ e, (own (tileWith c)).evalAt = some e :=
  fun c h => by
    simp only [List.mem_cons, List.not_mem_nil, or_false] at h
    rcases h with rfl | rfl | rfl | rfl | rfl | rfl | rfl <;> exact ⟨8, rfl⟩

theorem test_loop_evaluation_ends_both : ∃ t, exec .loopEval (tileWith (looping true true 1 1)) = .next t ∧ (own t).pc = 12 ∧
    (own t).loop0.armed = false ∧ (own t).loop1.armed = false :=
  ⟨_, rfl, rfl, rfl, rfl⟩

theorem witness_trap_tret :
    (∃ s, ¬ standsAtLoopEnd (own s)) ∧ (∃ s, standsAtLoopEnd (own s)) ∧
    (∃ s, (own s).inHandler = true ∧ ¬ standsAtLoopEnd (own s) ∧ (own s).inflight = [] ∧ wordAt (own s) (own s).pc = 0x0100001B#32) ∧
    (∃ s, (own s).inHandler = false) ∧ (∃ s, (own s).inHandler = true ∧ standsAtLoopEnd (own s)) ∧
    (∃ s, (own s).inHandler = true ∧ ¬ standsAtLoopEnd (own s) ∧ (own s).inflight ≠ []) :=
  ⟨⟨tileWith runner, by unfold standsAtLoopEnd; decide⟩, ⟨tileWith atEnd, by unfold standsAtLoopEnd; decide⟩,
   ⟨tileWith { runner with inHandler := true, code := [(0, 0x0100001B)] }, rfl, by unfold standsAtLoopEnd; decide, rfl, by decide⟩,
   ⟨tileWith runner, rfl⟩, ⟨tileWith { atEnd with inHandler := true }, rfl, by unfold standsAtLoopEnd; decide⟩,
   ⟨tileWith { runner with inHandler := true, inflight := [{ kind := .v, reg := 1, remaining := 1, enable := 0, mask := 0, value := 0 }] },
     rfl, by unfold standsAtLoopEnd; decide, by decide⟩⟩

/-- SIG with checking off, with a match, with a mismatch, and unarmed. -/
theorem witness_signature : ∃ off same other unarmed, (own off).sigCtl = false ∧
    ((own same).sigCtl = true ∧ (own same).inHandler = false ∧ (own same).checker.armed = true ∧
      (own same).checker.crc = (own same).checker.expected) ∧
    ((own other).sigCtl = true ∧ (own other).inHandler = false ∧ (own other).checker.armed = true ∧
      (own other).checker.crc ≠ (own other).checker.expected) ∧
    ((own unarmed).sigCtl = true ∧ (own unarmed).inHandler = false ∧ (own unarmed).checker.armed = false) :=
  ⟨tileWith runner, tileWith { runner with sigCtl := true, checker := { crc := 7, armed := true, expected := 7 } },
   tileWith { runner with sigCtl := true, checker := { crc := 7, armed := true, expected := 8 } },
   tileWith { runner with sigCtl := true }, by decide⟩

theorem witness_control_frame : ∃ i s t, (branchForm i).isSome = true ∧ exec i s = .next t ∧ (own t).pc = 8 :=
  ⟨.beq 5 5 2, tileWith runner, _, rfl, rfl, rfl⟩

/-- The landings of a tc with a vector result, a result of a multi-cycle form and one not yet due. -/
theorem witness_landings : ∃ s, (own s).landing = true ∧ (own s).evalAt = none ∧
    (∀ l ∈ (own s).inflight, l.remaining ≤ 1 → kind s ≠ .tile ∨ l.reg < 28) ∧
    (∀ e ∈ (own s).scalars, e.remaining ≤ 1 → isPort (kind s) e.reg = false) ∧ (∃ e ∈ (own s).scalars, e.remaining ≤ 1) ∧
    (∃ l ∈ (own s).inflight, l.remaining ≤ 1) ∧ ∃ l ∈ (own s).inflight, l.remaining = 2 :=
  ⟨tileWith { runner with landing := true, inflight := [{ kind := .v, reg := 1, remaining := 1, enable := 0, mask := 0, value := 0 }, { kind := .p, reg := 2, remaining := 2, enable := 0, mask := 0, value := 0 }], scalars := [{ reg := 6, remaining := 1, value := 9 }] }, by decide⟩

/-! ### Causes and the step -/

/-- A runner in its handler, where a page fault brought it. -/
def handling : Core := { runner with inHandler := true, trapCause := 4, trapPc := 0x40, trapAddr := 0x1000 }

theorem witness_handler_entry : ∃ s a t, handlerTakes t ∧ (coreOf s a).inHandler = false ∧ atRest (coreOf s a) :=
  ⟨tileWith runner, .tile 0, { cause := .page, addr := 0x1000 }, by unfold handlerTakes; decide, rfl, by unfold atRest; decide⟩

theorem test_handler_entry_goes_to_trap_vec : ∃ c', takeCause (tileWith { runner with pc := 0x20, trapVec := 0x107 }) (.tile 0)
    { cause := .page, addr := 0x1000 } = tileWith c' ∧ c'.pc = 0x104 ∧ c'.trapPc = 0x20 ∧ c'.trapCause = 4 ∧ c'.trapAddr = 0x1000 ∧
    c'.inHandler = true :=
  ⟨_, rfl, rfl, rfl, rfl, rfl, rfl⟩

theorem witness_double_fault : ∃ s a t g, handlerTakes t ∧ (coreOf s a).inHandler = true ∧ (coreOf s a).gang = some g :=
  ⟨tileWith handling, .tile 0, { cause := .align }, 1, by unfold handlerTakes; decide, rfl, rfl⟩

/-- Context 5, with or without laps, whose gang 1 stands on tile 0. -/
def job (laps : Bool) (c : Core) : State :=
  { tileWith c with gangs := [(1, { baton := 0, bytes := 0, inst := 0, first := 0, lanes := 2, ctx := 5, cfg := 0 })], contexts := [(5, { laps := laps, running := true, resident := true })] }

theorem witness_supervisor_and_lap_causes :
    (∃ s a, ∃ t : Trap, (t.cause = .undoQuota ∨ t.cause = .stageQuota) ∧ atRest (coreOf s a)) ∧
    (∃ s n, ∃ t : Trap, ∃ x, (t.cause = .ue ∨ t.cause = .sigFault ∨ (t.cause = .remoteLost ∧ t.deferred = true)) ∧
      ctxOf s (coreOf s (.tile n)) = some x ∧ (contextOf s x).laps = true) ∧
    (∃ s n, ∃ t : Trap, ∃ x, (t.cause = .ue ∨ t.cause = .sigFault ∨ (t.cause = .remoteLost ∧ t.deferred = true)) ∧
      ctxOf s (coreOf s (.tile n)) = some x ∧ (contextOf s x).laps = false ∧ (contextOf s x).stopped = none) :=
  ⟨⟨tileWith runner, .tile 0, { cause := .undoQuota }, by decide, by unfold atRest; decide⟩,
   ⟨job true runner, 0, { cause := .remoteLost, deferred := true }, 5, by decide, rfl, rfl⟩,
   ⟨job false runner, 0, { cause := .ue }, 5, by decide, rfl, rfl, rfl⟩⟩

theorem witness_step_runs_decoded :
    (∃ s i, fetches s ∧ decode (wordAt (own s) (own s).pc) = .ok i ∧ i.usableOn (kind s) = true) ∧
    (∃ s, fetches s ∧ ∀ i, decode (wordAt (own s) (own s).pc) = .ok i → i.usableOn (kind s) = false) ∧
    (∃ s i, fetches s ∧ decode (wordAt (own s) (own s).pc) = .ok i ∧ i.usableOn (kind s) = false) ∧
    (∃ s : State, ∃ n i, s.agenda = [.switch n] ∧ n < 2048 ∧ (coreOf s (.tile n)).mode ≠ .off ∧ (coreOf s (.tile n)).swHalted = false ∧
      (coreOf s (.tile n)).swWaitH = false ∧ gangStopping s (coreOf s (.tile n)) = false ∧ tokenApplied s (coreOf s (.tile n)) = false ∧
      decodeSwitch (switchWord (coreOf s (.tile n))) = .ok i) ∧
    (∃ s : State, ∃ i pick rest, s.agenda = .event i pick :: rest ∧ encode i = none) :=
  ⟨⟨tileWith { runner with code := [(0, 0x00073141)] }, .add 5 6 7, by unfold fetches; decide, rfl, rfl⟩,
   ⟨tileWith runner, by unfold fetches; decide, fun i h => by have h' : (Except.error .allZero : Except DecodeError Instr) = .ok i := h; cases h'⟩,
   ⟨tileWith { runner with code := [(0, 0x02000030)] }, .swait, by unfold fetches; decide, rfl, rfl⟩,
   ⟨{ tileWith { runner with swHalted := false } with agenda := [.switch 0] }, 0, _, rfl, by decide, by decide, rfl, rfl, rfl, rfl, rfl⟩,
   ⟨{ tileWith runner with agenda := [.event .vectorLanding] }, .vectorLanding, 0, [], rfl, rfl⟩⟩

theorem witness_boundary_cause : ∃ s t, s.agenda = [] ∧ (own s).mode = .running ∧ gangStopping s (own s) = false ∧
    tokenApplied s (own s) = false ∧ (own s).blocked = false ∧ atRest (own s) ∧ (own s).wait = .none ∧ takeable (own s) = some t ∧
    handlerTakes t ∧ (own s).inHandler = false :=
  ⟨tileWith { runner with pend := [{ cause := .brk }] }, { cause := .brk }, rfl, rfl, rfl, rfl, rfl, by unfold atRest; decide, rfl, rfl,
   by unfold handlerTakes; decide, rfl⟩

theorem witness_no_stop : ∃ s : State, s.switchesDecode :=
  ⟨State.reset, fun n _ => by show switchDecodes {} = true; decide⟩

theorem test_placed_word_runs_first : ∃ t, step (State.reset.withFetchWord 32 0x00643142) = .next t ∧ reg (own t) 5 = 100 ∧
    (own t).pc = 4 :=
  ⟨_, rfl, rfl, rfl⟩

theorem test_placed_switch_word_runs_first : ∃ t, step (State.reset.withFetchWord 64 0) = .next t ∧ (coreOf t (.tile 0)).spc = 1 :=
  ⟨_, rfl, rfl⟩

/-! ### Accesses -/

/-- A 4 KiB page at virtual address 0, readable and writable, on this package at 0x100000. -/
def plainLeaf : Leaf := (7#128 <<< 48) ||| (0x100#128 <<< 64)

/-- The same page on the memory side (M). -/
def memLeaf : Leaf := plainLeaf ||| (1#128 <<< 52)

/-- A runner whose TLB holds one entry. -/
def cached (e : Leaf) (lines : Tbl Line) : Core := { runner with tlb := [{ ctx := 5, leaf := e }], lines := lines }

/-- The line of address 0 with every sector filled. -/
def fullLine : Line := { va := 0, ctx := 5, leaf := plainLeaf, phys := 0x100000, filled := 15, data := 0x1234 }

/-- A runner whose cache holds the line of address 0. -/
def lineCore : Core := cached plainLeaf [(0, fullLine)]

/-- A load, and a store, of context 5. -/
def loadClass : AccessClass := { need := .r, kind := .load }

/-- Above 2^56; no entry; an entry behind another, at the first and last byte of its page. -/
theorem witness_translation :
    (∃ va : Word, 2 ^ 56 = va.toNat) ∧
    (∃ s c, ∃ va : Word, va.toNat = 2 ^ 56 - 1 ∧ ∀ e ∈ c.tlb, ¬ (e.ctx = (ctxOf s c).getD 0 ∧ leafCovers e.leaf va.toNat = true)) ∧
    (∃ s c l t r, c.tlb = l ++ t :: r ∧ l ≠ [] ∧ (∀ e ∈ l, ¬ (e.ctx = (ctxOf s c).getD 0 ∧ leafCovers e.leaf 0 = true)) ∧
      t.ctx = (ctxOf s c).getD 0 ∧ leafCovers t.leaf 0 = true ∧ leafCovers t.leaf 0xFFF = true) :=
  ⟨⟨0x100000000000000, by decide⟩, ⟨job false runner, cached plainLeaf [], 0xFFFFFFFFFFFFFF, by decide, by decide⟩,
   job false runner, { runner with tlb := [{ ctx := 4, leaf := plainLeaf }, { ctx := 5, leaf := plainLeaf }] },
   [{ ctx := 4, leaf := plainLeaf }], { ctx := 5, leaf := plainLeaf }, [], rfl, by decide, by decide, rfl, by decide, by decide⟩

/-- Each way a check of R211 decides: no entry, a foreign configuration, no permission, a stale incarnation, no memory, and passing. -/
theorem witness_checks : ∀ p ∈ [(0#128, some Cause.page), (plainLeaf ||| (9#128 <<< 100), some .cid), (1#128 <<< 48, some .perm),
      (plainLeaf ||| (1#128 <<< 108) ||| (1#128 <<< 119), some .remoteLost), (plainLeaf ||| (0x4800000#128 <<< 64), some .page),
      (plainLeaf, none)],
    checkLeaf (job false runner) 0#8 p.1 loadClass 0 = p.2 := by
  decide

theorem witness_load_misaligned : ∃ a w imm s x c1, Unlocked (kind s) (own s) [a] [5] ∧ readX (kind s) (own s) a = .ok (x, c1) ∧
    (BitVec.ofInt 64 (x.toInt + (imm : BitVec 13).toInt)).toNat % nbytes w ≠ 0 :=
  ⟨6, 1, 0, job false runner, _, _, by decide, rfl, by decide⟩

theorem witness_load_hit : ∃ a w, ∃ imm : BitVec 13, ∃ s x c1 c2 c3 c4 key, Unlocked (kind s) (own s) [a] [5] ∧ readX (kind s) (own s) a = .ok (x, c1) ∧
    (BitVec.ofInt 64 (x.toInt + imm.toInt)).toNat % nbytes w = 0 ∧ c1.replies = [] ∧
    lineFound s c1 { need := .r, kind := .load } (BitVec.ofInt 64 (x.toInt + imm.toInt)) c2 key ∧
    hits c2 (lineAt c2 key) (BitVec.ofInt 64 (x.toInt + imm.toInt)).toNat (nbytes w) ∧
    writeX (kind s) (useWay c2 key) 5 (extended w true (lineBytes (lineAt c2 key) (BitVec.ofInt 64 (x.toInt + imm.toInt)).toNat (nbytes w))) = .ok c3 ∧
    writeX (kind s) (ldnfDone (useWay c2 key) [] false) 5 (extended w true (lineBytes (lineAt c2 key) (BitVec.ofInt 64 (x.toInt + imm.toInt)).toNat (nbytes w))) = .ok c4 :=
  ⟨0, 2, 0x7C, job false lineCore, 0, lineCore, lineCore, _, _, 0, by decide, rfl, by decide, rfl,
   ⟨plainLeaf, 0x10007C, rfl, rfl, rfl, rfl, rfl⟩, Or.inr ⟨rfl, rfl⟩, rfl, rfl⟩

theorem witness_load_answers : ∃ s x c1 v r c3 c4, Unlocked (kind s) (own s) [0] [5] ∧ readX (kind s) (own s) 0 = .ok (x, c1) ∧
    c1.replies = .ok v :: r ∧ writeX (kind s) { c1 with replies := r } 5 (extended 0 false v.toNat) = .ok c3 ∧
    writeX (kind s) (ldnfDone c1 r false) 5 (extended 0 false v.toNat) = .ok c4 :=
  ⟨job false { runner with replies := [.ok 0x80] }, _, _, _, _, _, _, by decide, rfl, rfl, rfl, rfl⟩

theorem witness_load_failure : ∃ s x c1, ∃ t : Trap, ∃ r c4, Unlocked (kind s) (own s) [0] [5] ∧ readX (kind s) (own s) 0 = .ok (x, c1) ∧
    c1.replies = .fail t :: r ∧ (t.cause = .page ∨ t.cause = .perm ∨ t.cause = .cid ∨ t.cause = .remoteLost) ∧
    writeX (kind s) (ldnfDone c1 r true) 5 0#64 = .ok c4 :=
  ⟨job false { runner with replies := [.fail { cause := .cid }] }, _, _, { cause := .cid }, _, _, by decide, rfl, rfl, by decide, rfl⟩

/-- A miss of the TLB, an M page, and a miss of the cache. -/
theorem witness_load_requests :
    (∃ s x c1, Unlocked (kind s) (own s) [0] [5] ∧ readX (kind s) (own s) 0 = .ok (x, c1) ∧ c1.replies = [] ∧
      translate s (kind s) c1 { need := .r, kind := .load } 0x40 = .miss) ∧
    (∃ s x c1 e phys c2, Unlocked (kind s) (own s) [0] [5] ∧ readX (kind s) (own s) 0 = .ok (x, c1) ∧ c1.replies = [] ∧
      translate s (kind s) c1 { need := .r, kind := .load } 0x40 = .ok e phys c2 ∧ unroutable s phys = false ∧ leafM e = true) ∧
    (∃ s x c1 e phys c2 key, Unlocked (kind s) (own s) [0] [5] ∧ readX (kind s) (own s) 0 = .ok (x, c1) ∧ c1.replies = [] ∧
      translate s (kind s) c1 { need := .r, kind := .load } 0x40 = .ok e phys c2 ∧ unroutable s phys = false ∧ leafM e = false ∧
      kind s = .tile ∧ findWay c2 ((ctxOf s c2).getD 0) 0x40 = some key ∧ ¬ hits c2 (lineAt c2 key) 0x40 8) :=
  ⟨⟨job false runner, _, _, by decide, rfl, rfl, rfl⟩, ⟨job false (cached memLeaf []), 0, cached memLeaf [], memLeaf, 0x100040, cached memLeaf [], by decide, rfl, rfl, rfl, rfl, rfl⟩,
   ⟨job false (cached plainLeaf [(0, { fullLine with filled := 1 })]), 0, cached plainLeaf [(0, { fullLine with filled := 1 })],
    plainLeaf, 0x100040, cached plainLeaf [(0, { fullLine with filled := 1 })], 0, by decide, rfl, rfl, rfl, rfl, rfl, rfl, rfl,
    by unfold hits; decide⟩⟩

theorem witness_store :
    (∃ s x v c1 c2, Unlocked (kind s) (own s) [5, 6] [] ∧ readX (kind s) (own s) 5 = .ok (v, c1) ∧ readX (kind s) c1 6 = .ok (x, c2) ∧
      (BitVec.ofInt 64 (x.toInt + (0#14).toInt)).toNat % nbytes 3 ≠ 0) ∧
    (∃ s x v c1 c2 c3 key, Unlocked (kind s) (own s) [5, 0] [] ∧ readX (kind s) (own s) 5 = .ok (v, c1) ∧ readX (kind s) c1 0 = .ok (x, c2) ∧
      c2.replies = [] ∧ lineFound s c2 { need := .w, kind := .store } (BitVec.ofInt 64 (x.toInt + (0x7F#14).toInt)) c3 key) ∧
    (∃ s x v c1 c2 e phys c3, Unlocked (kind s) (own s) [5, 0] [] ∧ readX (kind s) (own s) 5 = .ok (v, c1) ∧ readX (kind s) c1 0 = .ok (x, c2) ∧
      c2.replies = [] ∧ translate s (kind s) c2 { need := .w, kind := .store } (BitVec.ofInt 64 (x.toInt + (0x78#14).toInt)) = .ok e phys c3 ∧
      leafM e = true ∧ unroutable s phys = false) :=
  ⟨⟨job false runner, _, _, _, _, by decide, rfl, rfl, by decide⟩,
   ⟨job false lineCore, 0, 2, lineCore, lineCore, lineCore, 0, by decide, rfl, rfl, rfl, plainLeaf, 0x10007F, rfl, rfl, rfl, rfl, rfl⟩,
   ⟨job false (cached memLeaf []), 0, 2, cached memLeaf [], cached memLeaf [], memLeaf, 0x100078, cached memLeaf [], by decide, rfl, rfl, rfl, rfl, rfl, rfl⟩⟩

/-- JTAB at the last entry, one past it, at a misaligned base, with an answer, a fault and a line. -/
theorem witness_jtab :
    (∃ s x y c1 c2, Unlocked (kind s) (own s) [6, 0] [] ∧ readX (kind s) (own s) 6 = .ok (x, c1) ∧ readX (kind s) c1 0 = .ok (y, c2) ∧
      ¬ standsAtLoopEnd (own s) ∧ x.toNat = (2#8).toNat + 1) ∧
    (∃ s x y c1 c2, Unlocked (kind s) (own s) [6, 5] [] ∧ readX (kind s) (own s) 6 = .ok (x, c1) ∧ readX (kind s) c1 5 = .ok (y, c2) ∧
      ¬ standsAtLoopEnd (own s) ∧ x.toNat = (3#8).toNat ∧ (BitVec.ofNat 64 (y.toNat + 4 * x.toNat)).toNat % 4 ≠ 0) ∧
    (∃ s x y c1 c2 v r, Unlocked (kind s) (own s) [6, 0] [] ∧ readX (kind s) (own s) 6 = .ok (x, c1) ∧ readX (kind s) c1 0 = .ok (y, c2) ∧
      ¬ standsAtLoopEnd (own s) ∧ x.toNat = (3#8).toNat ∧ c2.replies = .ok v :: r ∧ inRange (((own s).pc.toNat : Int) + 4 * (BitVec.ofNat 32 v.toNat).toInt)) ∧
    (∃ s x y c1 c2 v r, Unlocked (kind s) (own s) [6, 0] [] ∧ readX (kind s) (own s) 6 = .ok (x, c1) ∧ readX (kind s) c1 0 = .ok (y, c2) ∧
      ¬ standsAtLoopEnd (own s) ∧ x.toNat = (3#8).toNat ∧ c2.replies = .ok v :: r ∧ ¬ inRange (((own s).pc.toNat : Int) + 4 * (BitVec.ofNat 32 v.toNat).toInt)) ∧
    (∃ s x y c1 c2 c3 key, Unlocked (kind s) (own s) [6, 0] [] ∧ readX (kind s) (own s) 6 = .ok (x, c1) ∧ readX (kind s) c1 0 = .ok (y, c2) ∧
      ¬ standsAtLoopEnd (own s) ∧ x.toNat = (3#8).toNat ∧ c2.replies = [] ∧
      lineFound s c2 { need := .r, kind := .jtab } (BitVec.ofNat 64 (y.toNat + 4 * x.toNat)) c3 key ∧ hits c3 (lineAt c3 key) (y.toNat + 4 * x.toNat) 4) ∧
    (∃ s x y c1 c2 t r, Unlocked (kind s) (own s) [6, 0] [] ∧ readX (kind s) (own s) 6 = .ok (x, c1) ∧ readX (kind s) c1 0 = .ok (y, c2) ∧
      ¬ standsAtLoopEnd (own s) ∧ x.toNat = (3#8).toNat ∧ c2.replies = .fail t :: r) ∧
    (∃ s x y c1 c2, Unlocked (kind s) (own s) [6, 0] [] ∧ readX (kind s) (own s) 6 = .ok (x, c1) ∧ readX (kind s) c1 0 = .ok (y, c2) ∧
      standsAtLoopEnd (own s)) :=
  ⟨⟨job false runner, _, _, _, _, by decide, rfl, rfl, by unfold standsAtLoopEnd; decide, by decide⟩,
   ⟨job false runner, _, _, _, _, by decide, rfl, rfl, by unfold standsAtLoopEnd; decide, by decide, by decide⟩,
   ⟨job false { runner with replies := [.ok 4095] }, _, _, _, _, _, _, by decide, rfl, rfl, by unfold standsAtLoopEnd; decide, by decide, rfl, by unfold inRange; decide⟩,
   ⟨job false { runner with replies := [.ok 4096] }, _, _, _, _, _, _, by decide, rfl, rfl, by unfold standsAtLoopEnd; decide, by decide, rfl, by unfold inRange; decide⟩,
   ⟨job false lineCore, 3, 0, lineCore, lineCore, lineCore, 0, by decide, rfl, rfl, by unfold standsAtLoopEnd; decide, by decide, rfl,
    ⟨plainLeaf, 0x10000C, rfl, rfl, rfl, rfl, rfl⟩, Or.inr ⟨rfl, rfl⟩⟩,
   ⟨job false { runner with replies := [.fail { cause := .page }] }, _, _, _, _, _, _, by decide, rfl, rfl, by unfold standsAtLoopEnd; decide, by decide, rfl⟩,
   ⟨job false atEnd, _, _, _, _, by decide, rfl, rfl, by unfold standsAtLoopEnd; decide⟩⟩

/-- A runner with the tile-space address t in x8. -/
def aims (t : Word) : Core := { runner with x := runner.x.set 8 t }

/-- LDL: misaligned; a tile beyond the gang; a local word at the top of scratch; one beyond it; the undo area of a leg with laps; a remote
tile, asked and answered. -/
theorem witness_ldl :
    (∃ s x c1, Unlocked (kind s) (own s) [6] [5] ∧ readX (kind s) (own s) 6 = .ok (x, c1) ∧
      (BitVec.ofInt 32 (x.toInt + (0#13).toInt)).toNat % 2 ^ 20 % nbytes 3 ≠ 0) ∧
    (∃ s x c1, Unlocked (kind s) (own s) [8] [5] ∧ readX (kind s) (own s) 8 = .ok (x, c1) ∧
      tileDest s s.cur c1 (BitVec.ofInt 32 (x.toInt + (0#13).toInt)) = .bad) ∧
    (∃ s x c1 c2, Unlocked (kind s) (own s) [8] [5] ∧ readX (kind s) (own s) 8 = .ok (x, c1) ∧
      tileDest s s.cur c1 (BitVec.ofInt 32 (x.toInt + (0#13).toInt)) = .here 0xFFFF8 ∧ 0xFFFF8 < scratchSize (kind s) ∧
      undoReserved s (kind s) c1 = false ∧ c1.errInject.getLsbD 0 = false ∧
      scoreConflict c1.score (boundRanges c1.bufs (fun b => b.vis) 0xFFFF8 8) [] = false ∧
      writeX (kind s) c1 5 (extended 3 false (ofBytes ((List.range 8).map fun i => tget c1.scratch 0#8 (visible c1.bufs (0xFFFF8 + i))))) = .ok c2) ∧
    (∃ s x c1, Unlocked (kind s) (own s) [8] [5] ∧ readX (kind s) (own s) 8 = .ok (x, c1) ∧
      tileDest s s.cur c1 (BitVec.ofInt 32 (x.toInt + (0#13).toInt)) = .here 0x40000 ∧ scratchSize (kind s) ≤ 0x40000) ∧
    (∃ s x c1, Unlocked (kind s) (own s) [8] [5] ∧ readX (kind s) (own s) 8 = .ok (x, c1) ∧
      tileDest s s.cur c1 (BitVec.ofInt 32 (x.toInt + (0#13).toInt)) = .here 0xF0000 ∧ undoReserved s (kind s) c1 = true) ∧
    (∃ s x c1, Unlocked (kind s) (own s) [8] [5] ∧ readX (kind s) (own s) 8 = .ok (x, c1) ∧
      tileDest s s.cur c1 (BitVec.ofInt 32 (x.toInt + (0#13).toInt)) = .remote 127 0x10 ∧ undoReserved s (kind s) c1 = false ∧ c1.replies = []) ∧
    (∃ s x c1 v r c2, Unlocked (kind s) (own s) [8] [5] ∧ readX (kind s) (own s) 8 = .ok (x, c1) ∧
      tileDest s s.cur c1 (BitVec.ofInt 32 (x.toInt + (0#13).toInt)) = .remote 127 0x10 ∧ undoReserved s (kind s) c1 = false ∧
      c1.replies = .ok v :: r ∧ writeX (kind s) { c1 with replies := r } 5 (extended 3 false v.toNat) = .ok c2) :=
  ⟨⟨job false runner, 3, runner, by decide, rfl, by decide⟩,
   ⟨job false (aims 0x8000000), 0x8000000, aims 0x8000000, by decide, rfl, rfl⟩,
   ⟨job false (aims 0xFFFF8), 0xFFFF8, aims 0xFFFF8, _, by decide, rfl, rfl, by decide, rfl, rfl, rfl, rfl⟩,
   ⟨{ cores := [(1, aims 0x40000)], cur := .mem 0 }, 0x40000, aims 0x40000, by decide, rfl, rfl, by decide⟩,
   ⟨{ job true (aims 0xF0000) with gangs := [(1, { baton := 0, bytes := 0, inst := 0, first := 0, lanes := 2, ctx := 5, cfg := 0, laps := true })] },
    0xF0000, aims 0xF0000, by decide, rfl, rfl, rfl⟩,
   ⟨job false (aims 0x7F00010), 0x7F00010, aims 0x7F00010, by decide, rfl, rfl, rfl, rfl⟩,
   ⟨job false { aims 0x7F00010 with replies := [.ok 1] }, 0x7F00010, { aims 0x7F00010 with replies := [.ok 1] }, 1, [], _, by decide, rfl, rfl, rfl, rfl, rfl⟩⟩

theorem witness_stl :
    (∃ s x c1, readX (kind s) (own s) 8 = .ok (x, c1) ∧ Unlocked (kind s) (own s) [0, 8] [] ∧ readX (kind s) (own s) 0 = .ok (0, own s) ∧
      (BitVec.ofInt 32 (x.toInt + (1#14).toInt)).toNat % 2 ^ 20 % nbytes 3 ≠ 0) ∧
    (∃ s x c1, readX (kind s) (own s) 8 = .ok (x, c1) ∧ Unlocked (kind s) (own s) [0, 8] [] ∧ readX (kind s) (own s) 0 = .ok (0, own s) ∧
      tileDest s s.cur c1 (BitVec.ofInt 32 (x.toInt + (0#14).toInt)) = .here 0xFFFF8 ∧ 0xFFFF8 < scratchSize (kind s) ∧
      undoReserved s (kind s) c1 = false ∧ scoreConflict c1.score [] (rangesOf ((List.range 8).map fun i => visible c1.bufs (0xFFFF8 + i))) = false ∧
      undoActive s (kind s) c1 = false) ∧
    (∃ s x c1, readX (kind s) (own s) 8 = .ok (x, c1) ∧ Unlocked (kind s) (own s) [0, 8] [] ∧ readX (kind s) (own s) 0 = .ok (0, own s) ∧
      tileDest s s.cur c1 (BitVec.ofInt 32 (x.toInt + (0#14).toInt)) = .remote 127 0x10 ∧ undoReserved s (kind s) c1 = false) :=
  ⟨⟨job false (aims 0x10), 0x10, aims 0x10, rfl, by decide, rfl, by decide⟩,
   ⟨job false (aims 0xFFFF8), 0xFFFF8, aims 0xFFFF8, rfl, by decide, rfl, rfl, by decide, rfl, rfl, rfl⟩,
   ⟨job false (aims 0x7F00010), 0x7F00010, aims 0x7F00010, rfl, by decide, rfl, rfl, rfl⟩⟩

/-- An AMO and a CAS: misaligned, asked with and without a destination, answered. -/
theorem witness_atomics :
    (∃ i op n d a b zero s va x c1 c2, amoForm i = some (op, n, d, a, b, zero) ∧ Unlocked (kind s) (own s) [a, b] [d] ∧
      readX (kind s) (own s) a = .ok (va, c1) ∧ readX (kind s) c1 b = .ok (x, c2) ∧ va.toNat % n ≠ 0) ∧
    (∃ i op n d a b zero s va x c1 c2 e phys c3, amoForm i = some (op, n, d, a, b, zero) ∧ Unlocked (kind s) (own s) [a, b] [d] ∧
      readX (kind s) (own s) a = .ok (va, c1) ∧ readX (kind s) c1 b = .ok (x, c2) ∧ va.toNat % n = 0 ∧ c2.replies = [] ∧
      translate s (kind s) c2 { need := .rw, memSide := true, kind := .atomic } va = .ok e phys c3 ∧ unroutable s phys = false ∧ d ≠ 0#5) ∧
    (∃ i op n d a b zero s va x c1 c2 e phys c3, amoForm i = some (op, n, d, a, b, zero) ∧ Unlocked (kind s) (own s) [a, b] [d] ∧
      readX (kind s) (own s) a = .ok (va, c1) ∧ readX (kind s) c1 b = .ok (x, c2) ∧ va.toNat % n = 0 ∧ c2.replies = [] ∧
      translate s (kind s) c2 { need := .rw, memSide := true, kind := .atomic } va = .ok e phys c3 ∧ unroutable s phys = false ∧ d = 0#5) ∧
    (∃ i op n d a b zero s va x c1 c2 old r c3, amoForm i = some (op, n, d, a, b, zero) ∧ Unlocked (kind s) (own s) [a, b] [d] ∧
      readX (kind s) (own s) a = .ok (va, c1) ∧ readX (kind s) c1 b = .ok (x, c2) ∧ va.toNat % n = 0 ∧ c2.replies = .ok old :: r ∧
      writeX (kind s) { c2 with replies := r } d (oldValue n zero old) = .ok c3) ∧
    (∃ d a b s va x y c1 c2 c3, Unlocked (kind s) (own s) [a, b, d] [d] ∧ readX (kind s) (own s) a = .ok (va, c1) ∧
      readX (kind s) c1 b = .ok (x, c2) ∧ readX (kind s) c2 d = .ok (y, c3) ∧ va.toNat % 8 = 4) ∧
    (∃ d a b s va x y c1 c2 c3 e phys c4, Unlocked (kind s) (own s) [a, b, d] [d] ∧ readX (kind s) (own s) a = .ok (va, c1) ∧
      readX (kind s) c1 b = .ok (x, c2) ∧ readX (kind s) c2 d = .ok (y, c3) ∧ va.toNat % 8 = 0 ∧ c3.replies = [] ∧
      translate s (kind s) c3 { need := .rw, memSide := true, kind := .atomic } va = .ok e phys c4 ∧ unroutable s phys = false) ∧
    (∃ d a b s va x y c1 c2 c3 old r c4, Unlocked (kind s) (own s) [a, b, d] [d] ∧ readX (kind s) (own s) a = .ok (va, c1) ∧
      readX (kind s) c1 b = .ok (x, c2) ∧ readX (kind s) c2 d = .ok (y, c3) ∧ va.toNat % 8 = 0 ∧ c3.replies = .ok old :: r ∧
      writeX (kind s) { c3 with replies := r } d (oldValue 8 false old) = .ok c4) :=
  ⟨⟨.amoAddW 5 6 5, .add, 4, 5, 6, 5, false, job false runner, 3, 2, runner, runner, rfl, by decide, rfl, rfl, by decide⟩,
   ⟨.amoSwapD 5 0 6, .swap, 8, 5, 0, 6, false, job false (cached memLeaf []), 0, 3, cached memLeaf [], cached memLeaf [], memLeaf, 0x100000,
    cached memLeaf [], rfl, by decide, rfl, rfl, by decide, rfl, rfl, rfl, by decide⟩,
   ⟨.amoAddD 0 0 6, .add, 8, 0, 0, 6, false, job false (cached memLeaf []), 0, 3, cached memLeaf [], cached memLeaf [], memLeaf, 0x100000,
    cached memLeaf [], rfl, by decide, rfl, rfl, by decide, rfl, rfl, rfl, rfl⟩,
   ⟨.amoMinnW 5 0 6, .minn, 4, 5, 0, 6, true, job false { runner with replies := [.ok 0xFFFFFFFF] }, 0, 3, { runner with replies := [.ok 0xFFFFFFFF] },
    { runner with replies := [.ok 0xFFFFFFFF] }, 0xFFFFFFFF, [], _, rfl, by decide, rfl, rfl, by decide, rfl, rfl⟩,
   ⟨5, 7, 6, job false runner, -4, 3, 2, runner, runner, runner, by decide, rfl, rfl, rfl, by decide⟩,
   ⟨5, 0, 6, job false (cached memLeaf []), 0, 3, 2, cached memLeaf [], cached memLeaf [], cached memLeaf [], memLeaf, 0x100000, cached memLeaf [],
    by decide, rfl, rfl, rfl, by decide, rfl, rfl, rfl⟩,
   ⟨5, 0, 6, job false { runner with replies := [.ok 9] }, 0, 3, 2, { runner with replies := [.ok 9] }, { runner with replies := [.ok 9] },
    { runner with replies := [.ok 9] }, 9, [], _, by decide, rfl, rfl, rfl, by decide, rfl, rfl⟩⟩

theorem witness_access_frame : ∃ i s t, (accessDest i).isSome = true ∧ exec i s = .next t ∧ (own t).pc = 4 :=
  ⟨.ld 5 0 2 true 0x7C, job false lineCore, _, rfl, rfl, rfl⟩

/-! ### Homes, owners and answers -/

/-- Context 5 with one packet in flight. -/
def sent (p : Packet) : State := { job false runner with net := [p] }

/-- A packet of tile 1 about address 0x100000. -/
def fromOne (k : PacketKind) : Packet := { src := 8, addr := 0x100000, kind := k, ctx := 5 }

/-- Context 5 in lap 4, its undo areas of one chunk each at 0x200000 and 2^47 + 0x200000. -/
def lapped (chunks : List Chunk) : State :=
  { job true runner with contexts := [(5, { laps := true, running := true, resident := true, undoN := 0x200000, undoS := 0x800000200000, undoSize := 0x100000, lapId := 4, chunks := chunks })] }

theorem witness_earlier_packet : ∃ s : State, ∃ p q : Packet, ∃ j, s.net[s.pick]? = some p ∧ j < s.pick ∧ s.net[j]? = some q ∧ q.src = p.src ∧
    ((atHome q.kind = true ∧ atHome p.kind = true ∧ q.addr / 32 = p.addr / 32) ∨ (∃ d, destOf q.kind = some d ∧ destOf p.kind = some d)) :=
  ⟨{ job false runner with net := [fromOne (.load 8 memLeaf), fromOne (.store 1 7 memLeaf 0)], pick := 1 },
   fromOne (.store 1 7 memLeaf 0), fromOne (.load 8 memLeaf), 0, rfl, by decide, rfl, rfl, Or.inl ⟨rfl, rfl, rfl⟩⟩

theorem witness_memside_access :
    (∃ s p n e, picked s = some p ∧ p.kind = .load n e ∧ p.addr < windowBase ∧ poisonedAt s p.addr n = false ∧
      ∀ k, agentOf p.src = .mem k → (coreOf s (.mem k)).errInject.getLsbD 0 = false) ∧
    (∃ s p n v e va, picked s = some p ∧ p.kind = .store n v e va ∧ p.addr < windowBase ∧ chunksWithin s p.ctx ∧ leafL e = false ∧
      leafD e = false) ∧
    (∃ s p n v e va, picked s = some p ∧ p.kind = .store n v e va ∧ p.addr < windowBase ∧ chunksWithin s p.ctx ∧ leafD e = true) :=
  ⟨⟨sent (fromOne (.load 8 memLeaf)), fromOne (.load 8 memLeaf), 8, memLeaf, rfl, rfl, by decide, rfl, fun k h => by have e : Agent.tile 1 = .mem k := h; cases e⟩,
   ⟨sent (fromOne (.store 4 7 memLeaf 0)), fromOne (.store 4 7 memLeaf 0), 4, 7, memLeaf, 0, rfl, rfl, by decide,
    fun h hh => (by cases hh), rfl, rfl⟩,
   ⟨sent (fromOne (.store 4 7 (memLeaf ||| (1#128 <<< 54)) 0)), fromOne (.store 4 7 (memLeaf ||| (1#128 <<< 54)) 0), 4, 7, _, 0, rfl, rfl,
    by decide, fun h hh => (by cases hh), rfl⟩⟩

/-- An atomic whose largest operand is met, one that stores and a CAS that does not. -/
theorem witness_home_atomic :
    (∃ s p op n x cmp ret e va v, picked s = some p ∧ p.kind = .atomic op n x cmp ret e va ∧ (n = 4 ∨ n = 8) ∧ x.toNat = 2 ^ (8 * n) - 1 ∧
      p.addr < windowBase ∧ poisonedAt s p.addr n = false ∧ chunksWithin s p.ctx ∧
      newValue op n (memRead s p.addr n) x.toNat cmp.toNat = some v ∧ leafD e = false ∧ ret = true) ∧
    (∃ s p op n x cmp ret e va, picked s = some p ∧ p.kind = .atomic op n x cmp ret e va ∧ (n = 4 ∨ n = 8) ∧ x.toNat < 2 ^ (8 * n) ∧
      p.addr < windowBase ∧ poisonedAt s p.addr n = false ∧ chunksWithin s p.ctx ∧
      newValue op n (memRead s p.addr n) x.toNat cmp.toNat = none) :=
  ⟨⟨sent (fromOne (.atomic .add 4 0xFFFFFFFF 0 true memLeaf 0)), fromOne (.atomic .add 4 0xFFFFFFFF 0 true memLeaf 0), .add, 4, 0xFFFFFFFF, 0, true,
    memLeaf, 0, 0xFFFFFFFF, rfl, rfl, Or.inl rfl, rfl, by decide, rfl, fun h hh => (by cases hh), rfl, rfl, rfl⟩,
   ⟨sent (fromOne (.atomic .cas 8 1 7 true memLeaf 0)), fromOne (.atomic .cas 8 1 7 true memLeaf 0), .cas, 8, 1, 7, true, memLeaf, 0, rfl, rfl,
    Or.inr rfl, by decide, by decide, rfl, fun h hh => (by cases hh), rfl⟩⟩

theorem witness_fill_and_write_back :
    (∃ s p line sector e, picked s = some p ∧ p.kind = .fill line sector e) ∧
    (∃ s p mask data e, picked s = some p ∧ p.kind = .writeBack mask data e ∧ leafD e = false ∧ leafL e = true ∧ chunksWithin s p.ctx ∧
      mask.getLsbD 0 = true ∧ mask.getLsbD 31 = true ∧ mask.getLsbD 1 = false ∧ inUndoArea s p.ctx 0x200000) :=
  ⟨⟨sent (fromOne (.fill 0 3 plainLeaf)), fromOne (.fill 0 3 plainLeaf), 0, 3, plainLeaf, rfl, rfl⟩,
   ⟨{ lapped [{ mc := 0, south := false, index := 0, lap := 4 }] with net := [fromOne (.writeBack 0x80000001 5 (plainLeaf ||| (1#128 <<< 53)))] },
    fromOne (.writeBack 0x80000001 5 (plainLeaf ||| (1#128 <<< 53))), 0x80000001, 5, _, rfl, rfl, rfl, rfl,
    fun h hh => (by cases hh with | head => decide | tail _ hh => cases hh), rfl, rfl, rfl, Or.inl (by unfold within; decide)⟩⟩

theorem witness_first_write_of_a_lap :
    (∃ s x addr, (contextOf s x).laps = true ∧ pkgOf addr = s.ownPkg ∧
      tget s.lapTags 0#2 (addr / 32) ≠ BitVec.ofNat 2 ((contextOf s x).lapId.toNat % 3 + 1) ∧
      ∃ i, i < (contextOf s x).undoSize / 0x100000 ∧ ∀ h ∈ (contextOf s x).chunks, ¬ (h.south = bitAt addr 47 ∧ h.index = i)) ∧
    (∃ s x, (contextOf s x).laps = false) ∧
    (∃ s x addr, (contextOf s x).laps = true ∧ tget s.lapTags 0#2 (addr / 32) = BitVec.ofNat 2 ((contextOf s x).lapId.toNat % 3 + 1)) :=
  ⟨⟨lapped [], 5, 0x100000, rfl, rfl, by decide, 0, by decide, fun h hh => by cases hh⟩, ⟨job false runner, 5, rfl⟩,
   ⟨{ lapped [] with lapTags := [(0x8000, 2)] }, 5, 0x100000, rfl, rfl⟩⟩

theorem witness_answers :
    (∃ s p dst r, picked s = some p ∧ p.kind = .reply dst r) ∧
    (∃ s p dst line sector data, picked s = some p ∧ p.kind = .fillReply dst line sector data false ∧ sector = 3 ∧
      (coreOf s (agentOf dst)).errInject.getLsbD 0 = false ∧ leafV (lineAt (coreOf s (agentOf dst)) line).leaf = true ∧
      (lineAt (coreOf s (agentOf dst)) line).phys + 32 * sector = p.addr) ∧
    (∃ s p dst, picked s = some p ∧ p.kind = .refusal dst) ∧ (∃ s p dst va, picked s = some p ∧ p.kind = .lost dst va) :=
  ⟨⟨sent (fromOne (.reply 0 (.ok 5))), fromOne (.reply 0 (.ok 5)), 0, .ok 5, rfl, rfl⟩,
   ⟨{ job false lineCore with net := [{ fromOne (.fillReply 0 0 3 9 false) with addr := 0x100060 }] },
    { fromOne (.fillReply 0 0 3 9 false) with addr := 0x100060 }, 0, 0, 3, 9, rfl, rfl, rfl, rfl, rfl, rfl⟩,
   ⟨sent (fromOne (.refusal 0)), fromOne (.refusal 0), 0, rfl, rfl⟩, ⟨sent (fromOne (.lost 0 64)), fromOne (.lost 0 64), 0, 64, rfl, rfl⟩⟩

/-- A window of bytes 0x100 to 0x107 for tiles 0 and 1: its first word, its last, and one byte past it; a core without windows. -/
theorem witness_remote_access :
    (∀ o ∈ [0x100, 0x104], windowAllows { runner with win := #v[0xC000000000000100, 0x100000107, 0, 0, 0, 0, 0, 0] } 0 false o 4 1) ∧
    (∃ s p dst store n v, picked s = some p ∧ p.kind = .remote dst store n v ∧ store = false ∧
      ∃ i, windowAllows (coreOf s (agentOf dst)) i store (p.addr % 2 ^ 20) n (gangIndex s (agentOf p.src))) ∧
    (∃ s p dst store n v, picked s = some p ∧ p.kind = .remote dst store n v ∧ store = true ∧
      undoActive s (agentKind (agentOf dst)) (coreOf s (agentOf dst)) = false ∧
      ∃ i, windowAllows (coreOf s (agentOf dst)) i store (p.addr % 2 ^ 20) n (gangIndex s (agentOf p.src))) ∧
    (∃ s p dst store n v, picked s = some p ∧ p.kind = .remote dst store n v ∧ store = false ∧
      ¬ ∃ i, windowAllows (coreOf s (agentOf dst)) i store (p.addr % 2 ^ 20) n (gangIndex s (agentOf p.src))) ∧
    (∃ s p dst store n v, picked s = some p ∧ p.kind = .remote dst store n v ∧ store = true ∧
      ¬ ∃ i, windowAllows (coreOf s (agentOf dst)) i store (p.addr % 2 ^ 20) n (gangIndex s (agentOf p.src))) :=
  have ok : ∀ store, ∃ i, windowAllows { runner with win := #v[0xC000000000000100, 0x100000107, 0, 0, 0, 0, 0, 0] } i store 0x100 4 1 :=
    fun store => ⟨0, by unfold windowAllows; revert store; decide⟩
  have no : ∀ store o, ¬ ∃ i, windowAllows runner i store o 4 1 := fun store o => by
    rintro ⟨i, h, -⟩; revert h; revert i store; decide
  ⟨by unfold windowAllows; decide,
   ⟨{ job false { runner with win := #v[0xC000000000000100, 0x100000107, 0, 0, 0, 0, 0, 0] } with
        cores := [(0, { runner with win := #v[0xC000000000000100, 0x100000107, 0, 0, 0, 0, 0, 0] }), (8, runner)],
        net := [{ src := 8, addr := 0x100, kind := .remote 0 false 4 0 }] }, { src := 8, addr := 0x100, kind := .remote 0 false 4 0 }, 0, false, 4, 0,
    rfl, rfl, rfl, ok false⟩,
   ⟨{ job false { runner with win := #v[0xC000000000000100, 0x100000107, 0, 0, 0, 0, 0, 0] } with
        cores := [(0, { runner with win := #v[0xC000000000000100, 0x100000107, 0, 0, 0, 0, 0, 0] }), (8, runner)],
        net := [{ src := 8, addr := 0x100, kind := .remote 0 true 4 7 }] }, { src := 8, addr := 0x100, kind := .remote 0 true 4 7 }, 0, true, 4, 7,
    rfl, rfl, rfl, rfl, ok true⟩,
   ⟨{ job false runner with cores := [(0, runner), (8, runner)], net := [{ src := 8, addr := 0x100, kind := .remote 0 false 4 0 }] },
    { src := 8, addr := 0x100, kind := .remote 0 false 4 0 }, 0, false, 4, 0, rfl, rfl, rfl, no false _⟩,
   ⟨{ job false runner with cores := [(0, runner), (8, runner)], net := [{ src := 8, addr := 0x100, kind := .remote 0 true 4 7 }] },
    { src := 8, addr := 0x100, kind := .remote 0 true 4 7 }, 0, true, 4, 7, rfl, rfl, rfl, no true _⟩⟩

/-- A message to a core with room, and to one with a full queue of 16; a miss; fills with a valid and an invalid entry. -/
theorem witness_messages_and_fills :
    (∃ s p dst m, picked s = some p ∧ p.kind = .message dst m ∧ dst % 8 ≠ 7 ∧ p.src % 8 ≠ 7 ∧ agentOf p.src ≠ agentOf dst ∧
      (coreOf s (agentOf dst)).recvq.length = 15 ∧ agentKind (agentOf dst) = .tile) ∧
    (∃ s p dst m, picked s = some p ∧ p.kind = .message dst m ∧ dst % 8 ≠ 7 ∧
      (if agentKind (agentOf dst) = .supervisor then 256 else 16) ≤ (coreOf s (agentOf dst)).recvq.length) ∧
    (∃ s p dst m, picked s = some p ∧ p.kind = .miss dst m ∧ (coreOf s (agentOf dst)).recvq.length < 256 ∧
      agentKind (agentOf dst) = .supervisor) ∧
    (∃ s p m leaf, picked s = some p ∧ p.kind = .tlbFill m leaf ∧ m.kind ≠ .streamRead ∧ m.kind ≠ .streamWrite ∧ leafV leaf = true ∧
      (coreOf s (agentOf m.req)).wait = .tlbMiss) ∧
    (∃ s p m leaf, picked s = some p ∧ p.kind = .tlbFill m leaf ∧ m.kind ≠ .streamRead ∧ m.kind ≠ .streamWrite ∧ leafV leaf = false ∧
      (coreOf s (agentOf m.req)).wait = .tlbMiss) :=
  ⟨⟨{ job false { runner with recvq := List.replicate 15 (.message ⟨0, 0⟩) } with net := [fromOne (.message 0 ⟨1, 2⟩)] }, fromOne (.message 0 ⟨1, 2⟩), 0,
    ⟨1, 2⟩, rfl, rfl, by decide, by decide, by decide, rfl, rfl⟩,
   ⟨{ job false { runner with recvq := List.replicate 16 (.message ⟨0, 0⟩) } with net := [fromOne (.message 0 ⟨1, 2⟩)] }, fromOne (.message 0 ⟨1, 2⟩), 0,
    ⟨1, 2⟩, rfl, rfl, by decide, by decide⟩,
   ⟨sent (fromOne (.miss 2 ⟨0, 64, 5, 0, .load, 0, false⟩)), fromOne (.miss 2 ⟨0, 64, 5, 0, .load, 0, false⟩), 2, ⟨0, 64, 5, 0, .load, 0, false⟩, rfl, rfl, by decide, rfl⟩,
   ⟨{ job false { runner with wait := .tlbMiss, blocked := true } with net := [fromOne (.tlbFill ⟨0, 64, 5, 0, .load, 0, false⟩ plainLeaf)] },
    fromOne (.tlbFill ⟨0, 64, 5, 0, .load, 0, false⟩ plainLeaf), ⟨0, 64, 5, 0, .load, 0, false⟩, plainLeaf, rfl, rfl, by decide, by decide, rfl, rfl⟩,
   ⟨{ job false { runner with wait := .tlbMiss, blocked := true } with net := [fromOne (.tlbFill ⟨0, 64, 5, 0, .load, 0, false⟩ 0)] },
    fromOne (.tlbFill ⟨0, 64, 5, 0, .load, 0, false⟩ 0), ⟨0, 64, 5, 0, .load, 0, false⟩, 0, rfl, rfl, by decide, by decide, rfl, rfl⟩⟩

/-! ### System registers, fences, cache and TLB control -/

/-- The translation service core 0 steps, its core c. -/
def serviceWith (c : Core) : State := { cores := [(2, c)], cur := .svc 0 }

/-- MFS of the first and last numbers of each group; of 0x400 by a program and by the supervisor; of numbers R54 does not list. -/
theorem witness_mfs :
    (∀ sr ∈ [0x000, 0x001, 0x006, 0x010, 0x014, 0x020, 0x021, 0x030, 0x037, 0x040, 0x041, 0x060, 0x062],
      (sysValue (job false runner) sr).isSome = true) ∧
    (∃ v c', sysValue (job false runner) 0x001 = some v ∧ Unlocked .tile runner [] [5] ∧ writeX .tile runner 5 v = .ok c') ∧
    (∃ s, kind s ≠ .supervisor) ∧ (∀ sr ∈ [0x007, 0x015, 0x038, 0x042, 0x063, 0x3FF], sysValue (job false runner) sr = none) ∧
    (∃ s c', kind s = .supervisor ∧ Unlocked (kind s) (own s) [] [5] ∧ writeX (kind s) (own s) 5 (own s).errInject = .ok c') :=
  ⟨by decide +kernel, ⟨_, _, rfl, by decide, rfl⟩, ⟨job false runner, by decide⟩, by decide +kernel, ⟨serviceWith runner, _, rfl, by decide, rfl⟩⟩

/-- MTS of every register a program may write; lease_run at 0, 1, 64 and 65. -/
theorem witness_mts :
    (∀ sr ∈ [0x010, 0x013, 0x014, 0x021, 0x030, 0x031, 0x037, 0x040], (sysWritten runner sr 1).isSome = true) ∧
    (∃ s x c1 c2, Unlocked (kind s) (own s) [5] [] ∧ readX (kind s) (own s) 5 = .ok (x, c1) ∧ sysWritten c1 0x010 x = some c2) ∧
    (∀ sr ∈ [0x000, 0x020, 0x041, 0x062, 0x3FF], sysWritten runner sr 0 = none) ∧
    (∀ n, kind (serviceWith (aims n)) = .supervisor ∧ Unlocked (kind (serviceWith (aims n))) (own (serviceWith (aims n))) [8] [] ∧
      readX (kind (serviceWith (aims n))) (own (serviceWith (aims n))) 8 = .ok (n, aims n)) :=
  ⟨by decide +kernel, ⟨job false runner, 2, runner, { runner with trapVec := 2 }, by decide, rfl, rfl⟩, by decide +kernel,
   fun n => ⟨rfl, ⟨fun r hr _ => by simp only [List.mem_cons, List.not_mem_nil, or_false] at hr; subst hr; exact ⟨rfl, rfl⟩, fun r hr => by cases hr⟩, rfl⟩⟩

/-- A remote store, a store to this package and an access to another package make a FENCE of scope 1, 2 and 3 wait, not one below. -/
theorem witness_fence :
    (∃ s, fenceWaits s 1) ∧ (∃ s, fenceWaits s 2) ∧ (∃ s, fenceWaits s 3) ∧ (∃ s, ¬ fenceWaits s 3 ∧ (own s).lost = []) ∧
    (∃ s l r, ¬ fenceWaits s 0 ∧ (own s).lost = l :: r) :=
  ⟨⟨sent { src := 0, addr := 0, kind := .remote 8 true 4 0 }, _, .head _, rfl, Or.inl ⟨by decide, Or.inl ⟨8, 4, 0, rfl⟩⟩⟩,
   ⟨sent { src := 0, addr := 0x100000, kind := .store 4 0 memLeaf 0 }, _, .head _, rfl,
    Or.inr (Or.inl ⟨by decide, Or.inl rfl, Or.inl ⟨4, 0, memLeaf, 0, rfl, by decide⟩⟩)⟩,
   ⟨sent { src := 0, addr := 0x1000000100000, kind := .store 4 0 memLeaf 0 }, _, .head _, rfl,
    Or.inr (Or.inr ⟨by decide, Or.inr ⟨Or.inl (Or.inl ⟨4, 0, memLeaf, 0, rfl⟩), by decide, by decide⟩⟩)⟩,
   ⟨job false runner, fun ⟨p, h, _⟩ => (by cases h), rfl⟩,
   ⟨job false { runner with lost := [64] }, 64, [], fun ⟨p, h, _⟩ => (by cases h), rfl⟩⟩

theorem witness_idle : (∃ s, (own s).recvq ≠ []) ∧ (∃ s, (own s).pend ≠ []) ∧ (∃ s : State, (∃ i, s.cur = .starter i) ∧ s.starter.notices ≠ []) ∧
    (∃ s, (own s).recvq = [] ∧ (own s).pend = [] ∧ ((∃ i, s.cur = .starter i) → s.starter.notices = [])) :=
  ⟨⟨tileWith { runner with recvq := [.message ⟨0, 0⟩] }, by decide⟩, ⟨tileWith { runner with pend := [{ cause := .brk }] }, by decide⟩,
   ⟨{ cur := .starter 0, starter := { notices := [{ serial := 1, bytes := 0 }] } }, ⟨0, rfl⟩, by decide⟩, ⟨tileWith runner, rfl, rfl, fun _ => rfl⟩⟩

/-- The line of address 0 with byte 0 dirty. -/
def dirtyLine : Line := { fullLine with dirty := 1 }

theorem witness_write_back_all :
    (∃ s, (own s).gen ≠ 255#8 ∧ (own s).gen ≠ 127#8) ∧
    (∃ s, (own s).lines ≠ [] ∧ (∀ e ∈ (own s).lines, e.2.dirty = 0#128) ∧ ¬ writeBackOpen s none) ∧
    (∃ s, ∃ e ∈ (own s).lines, e.2.dirty ≠ 0#128) ∧ (∃ s, writeBackOpen s none) :=
  ⟨⟨job false runner, by decide⟩, ⟨job false lineCore, by decide, by decide, fun ⟨p, h, _⟩ => by cases h⟩,
   ⟨job false (cached plainLeaf [(0, dirtyLine)]), by decide⟩,
   ⟨sent { src := 0, addr := 0x100000, kind := .writeBack 1 0 plainLeaf }, _, .head _, rfl, ⟨1, 0, plainLeaf, rfl⟩, fun _ h => by cases h⟩⟩

/-- CINV and CFLUSH: a clean line, a dirty line, an M page, a page without read permission. -/
theorem witness_cache_lines :
    (∃ a s va c1 c2 key, Unlocked (kind s) (own s) [a] [] ∧ readX (kind s) (own s) a = .ok (va, c1) ∧ c1.replies = [] ∧
      lineFound s c1 { need := .r } va c2 key) ∧
    (∃ a s va c1 e phys c2 key, Unlocked (kind s) (own s) [a] [] ∧ readX (kind s) (own s) a = .ok (va, c1) ∧ c1.replies = [] ∧
      translate s (kind s) c1 { need := .r } va = .ok e phys c2 ∧ leafM e = false ∧ kind s = .tile ∧
      findWay c2 ((ctxOf s c2).getD 0) va.toNat = some key ∧ (lineAt c2 key).dirty = 0#128 ∧ ¬ writeBackOpen s (some (phys / 128))) ∧
    (∃ a s va c1 e phys c2 key, Unlocked (kind s) (own s) [a] [] ∧ readX (kind s) (own s) a = .ok (va, c1) ∧ c1.replies = [] ∧
      translate s (kind s) c1 { need := .r } va = .ok e phys c2 ∧ leafM e = false ∧ kind s = .tile ∧
      findWay c2 ((ctxOf s c2).getD 0) va.toNat = some key ∧ (∃ p ∈ lineWriteBacks s.cur (lineAt c2 key), p.addr / 128 = phys / 128)) ∧
    (∃ a s va c1 e phys c2, Unlocked (kind s) (own s) [a] [] ∧ readX (kind s) (own s) a = .ok (va, c1) ∧ c1.replies = [] ∧
      translate s (kind s) c1 { need := .r } va = .ok e phys c2 ∧ leafM e = true) ∧
    (∃ a s va c1 x, Unlocked (kind s) (own s) [a] [] ∧ readX (kind s) (own s) a = .ok (va, c1) ∧ c1.replies = [] ∧
      translate s (kind s) c1 { need := .r } va = .fail x ∧ x ≠ .deadlock) :=
  ⟨⟨0, job false lineCore, 0, lineCore, lineCore, 0, by decide, rfl, rfl, plainLeaf, 0x100000, rfl, rfl, rfl, rfl, rfl⟩,
   ⟨0, job false lineCore, 0, lineCore, plainLeaf, 0x100000, lineCore, 0, by decide, rfl, rfl, rfl, rfl, rfl, rfl, rfl, fun ⟨p, h, _⟩ => by cases h⟩,
   ⟨0, job false (cached plainLeaf [(0, dirtyLine)]), 0, cached plainLeaf [(0, dirtyLine)], plainLeaf, 0x100000, cached plainLeaf [(0, dirtyLine)], 0,
    by decide, rfl, rfl, rfl, rfl, rfl, rfl, by decide⟩,
   ⟨0, job false (cached memLeaf []), 0, cached memLeaf [], memLeaf, 0x100000, cached memLeaf [], by decide, rfl, rfl, rfl, rfl⟩,
   ⟨0, job false (cached (1#128 <<< 48) []), 0, cached (1#128 <<< 48) [], .perm, by decide, rfl, rfl, rfl, by decide⟩⟩

theorem witness_tlb_control :
    (∃ s, kind s ≠ .supervisor) ∧
    (∃ a b s x y c1 c2, kind s = .supervisor ∧ Unlocked (kind s) (own s) [a, b] [] ∧ readX (kind s) (own s) a = .ok (x, c1) ∧
      readX (kind s) c1 b = .ok (y, c2) ∧ c2.fillTarget = none) ∧
    (∃ a b s x y c1 c2 m, kind s = .supervisor ∧ Unlocked (kind s) (own s) [a, b] [] ∧ readX (kind s) (own s) a = .ok (x, c1) ∧
      readX (kind s) c1 b = .ok (y, c2) ∧ c2.fillTarget = some m ∧ fillable (y ++ x) m.va) ∧
    (∃ a b s x y c1 c2 m, kind s = .supervisor ∧ Unlocked (kind s) (own s) [a, b] [] ∧ readX (kind s) (own s) a = .ok (x, c1) ∧
      readX (kind s) c1 b = .ok (y, c2) ∧ c2.fillTarget = some m ∧ ¬ fillable (y ++ x) m.va) ∧
    (∃ a s va, kind s = .supervisor ∧ Unlocked (kind s) (own s) [a] [] ∧ readX (kind s) (own s) a = .ok (va, own s) ∧
      (own s).wait ≠ .step ∧ fillsOpen s (agentCode s.cur) = false ∧ (own s).tlb = [] ∧ (s.cores.map (·.1)).Nodup ∧
      throughOpen (invalidateTlbs s (a == 0#5) va.toNat) (a == 0#5) va.toNat = false) :=
  ⟨⟨job false runner, by decide⟩, ⟨5, 6, serviceWith runner, 2, 3, runner, runner, rfl, by decide, rfl, rfl, rfl⟩,
   ⟨0, 0, serviceWith { runner with fillTarget := some ⟨0, 64, 5, 0, .load, 0, false⟩ }, 0, 0, { runner with fillTarget := some ⟨0, 64, 5, 0, .load, 0, false⟩ },
    { runner with fillTarget := some ⟨0, 64, 5, 0, .load, 0, false⟩ }, ⟨0, 64, 5, 0, .load, 0, false⟩, rfl, by decide, rfl, rfl, rfl, by unfold fillable; decide⟩,
   ⟨0, 7, serviceWith { runner with fillTarget := some ⟨0, 64, 5, 0, .load, 0, false⟩ }, 0, -4, { runner with fillTarget := some ⟨0, 64, 5, 0, .load, 0, false⟩ },
    { runner with fillTarget := some ⟨0, 64, 5, 0, .load, 0, false⟩ }, ⟨0, 64, 5, 0, .load, 0, false⟩, rfl, by decide, rfl, rfl, rfl, by unfold fillable; decide⟩,
   ⟨8, { cores := [(0, lineCore), (2, aims 0x1000)], cur := .svc 0 }, 0x1000, rfl, by decide, rfl, by decide, rfl, rfl, by decide,
    by decide +kernel⟩⟩

theorem witness_system_frame : ∃ i s t, (∃ d sr, i = .mfs d sr) ∧ exec i s = .next t ∧ (own t).pc = 4 :=
  ⟨.mfs 5 2, job false runner, _, ⟨5, 2, rfl⟩, rfl, rfl⟩

/-! ### The matrix block -/

/-- Tile 0 steps as c; quad 0 is q. -/
def quadWith (q : Quad) (c : Core) : State := { tileWith c with quads := [(0, q)] }

/-- A quad whose lease its tile 0 holds. -/
def heldQuad : Quad := { holder := 0, held := true, lease := #v[.holding, .none, .none, .none] }

/-- The same in a gang whose leg runs laps. -/
def lapQuad (c : Core) : State :=
  { quadWith heldQuad c with gangs := [(1, { baton := 0, bytes := 0, inst := 0, first := 0, lanes := 2, ctx := 5, cfg := 0, laps := true })], contexts := [(5, { laps := true, running := true })] }

/-- The descriptor of an MMA of depth 1 over one element, and of one over 128 rows and columns. -/
def mmaDesc : Nat := 2 ^ 144

/-- A runner with the bytes of a descriptor at scratch offset 0. -/
def described (d : Nat) : Core := { runner with scratch := ((List.range 32).map fun i => (i, BitVec.ofNat 8 (d / 256 ^ i))).filter fun e => e.2 != 0#8 }

theorem witness_matrix_acceptance :
    (∃ a s m x c1 d, mayCommand s m ∧ Unlocked (kind s) (own s) [a] [] ∧ readX (kind s) (own s) a = .ok (x, c1) ∧
      descriptorAt s c1 x 32 d ∧
      undoReserved s (kind s) c1 = false ∧ mmaPasses d ((((quadRec s m).cells[tileInQuad m]?).getD none).isSome) (2 ^ 20) ∧
      (∀ e ∈ mmaEntries s (tileQuad m) (BitVec.ofNat 256 d) (quadRec s m).next, (quadCore s (tileQuad m) e.1).score.length < 16 ∧
        scoreConflict (quadCore s (tileQuad m) e.1).score e.2.reads e.2.write = false) ∧ ∀ i, i < 4 → (quadCore s (tileQuad m) i).score = []) ∧
    (∃ a s m x c1 d, mayCommand s m ∧ Unlocked (kind s) (own s) [a] [] ∧ readX (kind s) (own s) a = .ok (x, c1) ∧
      descriptorAt s c1 x 32 d ∧ undoReserved s (kind s) c1 = false ∧ drainPasses d (2 ^ 20) ∧
      (∀ e ∈ drEntries s (tileQuad m) (BitVec.ofNat 256 d) (quadRec s m).next, (quadCore s (tileQuad m) e.1).score.length < 16 ∧
        scoreConflict (quadCore s (tileQuad m) e.1).score e.2.reads e.2.write = false) ∧ ∀ i, i < 4 → (quadCore s (tileQuad m) i).score = []) ∧
    (∃ a s m x c1 d, mayCommand s m ∧ Unlocked (kind s) (own s) [a] [] ∧ readX (kind s) (own s) a = .ok (x, c1) ∧
      descriptorAt s c1 x 32 d ∧ undoReserved s (kind s) c1 = true ∧ mmaPasses d ((((quadRec s m).cells[tileInQuad m]?).getD none).isSome) 0xF0000 ∧
      regionFault s (kind s) c1 (tileQuad m) visible (regionA (BitVec.ofNat 256 d) ++ regionB (BitVec.ofNat 256 d)) = none ∧
      admits s (tileQuad m) (mmaEntries s (tileQuad m) (BitVec.ofNat 256 d) (quadRec s m).next) = true) ∧
    (∃ a s m x c1 d, mayCommand s m ∧ Unlocked (kind s) (own s) [a] [] ∧ readX (kind s) (own s) a = .ok (x, c1) ∧
      descriptorAt s c1 x 32 d ∧ undoReserved s (kind s) c1 = true ∧ drainPasses d 0xF0000 ∧
      regionFault s (kind s) c1 (tileQuad m) shadow (regionD (BitVec.ofNat 256 d)) = none ∧
      admits s (tileQuad m) (drEntries s (tileQuad m) (BitVec.ofNat 256 d) (quadRec s m).next) = true) ∧
    (∃ a s m x c1 d, mayCommand s m ∧ Unlocked (kind s) (own s) [a] [] ∧ readX (kind s) (own s) a = .ok (x, c1) ∧
      descriptorAt s c1 x 16 d ∧ cellPasses d) ∧
    (∃ s m, s.cur = .tile m ∧ leaseOf (quadRec s m) (tileInQuad m) = .none) ∧
    (∃ s m, s.cur = .tile m ∧ leaseOf (quadRec s m) (tileInQuad m) = .holding ∧ (quadRec s m).queue.length = 8) :=
  ⟨⟨0, quadWith heldQuad (described mmaDesc), 0, 0, described mmaDesc, mmaDesc, ⟨rfl, rfl, by decide, Or.inl (by decide)⟩, by decide +kernel, rfl,
    ⟨rfl, rfl, rfl, by decide +kernel⟩, rfl, by unfold mmaPasses mmaRefused endsWithin; decide +kernel, by decide +kernel, by decide⟩,
   ⟨0, quadWith heldQuad runner, 0, 0, runner, 0, ⟨rfl, rfl, by decide, Or.inl (by decide)⟩, by decide, rfl, ⟨rfl, rfl, rfl, by decide +kernel⟩,
    rfl, by unfold drainPasses drainRefused endsWithin; decide +kernel, by decide +kernel, by decide⟩,
   ⟨0, lapQuad (described mmaDesc), 0, 0, described mmaDesc, mmaDesc, ⟨rfl, rfl, by decide, Or.inl (by decide)⟩, by decide +kernel, rfl,
    ⟨rfl, rfl, rfl, by decide +kernel⟩, by decide +kernel, by unfold mmaPasses mmaRefused endsWithin; decide +kernel, by decide +kernel, by decide +kernel⟩,
   ⟨0, lapQuad runner, 0, 0, runner, 0, ⟨rfl, rfl, by decide, Or.inl (by decide)⟩, by decide, rfl, ⟨rfl, rfl, rfl, by decide +kernel⟩,
    by decide +kernel, by unfold drainPasses drainRefused endsWithin; decide +kernel, by decide +kernel, by decide +kernel⟩,
   ⟨0, quadWith heldQuad (described 1), 0, 0, described 1, 1, ⟨rfl, rfl, by decide, Or.inl (by decide)⟩, by decide +kernel, rfl,
    ⟨rfl, rfl, rfl, by decide +kernel⟩, by unfold cellPasses; decide⟩,
   ⟨quadWith {} runner, 0, rfl, rfl⟩,
   ⟨quadWith { heldQuad with queue := List.replicate 8 { serial := 0, kind := .mzero, issuer := 0, desc := 0, bound := [], cell := none } } runner, 0,
    rfl, rfl, rfl⟩⟩

/-- Each kind of refusal of R154, and a descriptor that shows none: M and N of 128 and of 129, an unaligned base and stride. -/
theorem witness_mma_checks :
    (∃ a s m x c1, s.cur = .tile m ∧ leaseOf (quadRec s m) (tileInQuad m) = .holding ∧ Unlocked (kind s) (own s) [a] [] ∧
      readX (kind s) (own s) a = .ok (x, c1) ∧ x.toNat % 2 ^ 20 % 32 ≠ 0) ∧
    (∃ a s m x c1 d, s.cur = .tile m ∧ leaseOf (quadRec s m) (tileInQuad m) = .holding ∧ Unlocked (kind s) (own s) [a] [] ∧
      readX (kind s) (own s) a = .ok (x, c1) ∧ d < 2 ^ 256 ∧ descriptorAt s c1 x 32 d ∧ mmaRefused d false) ∧
    (∃ a s m x c1 d, s.cur = .tile m ∧ leaseOf (quadRec s m) (tileInQuad m) = .holding ∧ Unlocked (kind s) (own s) [a] [] ∧
      readX (kind s) (own s) a = .ok (x, c1) ∧ d < 2 ^ 256 ∧ descriptorAt s c1 x 32 d ∧ ¬ mmaRefused d false ∧ d / 2 ^ 128 % 2 ^ 8 = 128) ∧
    (∃ a s m x c1 d, s.cur = .tile m ∧ leaseOf (quadRec s m) (tileInQuad m) = .holding ∧ Unlocked (kind s) (own s) [a] [] ∧
      readX (kind s) (own s) a = .ok (x, c1) ∧ d < 2 ^ 256 ∧ descriptorAt s c1 x 32 d ∧ ¬ mmaRefused d false ∧
      d / 2 ^ 128 % 2 ^ 8 = 127 ∧ d / 2 ^ 136 % 2 ^ 8 = 127 ∧ d % 16 ≠ 0) ∧
    (∃ a s m x c1 d, s.cur = .tile m ∧ leaseOf (quadRec s m) (tileInQuad m) = .holding ∧ Unlocked (kind s) (own s) [a] [] ∧
      readX (kind s) (own s) a = .ok (x, c1) ∧ d < 2 ^ 256 ∧ descriptorAt s c1 x 32 d ∧ ¬ mmaRefused d false ∧
      d / 2 ^ 128 % 2 ^ 8 ≤ 127 ∧ d / 2 ^ 136 % 2 ^ 8 ≤ 127 ∧ d % 16 = 0 ∧ d / 2 ^ 32 % 16 ≠ 0) :=
  ⟨⟨5, quadWith heldQuad runner, 0, 2, runner, rfl, rfl, by decide, rfl, by decide⟩,
   ⟨0, quadWith heldQuad runner, 0, 0, runner, 0, rfl, rfl, by decide, rfl, by decide, ⟨rfl, rfl, rfl, by decide +kernel⟩, by unfold mmaRefused; decide⟩,
   ⟨0, quadWith heldQuad (described (mmaDesc + 2 ^ 135)), 0, 0, _, mmaDesc + 2 ^ 135, rfl, rfl, by decide +kernel, rfl, by decide,
    ⟨rfl, rfl, rfl, by decide +kernel⟩, by unfold mmaRefused; decide, by decide⟩,
   ⟨0, quadWith heldQuad (described (mmaDesc + 127 * 2 ^ 128 + 127 * 2 ^ 136 + 8)), 0, 0, _, mmaDesc + 127 * 2 ^ 128 + 127 * 2 ^ 136 + 8, rfl, rfl,
    by decide +kernel, rfl, by decide, ⟨rfl, rfl, rfl, by decide +kernel⟩, by unfold mmaRefused; decide, by decide, by decide, by decide⟩,
   ⟨0, quadWith heldQuad (described (mmaDesc + 2 ^ 35)), 0, 0, _, mmaDesc + 2 ^ 35, rfl, rfl, by decide +kernel, rfl, by decide,
    ⟨rfl, rfl, rfl, by decide +kernel⟩, by unfold mmaRefused; decide, by decide, by decide, by decide, by decide⟩⟩

/-- A begun command of a kind that is the quad's only one. -/
def command (k : CommandKind) (d : BitVec 256) (begun : Bool) : Command := { serial := 0, kind := k, issuer := 0, desc := d, bound := [], cell := none, begun := begun }

theorem witness_matrix_completion :
    (∃ s quad idx c, completable s quad idx c ∧ c.kind = .mma ∧ ¬ mmaRefused c.desc.toNat c.cell.isSome ∧ descField c 128 8 = 127 ∧
      descField c 136 8 = 127) ∧
    (∃ s quad idx c, completable s quad idx c ∧ c.kind = .mzero) ∧ (∃ s quad idx c, completable s quad idx c ∧ c.kind = .mcell) ∧
    (∃ s quad idx c, completable s quad idx c ∧ c.kind = .mdrain ∧ c.step = 0 ∧ descField c 64 8 = 127 ∧ descField c 72 8 = 127 ∧
      (∀ k, k < 4 → undoActive s .tile (quadCore s quad k) = false) ∧ descField c 89 1 = 0) ∧
    (∃ s quad idx c, (quadOf s quad).queue[idx]? = some c ∧ c.begun = false ∧ blockStopped s quad c = false ∧ (∀ p ∈ (quadOf s quad).queue.take idx, holdsBack p c = false)) :=
  have only : ∀ k d, let s := quadWith { heldQuad with queue := [command k d true] } runner
      (∀ i, i < 4 → (quadCore s 0 i).marks = []) ∧ blockStopped s 0 (command k d true) = false → completable s 0 0 (command k d true) :=
    fun k d h => ⟨rfl, rfl, ⟨rfl, h.1⟩, h.2, fun p h => by cases h⟩
  ⟨⟨_, 0, 0, _, only .mma (127 <<< 128 ||| 127 <<< 136 ||| 1 <<< 144) (by decide +kernel), rfl, by unfold mmaRefused; decide, by decide, by decide⟩, ⟨_, 0, 0, _, only .mzero 1 (by decide +kernel), rfl⟩,
   ⟨_, 0, 0, _, only .mcell 1 (by decide +kernel), rfl⟩, ⟨_, 0, 0, _, only .mdrain (127 <<< 64 ||| 127 <<< 72) (by decide +kernel), rfl, rfl, by decide, by decide, by decide +kernel, by decide⟩,
   ⟨quadWith { heldQuad with queue := [command .mzero 1 false] } runner, 0, 0, command .mzero 1 false, rfl, rfl, by decide +kernel, fun p h => by cases h⟩⟩

/-- A drain of one element in a leg that logs, with room for its record and without. -/
theorem witness_drain_logs :
    (∃ s quad idx c, completable s quad idx c ∧ c.kind = .mdrain ∧ c.step = 0 ∧ (∀ k, k < 4 → undoActive s .tile (quadCore s quad k) = true →
        ∀ o ∈ drainBytes c k, o < 0xF0000) ∧ undoActive s .tile (quadCore s quad 0) = true ∧ firstWritten s .tile (quadCore s quad 0) (drainBytes c 0) = [0] ∧
      ∀ k, k < 4 → ¬ undoStalls (quadCore s quad k) (firstWritten s .tile (quadCore s quad k) (drainBytes c k))) ∧
    (∃ s quad idx c, completable s quad idx c ∧ c.kind = .mdrain ∧ c.step = 0 ∧ (∀ k, k < 4 → undoActive s .tile (quadCore s quad k) = true →
        ∀ o ∈ drainBytes c k, o < 0xF0000) ∧ ∃ k, k < 4 ∧ undoStalls (quadCore s quad k) (firstWritten s .tile (quadCore s quad k) (drainBytes c k))) :=
  have only : ∀ u, let s : State := { lapQuad { runner with undoFill := u } with quads := [(0, { heldQuad with queue := [command .mdrain 0 true] })] }
      (∀ i, i < 4 → (quadCore s 0 i).marks = []) ∧ blockStopped s 0 (command .mdrain 0 true) = false → completable s 0 0 (command .mdrain 0 true) :=
    fun u h => ⟨rfl, rfl, ⟨rfl, h.1⟩, h.2, fun p h => by cases h⟩
  ⟨⟨_, 0, 0, _, only 0xFFC0 (by decide +kernel), rfl, rfl, by decide +kernel, by decide +kernel, by decide +kernel, by unfold undoStalls; decide +kernel⟩,
   ⟨_, 0, 0, _, only 0x10000 (by decide +kernel), rfl, rfl, by decide +kernel, 0, by decide, by unfold undoStalls; decide +kernel⟩⟩

/-- MLEASE and MREL of a holder and of another core, MWAIT with and without a command of its own, a grant to the next core and to the fourth. -/
theorem witness_lease :
    (∃ s m, s.cur = .tile m ∧ leaseOf (quadRec s m) (tileInQuad m) = .holding ∧ ∀ c ∈ (quadRec s m).queue, c.issuer ≠ tileInQuad m) ∧
    (∃ s m, s.cur = .tile m ∧ leaseOf (quadRec s m) (tileInQuad m) ≠ .holding) ∧
    (∃ s m, s.cur = .tile m ∧ ∃ c ∈ (quadRec s m).queue, c.issuer = tileInQuad m) ∧
    (∃ s quad, (quadOf s quad).held = false ∧ leaseOf (quadOf s quad) (((quadOf s quad).holder + 1) % 4) = .waiting) ∧
    (∃ s quad, (quadOf s quad).held = false ∧ leaseOf (quadOf s quad) (((quadOf s quad).holder + 4) % 4) = .waiting ∧
      ∀ j, 1 ≤ j → j < 4 → leaseOf (quadOf s quad) (((quadOf s quad).holder + j) % 4) ≠ .waiting) ∧
    (∃ s quad, (quadOf s quad).held = true) :=
  ⟨⟨quadWith heldQuad runner, 0, rfl, rfl, fun c h => by cases h⟩, ⟨quadWith {} runner, 0, rfl, by decide⟩,
   ⟨quadWith { heldQuad with queue := [command .mzero 1 false] } runner, 0, rfl, by decide⟩,
   ⟨quadWith { lease := #v[.waiting, .none, .none, .none] } runner, 0, rfl, by decide⟩,
   ⟨quadWith { lease := #v[.none, .none, .none, .waiting] } runner, 0, rfl, by decide, by decide⟩, ⟨quadWith heldQuad runner, 0, rfl⟩⟩

/-! ### Clauses of translation failures, first writes of a lap, and what comes late -/

/-- A page that may not be read, and a page of package 1, to which no port leads. -/
def noReadLeaf : Leaf := (5#128 <<< 48) ||| (0x100#128 <<< 64)
def farLeaf : Leaf := plainLeaf ||| (1#128 <<< 108)

/-- LD, ST, JTAB and CFLUSH fail in translation, with a cause that LDNF suppresses; an entry leads to a package that no port leads to. -/
theorem witness_translation_failures :
    (∃ s x c1 c4, Unlocked (kind s) (own s) [0] [5] ∧ readX (kind s) (own s) 0 = .ok (x, c1) ∧ c1.replies = [] ∧
      translate s (kind s) c1 { need := .r, kind := .load } 0x40 = .fail .perm ∧ writeX (kind s) (ldnfDone c1 [] true) 5 0#64 = .ok c4) ∧
    (∃ s x c1 e phys c2 c4, Unlocked (kind s) (own s) [0] [5] ∧ readX (kind s) (own s) 0 = .ok (x, c1) ∧ c1.replies = [] ∧
      translate s (kind s) c1 { need := .r, kind := .load } 0x40 = .ok e phys c2 ∧ unroutable s phys = true ∧
      writeX (kind s) (ldnfDone c2 [] true) 5 0#64 = .ok c4) ∧
    (∃ s x y c1 c2, Unlocked (kind s) (own s) [6, 0] [] ∧ readX (kind s) (own s) 6 = .ok (x, c1) ∧ readX (kind s) c1 0 = .ok (y, c2) ∧
      ¬ standsAtLoopEnd (own s) ∧ x.toNat = (3#8).toNat ∧ c2.replies = [] ∧
      translate s (kind s) c2 { need := .r, kind := .jtab } (BitVec.ofNat 64 (y.toNat + 4 * x.toNat)) = .fail .perm) ∧
    (∃ s x y c1 c2 e phys c3, Unlocked (kind s) (own s) [6, 0] [] ∧ readX (kind s) (own s) 6 = .ok (x, c1) ∧ readX (kind s) c1 0 = .ok (y, c2) ∧
      ¬ standsAtLoopEnd (own s) ∧ x.toNat = (3#8).toNat ∧ c2.replies = [] ∧
      translate s (kind s) c2 { need := .r, kind := .jtab } (BitVec.ofNat 64 (y.toNat + 4 * x.toNat)) = .ok e phys c3 ∧ unroutable s phys = true) ∧
    (∃ s c1, Unlocked (kind s) (own s) [0] [] ∧ readX (kind s) (own s) 0 = .ok (0, c1) ∧ c1.replies = [] ∧ (∀ l, (own s).wait ≠ .flush l) ∧
      translate s (kind s) c1 { need := .r } 0 = .fail .perm) ∧
    (∃ s x v c1 c2, Unlocked (kind s) (own s) [5, 0] [] ∧ readX (kind s) (own s) 5 = .ok (v, c1) ∧ readX (kind s) c1 0 = .ok (x, c2) ∧
      c2.replies = [] ∧ translate s (kind s) c2 { need := .w, kind := .store } (BitVec.ofInt 64 (x.toInt + (0#14).toInt)) = .fail .remoteLost) :=
  ⟨⟨job false (cached noReadLeaf []), 0, cached noReadLeaf [], _, by decide, rfl, rfl, rfl, rfl⟩,
   ⟨job false (cached farLeaf []), 0, cached farLeaf [], farLeaf, 2 ^ 48 + 0x100040, cached farLeaf [], _, by decide, rfl, rfl, rfl, rfl, rfl⟩,
   ⟨job false (cached noReadLeaf []), 3, 0, cached noReadLeaf [], cached noReadLeaf [], by decide, rfl, rfl, by unfold standsAtLoopEnd; decide, rfl, rfl, rfl⟩,
   ⟨job false (cached farLeaf []), 3, 0, cached farLeaf [], cached farLeaf [], farLeaf, 2 ^ 48 + 0x10000C, cached farLeaf [], by decide, rfl, rfl,
    by unfold standsAtLoopEnd; decide, rfl, rfl, rfl, rfl⟩,
   ⟨job false (cached noReadLeaf []), cached noReadLeaf [], by decide, rfl, rfl, fun l h => (by cases h), rfl⟩,
   ⟨job false (cached (farLeaf ||| (1#128 <<< 119)) []), 0, 2, cached (farLeaf ||| (1#128 <<< 119)) [], cached (farLeaf ||| (1#128 <<< 119)) [], by decide, rfl, rfl,
    rfl, rfl⟩⟩

/-- Context 5 runs laps, and so does the leg of its gang 1, whose tile 0 is c. -/
def logging (c : Core) : State :=
  { tileWith c with
    gangs := [(1, { baton := 0, bytes := 0, inst := 0, first := 0, lanes := 2, ctx := 5, cfg := 0, laps := true })],
    contexts := [(5, { laps := true, running := true, resident := true, lapId := 4 })] }

/-- STL with its undo area to be spilled, in a handler without room, with room for its last record, and of a sector logged before. -/
theorem witness_stl_logs :
    (∃ s x c1, readX (kind s) (own s) 8 = .ok (x, c1) ∧ Unlocked (kind s) (own s) [0, 8] [] ∧ readX (kind s) (own s) 0 = .ok (0, own s) ∧
      tileDest s s.cur c1 (BitVec.ofInt 32 (x.toInt + (0#14).toInt)) = .here 0x10 ∧ inScratch s c1 0x10 8 ∧
      scoreConflict c1.score [] (rangesOf (seen c1 0x10 8)) = false ∧ noUndoRoom c1 (firstWritten s (kind s) c1 (seen c1 0x10 8)) ∧
      c1.inHandler = false ∧ c1.undoFill = 0xE000) ∧
    (∃ s x c1, readX (kind s) (own s) 8 = .ok (x, c1) ∧ Unlocked (kind s) (own s) [0, 8] [] ∧ readX (kind s) (own s) 0 = .ok (0, own s) ∧
      tileDest s s.cur c1 (BitVec.ofInt 32 (x.toInt + (0#14).toInt)) = .here 0x10 ∧ inScratch s c1 0x10 8 ∧
      noUndoRoom c1 (firstWritten s (kind s) c1 (seen c1 0x10 8)) ∧ c1.inHandler = true ∧ c1.undoFill = 0x10000) ∧
    (∃ s x c1, readX (kind s) (own s) 8 = .ok (x, c1) ∧ Unlocked (kind s) (own s) [0, 8] [] ∧ readX (kind s) (own s) 0 = .ok (0, own s) ∧
      tileDest s s.cur c1 (BitVec.ofInt 32 (x.toInt + (0#14).toInt)) = .here 0x10 ∧ inScratch s c1 0x10 8 ∧
      ¬ noUndoRoom c1 (firstWritten s (kind s) c1 (seen c1 0x10 8)) ∧ c1.inHandler = true ∧ c1.undoFill = 0xFFC0) ∧
    (∃ s x c1, readX (kind s) (own s) 8 = .ok (x, c1) ∧ Unlocked (kind s) (own s) [0, 8] [] ∧ readX (kind s) (own s) 0 = .ok (0, own s) ∧
      tileDest s s.cur c1 (BitVec.ofInt 32 (x.toInt + (0#14).toInt)) = .here 0x10 ∧ inScratch s c1 0x10 8 ∧
      firstWritten s (kind s) c1 (seen c1 0x10 8) = [] ∧ undoActive s (kind s) c1 = true) ∧
    (∃ s x c1, readX (kind s) (own s) 8 = .ok (x, c1) ∧ Unlocked (kind s) (own s) [0, 8] [] ∧ readX (kind s) (own s) 0 = .ok (0, own s) ∧
      tileDest s s.cur c1 (BitVec.ofInt 32 (x.toInt + (0#14).toInt)) = .here 0xEFFF8 ∧ inScratch s c1 0xEFFF8 8 ∧ undoReserved s (kind s) c1 = true) ∧
    (∃ s x c1, readX (kind s) (own s) 8 = .ok (x, c1) ∧ Unlocked (kind s) (own s) [0, 8] [] ∧ readX (kind s) (own s) 0 = .ok (0, own s) ∧
      tileDest s s.cur c1 (BitVec.ofInt 32 (x.toInt + (0#14).toInt)) = .here 0xF0000 ∧ ¬ inScratch s c1 0xF0000 8) :=
  ⟨⟨logging { aims 0x10 with undoFill := 0xE000 }, 0x10, { aims 0x10 with undoFill := 0xE000 }, rfl, by decide, rfl, rfl,
    by unfold inScratch; decide, by decide, by unfold noUndoRoom; decide, rfl, rfl⟩,
   ⟨logging { aims 0x10 with undoFill := 0x10000, inHandler := true }, 0x10, { aims 0x10 with undoFill := 0x10000, inHandler := true }, rfl, by decide, rfl, rfl,
    by unfold inScratch; decide, by unfold noUndoRoom; decide, rfl, rfl⟩,
   ⟨logging { aims 0x10 with undoFill := 0xFFC0, inHandler := true }, 0x10, { aims 0x10 with undoFill := 0xFFC0, inHandler := true }, rfl, by decide, rfl, rfl,
    by unfold inScratch; decide, by unfold noUndoRoom; decide, rfl, rfl⟩,
   ⟨logging { aims 0x10 with logged := [0] }, 0x10, { aims 0x10 with logged := [0] }, rfl, by decide, rfl, rfl, by unfold inScratch; decide, by decide, by decide⟩,
   ⟨logging (aims 0xEFFF8), 0xEFFF8, aims 0xEFFF8, rfl, by decide, rfl, rfl, by unfold inScratch; decide, by decide⟩,
   ⟨logging (aims 0xF0000), 0xF0000, aims 0xF0000, rfl, by decide, rfl, rfl, by unfold inScratch; decide⟩⟩

/-- A runner with the window 0x100 to 0x107 for tiles 0 and 1. -/
def windowed : Core := { runner with win := #v[0xC000000000000100, 0x100000107, 0, 0, 0, 0, 0, 0] }

/-- A remote store that is logged, at an owner with room and at one whose area is full, and one led into the undo area. -/
theorem witness_remote_logs :
    (∃ s p dst n v, picked s = some p ∧ p.kind = .remote dst true n v ∧
      (∃ i, windowAllows (coreOf s (agentOf dst)) i true (p.addr % 2 ^ 20) n (gangIndex s (agentOf p.src))) ∧
      ¬ intoUndo s (agentOf dst) (p.addr % 2 ^ 20) n ∧ undoStalls (coreOf s (agentOf dst))
        (firstWritten s (agentKind (agentOf dst)) (coreOf s (agentOf dst)) (seen (coreOf s (agentOf dst)) (p.addr % 2 ^ 20) n))) ∧
    (∃ s p dst n v, picked s = some p ∧ p.kind = .remote dst true n v ∧
      (∃ i, windowAllows (coreOf s (agentOf dst)) i true (p.addr % 2 ^ 20) n (gangIndex s (agentOf p.src))) ∧
      ¬ intoUndo s (agentOf dst) (p.addr % 2 ^ 20) n ∧ undoActive s (agentKind (agentOf dst)) (coreOf s (agentOf dst)) = true ∧ ¬ undoStalls (coreOf s (agentOf dst))
        (firstWritten s (agentKind (agentOf dst)) (coreOf s (agentOf dst)) (seen (coreOf s (agentOf dst)) (p.addr % 2 ^ 20) n))) :=
  have ok : ∀ c : Core, c.win = windowed.win → ∃ i, windowAllows c i true 0x100 4 1 := fun c h => ⟨0, by unfold windowAllows; rw [h]; decide⟩
  ⟨⟨{ logging runner with cores := [(0, { windowed with undoFill := 0x10000 }), (8, runner)], net := [{ src := 8, addr := 0x100, kind := .remote 0 true 4 7 }] }, { src := 8, addr := 0x100, kind := .remote 0 true 4 7 }, 0, 4, 7, rfl, rfl,
    ok _ rfl, by unfold intoUndo; decide, by unfold undoStalls; decide⟩,
   ⟨{ logging runner with cores := [(0, { windowed with undoFill := 0xFFC0 }), (8, runner)], net := [{ src := 8, addr := 0x100, kind := .remote 0 true 4 7 }] }, { src := 8, addr := 0x100, kind := .remote 0 true 4 7 }, 0, 4, 7, rfl, rfl,
    ok _ rfl, by unfold intoUndo; decide, by decide, by unfold undoStalls; decide⟩⟩

/-- A write-back to a package that no port leads to; reports for a core that has finished, and of an access whose gang has left its lanes; a message
behind a refusal; a fill for an access that is gone. -/
theorem witness_late_packets :
    (∃ s p mask data e, picked s = some p ∧ p.kind = .writeBack mask data e ∧ ¬ reaches s e ∧ p.rel = none) ∧
    (∃ s p dst va, picked s = some p ∧ p.kind = .lost dst va ∧ p.rel = none ∧ (coreOf s (agentOf dst)).mode = .finished) ∧
    (∃ s p dst va, picked s = some p ∧ p.kind = .lost dst va ∧ p.rel = some 3 ∧ (coreOf s (agentOf dst)).mode = .running) ∧
    (∃ s p dst m, picked s = some p ∧ p.kind = .message dst m ∧ dst % 8 ≠ 7 ∧ behindRefusal s p dst) ∧
    (∃ s p m leaf, picked s = some p ∧ p.kind = .tlbFill m leaf ∧ m.dead = true ∧ m.kind ≠ .streamRead ∧ m.kind ≠ .streamWrite) :=
  ⟨⟨sent (fromOne (.writeBack 1 5 (farLeaf ||| (1#128 <<< 119)))), fromOne (.writeBack 1 5 (farLeaf ||| (1#128 <<< 119))), 1, 5, _, rfl, rfl,
    by unfold reaches; decide, rfl⟩,
   ⟨{ job false { runner with mode := .finished } with net := [fromOne (.lost 0 64)] }, fromOne (.lost 0 64), 0, 64, rfl, rfl, rfl, rfl⟩,
   ⟨sent { fromOne (.lost 0 64) with rel := some 3 }, { fromOne (.lost 0 64) with rel := some 3 }, 0, 64, rfl, rfl, rfl, rfl⟩,
   ⟨{ job false runner with cores := [(0, runner), (8, runner)], net := [{ src := 8, addr := 0x10, kind := .refusal 8 }, fromOne (.message 0 ⟨1, 2⟩)], pick := 1 },
    fromOne (.message 0 ⟨1, 2⟩), 0, ⟨1, 2⟩, rfl, rfl, by decide, { src := 8, addr := 0x10, kind := .refusal 8 }, by decide, rfl, ⟨8, rfl⟩, rfl⟩,
   ⟨sent (fromOne (.tlbFill ⟨0, 64, 5, 0, .load, 0, true⟩ plainLeaf)), fromOne (.tlbFill ⟨0, 64, 5, 0, .load, 0, true⟩ plainLeaf), ⟨0, 64, 5, 0, .load, 0, true⟩, plainLeaf,
    rfl, rfl, rfl, by decide, by decide⟩⟩

/-- CFLUSH with a dirty line, and one that waits, with its write-backs away and home. -/
theorem witness_flush_waits :
    (∃ s c2 phys key, Unlocked (kind s) (own s) [0] [] ∧ readX (kind s) (own s) 0 = .ok (0, own s) ∧ (own s).replies = [] ∧
      translate s (kind s) (own s) { need := .r } 0 = .ok plainLeaf phys c2 ∧ kind s = .tile ∧ findWay c2 ((ctxOf s c2).getD 0) 0 = some key ∧
      (∀ l, (own s).wait ≠ .flush l) ∧ ∃ p ∈ lineWriteBacks s.cur (lineAt c2 key), p.addr / 128 = phys / 128) ∧
    (∃ s, Unlocked (kind s) (own s) [0] [] ∧ readX (kind s) (own s) 0 = .ok (0, own s) ∧ (own s).replies = [] ∧
      (own s).wait = .flush 0x2000 ∧ ¬ writeBackOpen s (some 0x2000)) ∧
    (∃ s, Unlocked (kind s) (own s) [0] [] ∧ readX (kind s) (own s) 0 = .ok (0, own s) ∧ (own s).replies = [] ∧
      (own s).wait = .flush 0x2000 ∧ writeBackOpen s (some 0x2000)) :=
  ⟨⟨job false (cached plainLeaf [(0, { fullLine with dirty := 1 })]), cached plainLeaf [(0, { fullLine with dirty := 1 })], 0x100000, 0, by decide, rfl, rfl, rfl, rfl,
    rfl, fun l h => (by cases h), by decide⟩,
   ⟨job false { runner with wait := .flush 0x2000 }, by decide, rfl, rfl, rfl, fun ⟨p, h, _⟩ => by cases h⟩,
   ⟨{ job false { runner with wait := .flush 0x2000 } with net := [{ src := 0, addr := 0x100000, kind := .writeBack 1 5 plainLeaf, ctx := 5 }] }, by decide, rfl, rfl, rfl,
    _, .head _, rfl, ⟨1, 5, plainLeaf, rfl⟩, fun a h => by cases h; rfl⟩⟩

/-! ### The vector family -/

/-- A tile's core whose inbound FIFO of direction N on the vector plane holds one word. -/
def vectorPort : Core := { runner with fifoB := [(0, [7])] }

theorem witness_elementwise :
    (∃ i e s vs c1, vectorInteger i = some e ∧ readVs (kind s) (own s) e.srcs = .ok (vs, c1)) ∧
    (∃ i e s vs c1, vectorInteger i = some e ∧ readVs (kind s) (own s) e.srcs = .ok (vs, c1) ∧ isPort (kind s) e.dest = true ∧
      ∀ j, j < e.n → (readP (own s) e.pred).getLsbD j = false) ∧
    (∃ i e s vs c1, vectorFloat i = some e ∧ readVs (kind s) (own s) e.srcs = .ok (vs, c1)) ∧
    (∃ i e s vs c1, vectorConvert i = some e ∧ readVs (kind s) (own s) e.srcs = .ok (vs, c1)) ∧
    (∃ s x y c1, readVs (kind s) (own s) [1, 2] = .ok ([x, y], c1)) :=
  ⟨⟨.vadd .s8 0 3 28 2, _, tileWith vectorPort, [7, 0], _, rfl, rfl⟩,
   ⟨.vadd .s8 1 29 1 2, _, tileWith runner, [0, 0], runner, rfl, rfl, rfl, fun j _ => by show (0#128).getLsbD j = false; simp⟩,
   ⟨.vfmaF32 0 3 1 2 4, _, tileWith runner, [0, 0, 0], runner, rfl, rfl⟩, ⟨.vcvtF32E4m3 .rtz true false 0 3 1, _, tileWith runner, [0], runner, rfl, rfl⟩,
   ⟨tileWith runner, 0, 0, runner, rfl⟩⟩

theorem witness_vector_moves :
    (∃ i p d a f ident s x c1, reduction i = some (p, d, a, f, ident) ∧ readV (kind s) (own s) a = .ok (x, c1)) ∧
    (∃ s x c1, Unlocked (kind s) (own s) [5] [] ∧ readX (kind s) (own s) 5 = .ok (x, c1)) ∧
    (∃ s x y c1 c2, Unlocked (kind s) (own s) [5] [6] ∧ readV (kind s) (own s) 1 = .ok (x, c1) ∧ readX (kind s) c1 5 = .ok (y, c2)) ∧
    (∃ s x y c1 c2, Unlocked (kind s) (own s) [5, 6] [] ∧ readX (kind s) (own s) 5 = .ok (x, c1) ∧ readX (kind s) c1 6 = .ok (y, c2)) ∧
    (∃ d s, isPort (kind s) d = true) ∧ (∃ d s, isPort (kind s) d = false ∧ scalarBusy (own s) d = false) :=
  ⟨⟨.vrmax 0 3 1, 0, 3, 1, _, _, tileWith runner, 0, runner, rfl, rfl⟩, ⟨tileWith runner, 2, runner, by decide, rfl⟩,
   ⟨tileWith runner, 0, 2, runner, runner, by decide, rfl, rfl⟩, ⟨tileWith runner, 2, 3, runner, runner, by decide, rfl, rfl⟩,
   ⟨28, tileWith runner, rfl⟩, ⟨5, tileWith runner, rfl, rfl⟩⟩

/-- PFIRST of a predicate with bit 0 set, with bit 127 alone, and with none. -/
theorem witness_pfirst : ∀ q ∈ [(1#128, 0), (1#128 <<< 127, 127), (0#128, 128)],
    (∀ j, j < q.2 → q.1.getLsbD j = false) ∧ (q.2 < 128 → q.1.getLsbD q.2 = true) := by
  decide +kernel

/-- A tile of a leg with laps, its context not one that logs. -/
def lapsLeg (c : Core) : State :=
  { job false c with gangs := [(1, { baton := 0, bytes := 0, inst := 0, first := 0, lanes := 2, ctx := 5, cfg := 0, laps := true })] }

/-- VLD and VST at the last line of scratch, misaligned, at the undo area of a leg with laps, and just below it; VLDB likewise. -/
theorem witness_vector_scratch :
    (∃ s x c1, Unlocked (kind s) (own s) [8] [] ∧ readX (kind s) (own s) 8 = .ok (x, c1) ∧ (((x.toNat : Int) + 128 * (0#13).toInt) % 2 ^ 20).toNat % 128 = 4) ∧
    (∃ s x c1, Unlocked (kind s) (own s) [8] [] ∧ readX (kind s) (own s) 8 = .ok (x, c1) ∧
      (((x.toNat : Int) + 128 * (0#13).toInt) % 2 ^ 20).toNat = 0xFFF80 ∧ localBound s (kind s) c1 0xFFF80 128 = none ∧
      scoreConflict c1.score (boundRanges c1.bufs (fun b => b.vis) 0xFFF80 128) [] = false ∧ c1.errInject.getLsbD 0 = false) ∧
    (∃ s x c1, Unlocked (kind s) (own s) [8] [] ∧ readX (kind s) (own s) 8 = .ok (x, c1) ∧
      (((x.toNat : Int) + 128 * (0#13).toInt) % 2 ^ 20).toNat = 0xF0000 ∧ localBound s (kind s) c1 0xF0000 128 ≠ none) ∧
    (∃ s x c1, Unlocked (kind s) (own s) [8] [] ∧ readX (kind s) (own s) 8 = .ok (x, c1) ∧
      (((x.toNat : Int) + 128 * (0#13).toInt) % 2 ^ 20).toNat = 0xEFF80 ∧ localBound s (kind s) c1 0xEFF80 128 = none) ∧
    (∃ s x c1, Unlocked (kind s) (own s) [8] [] ∧ readX (kind s) (own s) 8 = .ok (x, c1) ∧ x.toNat % 2 ^ 20 = 0xFFFFC ∧
      localBound s (kind s) c1 0xFFFFC 4 = none ∧ scoreConflict c1.score (boundRanges c1.bufs (fun b => b.vis) 0xFFFFC 4) [] = false) ∧
    (∃ s x v c1 c2, Unlocked (kind s) (own s) [8] [] ∧ readV (kind s) (own s) 1 = .ok (v, c1) ∧ readX (kind s) c1 8 = .ok (x, c2) ∧
      (((x.toNat : Int) + 128 * (0#14).toInt) % 2 ^ 20).toNat = 0xFFF80 ∧ localBound s (kind s) c2 0xFFF80 128 = none ∧
      ¬ noUndoRoom c2 (firstWritten s (kind s) c2 (seen c2 0xFFF80 128)) ∧
      scoreConflict c2.score [] (rangesOf ((List.range 128).map fun j => visible c2.bufs (0xFFF80 + j))) = false ∧
      ∀ j k, j < 128 → k < 128 → visible c2.bufs (0xFFF80 + j) = visible c2.bufs (0xFFF80 + k) → j = k) :=
  have free : ∀ t o, visible (aims t).bufs o = o := fun t o => rfl
  ⟨⟨tileWith (aims 4), 4, aims 4, by decide, rfl, by decide⟩,
   ⟨tileWith (aims 0xFFF80), 0xFFF80, aims 0xFFF80, by decide, rfl, by decide, rfl, by decide +kernel, rfl⟩,
   ⟨lapsLeg (aims 0xF0000), 0xF0000, aims 0xF0000, by decide, rfl, by decide, by decide⟩,
   ⟨lapsLeg (aims 0xEFF80), 0xEFF80, aims 0xEFF80, by decide, rfl, by decide, rfl⟩,
   ⟨tileWith (aims 0xFFFFC), 0xFFFFC, aims 0xFFFFC, by decide, rfl, by decide, rfl, by decide +kernel⟩,
   ⟨tileWith (aims 0xFFF80), 0xFFF80, 0, aims 0xFFF80, aims 0xFFF80, by decide, rfl, rfl, by decide, rfl, by unfold noUndoRoom; decide, by decide +kernel,
    fun j k _ _ h => by simp only [free] at h; omega⟩⟩

/-- VST and VSTX whose undo area is to be spilled first. -/
theorem witness_vector_logs :
    (∃ s x v c1 c2, Unlocked (kind s) (own s) [8] [] ∧ readV (kind s) (own s) 1 = .ok (v, c1) ∧ readX (kind s) c1 8 = .ok (x, c2) ∧
      (((x.toNat : Int) + 128 * (0#14).toInt) % 2 ^ 20).toNat = 0x80 ∧ localBound s (kind s) c2 0x80 128 = none ∧
      scoreConflict c2.score [] (rangesOf (seen c2 0x80 128)) = false ∧ noUndoRoom c2 (firstWritten s (kind s) c2 (seen c2 0x80 128))) ∧
    (∃ s w v x c1 c2 c3, Unlocked (kind s) (own s) [8] [] ∧ readV (kind s) (own s) 2 = .ok (w, c1) ∧ readV (kind s) c1 1 = .ok (v, c2) ∧
      readX (kind s) c2 8 = .ok (x, c3) ∧ (readP (own s) 1).getLsbD 0 = true ∧
      let ps := ((List.range 32).filter fun j => (readP (own s) 1).getLsbD j).flatMap fun j => seen c3 ((x.toNat + lane v 32 j) % 2 ^ 20) 4
      (∀ j, j < 32 → (readP (own s) 1).getLsbD j = true → (x.toNat + lane v 32 j) % 2 ^ 20 % 4 = 0 ∧
        localBound s (kind s) c3 ((x.toNat + lane v 32 j) % 2 ^ 20) 4 = none) ∧
      scoreConflict c3.score [] (rangesOf ps) = false ∧ noUndoRoom c3 (firstWritten s (kind s) c3 ps)) :=
  ⟨⟨logging { aims 0x80 with undoFill := 0xE000 }, 0x80, 0, { aims 0x80 with undoFill := 0xE000 }, { aims 0x80 with undoFill := 0xE000 }, by decide, rfl, rfl,
    by decide, rfl, by decide +kernel, by unfold noUndoRoom; decide +kernel⟩,
   ⟨logging { aims 8 with p := #v[0, 1, 0, 0, 0, 0, 0, 0], undoFill := 0xE000 }, 0, 0, 8, { aims 8 with p := #v[0, 1, 0, 0, 0, 0, 0, 0], undoFill := 0xE000 },
    { aims 8 with p := #v[0, 1, 0, 0, 0, 0, 0, 0], undoFill := 0xE000 }, { aims 8 with p := #v[0, 1, 0, 0, 0, 0, 0, 0], undoFill := 0xE000 }, by decide, rfl, rfl, rfl, by decide,
    by decide +kernel, by decide +kernel, by unfold noUndoRoom; decide +kernel⟩⟩

/-- VLDX and VSTX under p1, whose element 0 alone is enabled: a good offset, a misaligned one, one in the undo area. -/
theorem witness_vector_indexed :
    (∃ s v x c1 c2, Unlocked (kind s) (own s) [8] [] ∧ readV (kind s) (own s) 1 = .ok (v, c1) ∧ readX (kind s) c1 8 = .ok (x, c2) ∧
      (readP (own s) 1).getLsbD 0 = true ∧ (∀ j, j < 32 → (readP (own s) 1).getLsbD j = true →
        (x.toNat + lane v 32 j) % 2 ^ 20 % 4 = 0 ∧ localBound s (kind s) c2 ((x.toNat + lane v 32 j) % 2 ^ 20) 4 = none ∧
        scoreConflict c2.score (boundRanges c2.bufs (fun b => b.vis) ((x.toNat + lane v 32 j) % 2 ^ 20) 4) [] = false) ∧
      c2.errInject.getLsbD 0 = false ∧ undoActive s (kind s) c2 = false) ∧
    (∃ s v x c1 c2, Unlocked (kind s) (own s) [8] [] ∧ readV (kind s) (own s) 1 = .ok (v, c1) ∧ readX (kind s) c1 8 = .ok (x, c2) ∧
      (readP (own s) 1).getLsbD 0 = true ∧ (x.toNat + lane v 32 0) % 2 ^ 20 % 4 = 1) ∧
    (∃ s v x c1 c2, Unlocked (kind s) (own s) [8] [] ∧ readV (kind s) (own s) 1 = .ok (v, c1) ∧ readX (kind s) c1 8 = .ok (x, c2) ∧
      (readP (own s) 1).getLsbD 0 = true ∧ (x.toNat + lane v 32 0) % 2 ^ 20 % 4 = 0 ∧
      localBound s (kind s) c2 ((x.toNat + lane v 32 0) % 2 ^ 20) 4 ≠ none) :=
  ⟨⟨tileWith { aims 8 with p := #v[0, 1, 0, 0, 0, 0, 0, 0] }, 0, 8, _, { aims 8 with p := #v[0, 1, 0, 0, 0, 0, 0, 0] }, by decide, rfl, rfl, by decide,
    by decide +kernel, rfl, rfl⟩,
   ⟨tileWith { aims 9 with p := #v[0, 1, 0, 0, 0, 0, 0, 0] }, 0, 9, _, { aims 9 with p := #v[0, 1, 0, 0, 0, 0, 0, 0] }, by decide, rfl, rfl, by decide,
    by decide +kernel⟩,
   ⟨lapsLeg { aims 0xF0000 with p := #v[0, 1, 0, 0, 0, 0, 0, 0] }, 0, 0xF0000, _, { aims 0xF0000 with p := #v[0, 1, 0, 0, 0, 0, 0, 0] }, by decide, rfl, rfl,
    by decide, by decide, by decide⟩⟩

theorem witness_vector_frame : ∃ i s t, (vectorInteger i).isSome = true ∧ exec i s = .next t ∧ (own t).pc = 4 :=
  ⟨.vadd .s8 0 3 1 2, tileWith runner, _, rfl, rfl, rfl⟩

/-! ### Buffers, cursors, streams -/

/-- A core whose buffer 3 has halves 0 and 0x80 of 128 bytes. -/
def bufferCore : Core := { runner with bufs := runner.bufs.set 3 { half0 := 0, half1 := 0x80, len := 0x80, vis := false } }

/-- A cursor's entry that writes bytes 0x80 to 0x87. -/
def busyEntry : ScoreEntry := { owner := .cursor 1, reads := [], write := [⟨0x80, 8⟩] }

/-- BUFDEF of an accepted and a refused descriptor; of one that ends with the scratch. -/
theorem witness_bufdef :
    (∃ s x c1 d, Unlocked (kind s) (own s) [0] [] ∧ readX (kind s) (own s) 0 = .ok (x, c1) ∧ descriptorAt s c1 x 16 d ∧ ¬ bufferAccepted c1 3 d) ∧
    (∃ s x c1 d, Unlocked (kind s) (own s) [0] [] ∧ readX (kind s) (own s) 0 = .ok (x, c1) ∧ descriptorAt s c1 x 16 d ∧ bufferAccepted c1 3 d ∧
      d / 2 ^ 40 % 2 ^ 20 ≠ 0 ∧ d % 2 ^ 20 + d / 2 ^ 40 % 2 ^ 20 = 2 ^ 20 ∧ d / 2 ^ 20 % 2 ^ 20 + d / 2 ^ 40 % 2 ^ 20 ≤ 2 ^ 20 ∧
      ∀ e ∈ c1.score, ∀ p ∈ halves (buffer c1 3) ++ halves (bufferFrom d), ¬ entryTouches e p.1 p.2) :=
  ⟨⟨tileWith (described (2 ^ 40)), 0, described (2 ^ 40), 2 ^ 40, by decide +kernel, rfl, ⟨rfl, rfl, rfl, by decide +kernel⟩, by unfold bufferAccepted; rintro ⟨-, h⟩; exact absurd (h (by decide)).2.2.1 (by decide)⟩,
   ⟨tileWith (described (2 ^ 47 + 0xFFF80)), 0, described (2 ^ 47 + 0xFFF80), 2 ^ 47 + 0xFFF80, by decide +kernel, rfl, ⟨rfl, rfl, rfl, by decide +kernel⟩,
    ⟨by decide, fun _ => ⟨by decide, by decide, by decide, Or.inr (by decide), by decide +kernel⟩⟩, by decide, by decide, by decide, fun e h => by cases h⟩⟩

/-- PUBLISH of an undefined buffer, of a defined one, and of one whose shadow half is being written. -/
theorem witness_publish :
    (∃ s, (buffer (own s) 2).len = 0#20) ∧
    (∃ s, (buffer (own s) 3).len ≠ 0#20 ∧ ∀ e ∈ (own s).score, ¬ entryTouches { e with reads := [] } (shadowStart (buffer (own s) 3)) (buffer (own s) 3).len.toNat) ∧
    (∃ s, (buffer (own s) 3).len ≠ 0#20 ∧ ∃ e ∈ (own s).score, entryTouches { e with reads := [] } (shadowStart (buffer (own s) 3)) (buffer (own s) 3).len.toNat) :=
  ⟨⟨tileWith bufferCore, rfl⟩, ⟨tileWith bufferCore, by decide, fun e h => by cases h⟩,
   ⟨tileWith { bufferCore with score := [busyEntry] }, by decide, busyEntry, .head _, ⟨0x80, 8⟩, Or.inr (.head _), 0x80, by decide⟩⟩

/-- EWAIT with length 0 with and without an entry; a range to the last byte of scratch, one past it, and one that an entry touches. -/
theorem witness_ewait :
    (∃ s x c1, Unlocked (kind s) (own s) [0, 0] [] ∧ readX (kind s) (own s) 0 = .ok (x, c1) ∧ x = 0#64 ∧ c1.score = []) ∧
    (∃ s x c1, Unlocked (kind s) (own s) [0, 0] [] ∧ readX (kind s) (own s) 0 = .ok (x, c1) ∧ x = 0#64 ∧ c1.score ≠ []) ∧
    (∃ s x y c1 c2, Unlocked (kind s) (own s) [8, 5] [] ∧ readX (kind s) (own s) 8 = .ok (x, c1) ∧ readX (kind s) c1 5 = .ok (y, c2) ∧ y ≠ 0#64 ∧
      x.toNat % 2 ^ 20 + y.toNat = 2 ^ 20 ∧ c2.score = []) ∧
    (∃ s x y c1 c2, Unlocked (kind s) (own s) [8, 6] [] ∧ readX (kind s) (own s) 8 = .ok (x, c1) ∧ readX (kind s) c1 6 = .ok (y, c2) ∧ y ≠ 0#64 ∧
      x.toNat % 2 ^ 20 + y.toNat = 2 ^ 20 + 1) ∧
    (∃ s x y c1 c2, Unlocked (kind s) (own s) [8, 5] [] ∧ readX (kind s) (own s) 8 = .ok (x, c1) ∧ readX (kind s) c1 5 = .ok (y, c2) ∧ y ≠ 0#64 ∧
      x.toNat % 2 ^ 20 + y.toNat ≤ 2 ^ 20 ∧
      ∃ e ∈ c2.score, waitedFor c2 e (x.toNat % 2 ^ 20) y.toNat) :=
  ⟨⟨tileWith runner, 0, runner, by decide, rfl, rfl, rfl⟩, ⟨tileWith { runner with score := [busyEntry] }, 0, { runner with score := [busyEntry] }, by decide, rfl, rfl, by decide⟩,
   ⟨tileWith (aims 0xFFFFE), 0xFFFFE, 2, aims 0xFFFFE, aims 0xFFFFE, by decide, rfl, rfl, by decide, by decide, rfl⟩,
   ⟨tileWith (aims 0xFFFFE), 0xFFFFE, 3, aims 0xFFFFE, aims 0xFFFFE, by decide, rfl, rfl, by decide, by decide⟩,
   ⟨tileWith { aims 0x86 with score := [busyEntry] }, 0x86, 2, { aims 0x86 with score := [busyEntry] }, { aims 0x86 with score := [busyEntry] }, by decide, rfl,
    rfl, by decide, by decide, busyEntry, .head _, Or.inl ⟨⟨0x86, 2⟩, by decide +kernel, ⟨0x80, 8⟩, Or.inr (.head _), 0x86, by decide⟩⟩⟩

theorem witness_lapq : ∃ s c1, Unlocked (kind s) (own s) [] [5] ∧ writeX (kind s) (own s) 5 (lapqValue s (own s)) = .ok c1 ∧ lapqValue s (own s) = 4 :=
  ⟨lapped [], _, by decide, rfl, by decide +kernel⟩

theorem witness_cursor :
    (∃ s x c1 d, Unlocked (kind s) (own s) [0] [] ∧ readX (kind s) (own s) 0 = .ok (x, c1) ∧ descriptorAt s c1 x 8 d ∧ d = 2 ^ 58) ∧
    (∃ s x c1 d, Unlocked (kind s) (own s) [0] [] ∧ readX (kind s) (own s) 0 = .ok (x, c1) ∧ descriptorAt s c1 x 8 d ∧ d < 2 ^ 58 ∧
      BitVec.ofNat 16 (d / 2 ^ 40) = 0#16) ∧
    (∃ s x c1 d, Unlocked (kind s) (own s) [0] [] ∧ readX (kind s) (own s) 0 = .ok (x, c1) ∧ descriptorAt s c1 x 8 d ∧ d < 2 ^ 58 ∧
      (c1.score.filter fun e => e.owner != .cursor 2).length < 16 ∧
      ∀ e ∈ cursorEntries 2 { addr := BitVec.ofNat 20 d, step := BitVec.ofNat 20 (d / 2 ^ 20), left := BitVec.ofNat 16 (d / 2 ^ 40),
                              dir := d.testBit 56, plane := d.testBit 57, bound := c1.bufs } false,
        scoreConflict (c1.score.filter fun e => e.owner != .cursor 2) e.reads e.write = false) ∧
    (∃ s n k u, k < 4 ∧ (coreOf s (.tile n)).cursors[k]? = some u ∧ u.left = 0#16) :=
  ⟨⟨tileWith (described (2 ^ 58)), 0, described (2 ^ 58), 2 ^ 58, by decide +kernel, rfl, ⟨rfl, rfl, rfl, by decide +kernel⟩, rfl⟩,
   ⟨tileWith runner, 0, runner, 0, by decide, rfl, ⟨rfl, rfl, rfl, by decide +kernel⟩, by decide, rfl⟩,
   ⟨tileWith (described (2 ^ 41 + 8 * 2 ^ 20)), 0, described (2 ^ 41 + 8 * 2 ^ 20), 2 ^ 41 + 8 * 2 ^ 20, by decide +kernel, rfl, ⟨rfl, rfl, rfl, by decide +kernel⟩, by decide,
    by decide, by decide +kernel⟩,
   ⟨tileWith runner, 0, 3, {}, by decide, rfl, rfl⟩⟩

/-- Memory core 0 of a gang whose port table binds its stream 0 on SN-A. -/
def memJob (c : Core) : State :=
  { cores := [(1, c)], cur := .mem 0, contexts := [(5, { running := true, resident := true })],
    gangs := [(1, { state := .running, baton := 0, bytes := 0, inst := 0, first := 0, lanes := 2, ctx := 5, cfg := 0, ports := [{ south := false, column := 0, select := 0, planeA := true, planeB := false, stream := 0 }] })] }

/-- The descriptor of one run of 8 bytes at address 0, on stream 0. -/
def streamWords : Nat := 8 * 2 ^ 128 + 2 ^ 160 + 2 ^ 176 + 2 ^ 192

/-- A memory core with that descriptor at scratch offset 0, and streams ss. -/
def streamCore (ss : Tbl Stream) : Core := { runner with scratch := [(16, 8), (20, 1), (22, 1), (24, 1)], streams := ss }

/-- A stream of that descriptor. -/
def oneStream (write : Bool) : Stream := { desc := BitVec.ofNat 512 streamWords, write := write, order := 0 }

/-- SRD and SWR: misaligned, above the scratch, refused, started in a free slot, with every slot taken; SWAIT. -/
theorem witness_stream_issue :
    (∃ s x c1, Unlocked (kind s) (own s) [5] [] ∧ readX (kind s) (own s) 5 = .ok (x, c1) ∧ x.toNat % 2 ^ 20 % 64 ≠ 0) ∧
    (∃ s x c1, Unlocked (kind s) (own s) [8] [] ∧ readX (kind s) (own s) 8 = .ok (x, c1) ∧ x.toNat % 2 ^ 20 = 0x40000) ∧
    (∃ s c1 m tr, s.cur = .mem m ∧ Unlocked (kind s) (own s) [0] [] ∧ readX (kind s) (own s) 0 = .ok (0, c1) ∧
      sdCheck s c1 m 0 false (streamDesc c1 0) = some tr) ∧
    (∃ s c1 m g, s.cur = .mem m ∧ Unlocked (kind s) (own s) [0] [] ∧ readX (kind s) (own s) 0 = .ok (0, c1) ∧
      sdCheck s c1 m 0 true (streamDesc c1 0) = none ∧ overStage s c1 true (streamDesc c1 0) = false ∧
      tfind c1.streams 3 = none ∧ (∀ j, j < 3 → tfind c1.streams j ≠ none) ∧ ctxOf s c1 = some g) ∧
    (∃ s c1 m, s.cur = .mem m ∧ Unlocked (kind s) (own s) [0] [] ∧ readX (kind s) (own s) 0 = .ok (0, c1) ∧
      sdCheck s c1 m 0 true (streamDesc c1 0) = none ∧ overStage s c1 true (streamDesc c1 0) = false ∧ ∀ j, j < 4 → tfind c1.streams j ≠ none) ∧
    (∃ s, (own s).streams = []) ∧ (∃ s, (own s).streams ≠ []) :=
  ⟨⟨memJob runner, 2, runner, by decide, rfl, by decide⟩, ⟨memJob (aims 0x40000), 0x40000, aims 0x40000, by decide, rfl, by decide⟩,
   ⟨memJob runner, runner, 0, { cause := .illegal }, rfl, by decide, rfl, by decide +kernel⟩,
   ⟨memJob (streamCore [(0, oneStream false), (1, oneStream false), (2, oneStream false)]), _, 0, 5, rfl, by decide, rfl, by decide +kernel, by decide +kernel, rfl,
    by decide, rfl⟩,
   ⟨memJob (streamCore [(0, oneStream false), (1, oneStream false), (2, oneStream false), (3, oneStream false)]), _, 0, rfl, by decide, rfl, by decide +kernel,
    by decide +kernel, by decide⟩,
   ⟨memJob runner, rfl⟩, ⟨memJob (streamCore [(0, oneStream false)]), by decide⟩⟩

/-- A run that has begun at address 0, its page translated. -/
def runStream (write copy : Bool) : Stream :=
  { oneStream write with desc := BitVec.ofNat 512 (streamWords + if copy then 2 ^ 227 + 0x100 * 2 ^ 64 else 0), run := some 0, pages := [plainLeaf], dpages := if copy then [plainLeaf] else [] }

theorem witness_stream_words :
    (∃ s k slot st e base n, st.write = false ∧ sdCopy st.desc = false ∧ st.run = some base ∧ movable s k slot st st.pages e (base + st.byte) n ∧
      (fifoOf s (sdPlane st.desc) (.mem k, 4)).length = 3 ∧ s.windows = [] ∧ s.poisoned = []) ∧
    (∃ s k slot st e base n w ws, st.write = true ∧ sdCopy st.desc = false ∧ st.run = some base ∧ movable s k slot st st.pages e (base + st.byte) n ∧
      leafH e = false ∧ leafL e = false ∧ leafD e = false ∧ fifoOf s (sdPlane st.desc) (.mem k, 0) = w :: ws ∧ headMarked s (sdPlane st.desc) (.mem k, 0) = false) ∧
    (∃ s k slot st e e2 base n, sdCopy st.desc = true ∧ st.done = false ∧ st.run = some base ∧ movable s k slot st st.pages e (base + st.byte) n ∧
      pageFor st.dpages ((BitVec.ofNat 64 base + (BitVec.ofNat 64 (sdDst st.desc) - BitVec.ofNat 64 (sdAddr st.desc)) : Word).toNat + st.byte) = some e2 ∧
      ((BitVec.ofNat 64 base + (BitVec.ofNat 64 (sdDst st.desc) - BitVec.ofNat 64 (sdAddr st.desc)) : Word).toNat + st.byte) % 2 ^ pageBits (leafSize e2) + n ≤
        2 ^ pageBits (leafSize e2) ∧ leafH e2 = false ∧ leafL e2 = false ∧ leafD e2 = false ∧ s.poisoned = []) :=
  ⟨⟨memJob { streamCore [(0, runStream false false)] with fifoA := [(4, [1, 2, 3])] }, 0, 0, runStream false false, plainLeaf, 0, 8, rfl, by decide, rfl,
    ⟨fun p h => (by cases h), rfl, by decide +kernel, by decide +kernel, rfl, by decide, by decide, rfl, by decide, 0, rfl, by decide +kernel, fun h => absurd h (by decide)⟩, by decide, rfl, rfl⟩,
   ⟨memJob { streamCore [(0, runStream true false)] with fifoA := [(0, [9])] }, 0, 0, runStream true false, plainLeaf, 0, 8, 9, [], rfl, by decide, rfl,
    ⟨fun p h => (by cases h), rfl, by decide +kernel, by decide +kernel, rfl, by decide, by decide, rfl, by decide, 0, rfl, by decide +kernel, fun h => absurd h (by decide)⟩, rfl, rfl, rfl,
    by decide +kernel, by decide +kernel⟩,
   ⟨memJob (streamCore [(0, runStream false true)]), 0, 0, runStream false true, plainLeaf, plainLeaf, 0, 8, by decide, rfl, rfl,
    ⟨fun p h => (by cases h), rfl, by decide +kernel, by decide +kernel, rfl, by decide, by decide, rfl, by decide, 0, rfl, by decide +kernel, fun _ => by decide +kernel⟩,
    by decide +kernel, by decide +kernel, rfl, rfl, rfl, rfl⟩⟩

theorem witness_stream_ends :
    (∃ s k slot st, streamOf s k slot = some st ∧ st.done = true ∧ st.write = false ∧ sdCopy st.desc = false) ∧
    (∃ s k slot st, streamOf s k slot = some st ∧ st.done = true ∧ st.write = true ∧ (contextOf s (memCtx s k)).laps = false ∧ st.host = []) ∧
    (∃ s k slot st tr, streamOf s k slot = some st ∧ st.fault = some tr ∧ tr.cause = .boundary) ∧
    (∃ s k slot st tr, streamOf s k slot = some st ∧ st.fault = some tr ∧ tr.cause = .page) :=
  ⟨⟨memJob (streamCore [(0, { oneStream false with done := true })]), 0, 0, _, rfl, rfl, rfl, by decide⟩,
   ⟨memJob (streamCore [(0, { oneStream true with done := true })]), 0, 0, _, rfl, rfl, rfl, rfl, rfl⟩,
   ⟨memJob (streamCore [(0, { oneStream true with fault := some { cause := .boundary } })]), 0, 0, _, _, rfl, rfl, rfl⟩,
   ⟨memJob (streamCore [(0, { oneStream true with fault := some { cause := .page } })]), 0, 0, _, _, rfl, rfl, rfl⟩⟩

/-! ### The switch -/

/-- Routes that send the core's outbound word east on SN-A, and one that a cursor reads south on SN-B. -/
def eastRoute : Routes :=
  { aN := 0, aE := 5, aS := 0, aW := 0, aMask := 0, aSink := 0, bN := 0, bE := 0, bS := 6, bW := 0, bMask := 0, bSink := 0,
    aCur := 0, bCur := 1, edge := 0 }

/-- A tile whose switch runs, with a word for the east and cursor 1 as given. -/
def switchCore (u : Cursor) : Core := { runner with swHalted := false, fifoA := [(5, [9])], cursors := runner.cursors.set 1 u }

/-- A cursor that reads SN-B words, one access left. -/
def readCursor : Cursor := { left := 1, step := 128, plane := true }

theorem readyEast (u : Cursor) (h : u.left ≠ 0#16) : wordReady (tileWith (switchCore u)) 0 eastRoute [] :=
  ⟨fun b src hs => by
      cases b
      · rcases List.mem_singleton.mp (show src ∈ [6] from hs) with rfl; exact List.cons_ne_nil 9 []
      · exact absurd (show src ∈ [] from hs) List.not_mem_nil,
   fun b d hd => by
      cases b
      · rcases List.mem_singleton.mp (show d ∈ [some (Agent.tile 32, 11)] from hd) with rfl; exact ⟨_, rfl, (by decide : 0 < 4)⟩
      · rcases List.mem_singleton.mp (show d ∈ [some (Agent.tile 1, 8)] from hd) with rfl; exact ⟨_, rfl, (by decide : 0 < 4)⟩,
   fun v hv => by rcases List.mem_singleton.mp (show v ∈ [(1, false, true)] from hv) with rfl; exact h⟩

theorem witness_switch_words :
    (∃ i r extra s n, switchForm i = some (r, extra) ∧ i.WellFormed = true ∧ switchRuns s n ∧ wordReady s n r extra ∧ tokenRoom i s ∧
      cursorsAgree s n r ∧ ¬ undoStalls (coreOf s (.tile n)) (sinkSectors s n r)) ∧
    (∃ i r extra s n, switchForm i = some (r, extra) ∧ i.WellFormed = true ∧ switchRuns s n ∧ wordReady s n r extra ∧ tokenRoom i s ∧
      cursorUses r = [(1, false, true)] ∧ ¬ cursorSet s n (1, false, true)) ∧
    (∃ i r extra s n, switchForm i = some (r, extra) ∧ i.WellFormed = true ∧ switchRuns s n ∧ ¬ wordReady s n r extra) ∧
    (∃ r k m s n, (Instr.scurSwitch r k m).WellFormed = true ∧ switchRuns s n ∧ wordReady s n r [] ∧ m.setWidth 16 = 0#16 ∧
      cursorsAgree s n r ∧ ¬ undoStalls (coreOf s (.tile n)) (sinkSectors s n r)) :=
  ⟨⟨.route eastRoute, eastRoute, [], tileWith (switchCore readCursor), 0, rfl, by decide, ⟨rfl, by decide, rfl, rfl⟩, readyEast _ (by decide),
    fun ⟨_, _, h⟩ => (by cases h), fun v hv => (by rcases List.mem_singleton.mp (show v ∈ [(1, false, true)] from hv) with rfl; exact ⟨⟨rfl, rfl⟩, fun h => absurd h (by decide)⟩), by unfold undoStalls; decide +kernel⟩,
   ⟨.route eastRoute, eastRoute, [], tileWith (switchCore { readCursor with dir := true }), 0, rfl, by decide, ⟨rfl, by decide, rfl, rfl⟩,
    readyEast _ (by decide), fun ⟨_, _, h⟩ => (by cases h), rfl, fun h => absurd h.1 (by decide)⟩,
   ⟨.shalt eastRoute, eastRoute, [], tileWith (switchCore {}), 0, rfl, by decide, ⟨rfl, by decide, rfl, rfl⟩,
    fun h => h.2.2 (1, false, true) (.head _) rfl⟩,
   ⟨eastRoute, 2, 0, tileWith (switchCore readCursor), 0, by decide, ⟨rfl, by decide, rfl, rfl⟩, readyEast _ (by decide), rfl,
    fun v hv => (by rcases List.mem_singleton.mp (show v ∈ [(1, false, true)] from hv) with rfl; exact ⟨⟨rfl, rfl⟩, fun h => absurd h (by decide)⟩), by unfold undoStalls; decide +kernel⟩⟩

/-- A word whose cursor 1 writes SN-B words from the south into scratch at 0, in a leg that logs, its area as given; a cursor that would reach
the undo area; a token with the notice FIFO of a take-over full. -/
def sinkRoute : Routes := { eastRoute with bS := 0, bSink := 3, aE := 0 }

theorem readySink (u : Nat) : wordReady (logging { switchCore { left := 1, step := 128, plane := true, dir := true } with fifoA := [], fifoB := [(10, [9])], undoFill := u }) 0
    sinkRoute [] :=
  ⟨fun b src hs => by
      cases b
      · exact absurd (show src ∈ [] from hs) List.not_mem_nil
      · rcases List.mem_singleton.mp (show src ∈ [3] from hs) with rfl; exact List.cons_ne_nil 9 [],
   fun b d hd => by
      cases b
      · exact absurd (show d ∈ [] from hd) List.not_mem_nil
      · exact absurd (show d ∈ [] from hd) List.not_mem_nil,
   fun v hv => by rcases List.mem_singleton.mp (show v ∈ [(1, true, true)] from hv) with rfl; exact (by decide : (1#16 : BitVec 16) ≠ 0#16)⟩

theorem witness_switch_sinks :
    (∃ i r extra s n, switchForm i = some (r, extra) ∧ i.WellFormed = true ∧ switchRuns s n ∧ wordReady s n r extra ∧ tokenRoom i s ∧
      cursorsAgree s n r ∧ undoStalls (coreOf s (.tile n)) (sinkSectors s n r)) ∧
    (∃ i r extra s n, switchForm i = some (r, extra) ∧ i.WellFormed = true ∧ switchRuns s n ∧ wordReady s n r extra ∧ tokenRoom i s ∧
      cursorsAgree s n r ∧ sinkSectors s n r ≠ [] ∧ ¬ undoStalls (coreOf s (.tile n)) (sinkSectors s n r)) ∧
    (∃ r slot s n, switchRuns s n ∧ s.starter.takingOver = true ∧ ¬ tokenRoom (.stok r slot) s) :=
  have agree : ∀ s, cursorSet s 0 (1, true, true) → cursorOutside s 0 (1, true, true) → cursorsAgree s 0 sinkRoute :=
    fun s h g v hv => (by rcases List.mem_singleton.mp (show v ∈ [(1, true, true)] from hv) with rfl; exact ⟨h, g⟩)
  ⟨⟨.route sinkRoute, sinkRoute, [], _, 0, rfl, by decide, ⟨rfl, by decide, rfl, rfl⟩, readySink 0x10000, fun ⟨_, _, h⟩ => (by cases h), agree _ ⟨rfl, rfl⟩ fun _ => by decide +kernel,
    by unfold undoStalls; decide +kernel⟩,
   ⟨.route sinkRoute, sinkRoute, [], _, 0, rfl, by decide, ⟨rfl, by decide, rfl, rfl⟩, readySink 0, fun ⟨_, _, h⟩ => (by cases h), agree _ ⟨rfl, rfl⟩ fun _ => by decide +kernel,
    by decide +kernel, by unfold undoStalls; decide +kernel⟩,
   ⟨eastRoute, 1, { tileWith (switchCore readCursor) with starter := { takingOver := true, notices := List.replicate 4096 { serial := 1, bytes := 0 } } }, 0,
    ⟨rfl, by decide, rfl, rfl⟩, rfl, fun h => by have := h ⟨_, _, rfl⟩ rfl; rw [List.length_replicate] at this; omega⟩⟩

theorem witness_cursor_boundary : ∃ i r s n, switchForm i = some (r, []) ∧ i.WellFormed = true ∧ switchRuns s n ∧ wordReady s n r [] ∧ tokenRoom i s ∧
    cursorUses r = [(1, false, true)] ∧ cursorSet s n (1, false, true) ∧ ¬ cursorOutside s n (1, false, true) :=
  ⟨.route eastRoute, eastRoute, { tileWith (switchCore { readCursor with addr := 0xF0000 }) with
      gangs := [(1, { baton := 0, bytes := 0, inst := 0, first := 0, lanes := 2, ctx := 5, cfg := 0, laps := true })] }, 0, rfl, by decide,
    ⟨rfl, by decide, rfl, rfl⟩, readyEast _ (by decide), fun ⟨_, _, h⟩ => (by cases h), rfl, ⟨rfl, rfl⟩, fun h => absurd (h (by decide)).1 (by decide)⟩

theorem test_switch_route_pops_and_pushes : ∃ t, exec (.route eastRoute) (tileWith (switchCore readCursor)) = .next t ∧
    fifoA (coreOf t (.tile 32)) 11 = [9] ∧ fifoA (coreOf t (.tile 0)) 5 = [] ∧ (coreOf t (.tile 0)).spc = 1 :=
  ⟨_, rfl, by decide +kernel, by decide +kernel, by decide +kernel⟩

/-! ### Synchronisation objects and wait queues -/

/-- The gang of `job`. -/
def gangOne : Gang := { baton := 0, bytes := 0, inst := 0, first := 0, lanes := 2, ctx := 5, cfg := 0 }

/-- A runner whose TLB holds the memory-side page, with holdings hs, answers rs and x8 = v. -/
def objectCore (hs : List Holding) (rs : List Reply) (v : Word) : Core := { cached memLeaf [] with holdings := hs, replies := rs, x := runner.x.set 8 v }

/-- The object at virtual address 0, at 0x100000 on this package. -/
theorem objectZero {need : Need} (hs : List Holding) (rs : List Reply) (v : Word) :
    objectAt (job false (objectCore hs rs v)) (objectCore hs rs v) need 0 memLeaf 0x100000 (objectCore hs rs v) := by
  cases need <;> exact ⟨⟨rfl, rfl, rfl⟩, rfl⟩

theorem plainMem : plainPage memLeaf := ⟨by decide, by decide⟩

/-- A hold of it. -/
def holdZero (shared : Bool) : Holding := { object := 0, phys := 0x100000, shared := shared }

/-- ACQ answered, misaligned, of an object that is malformed, held already, with four held, and with three; the grants. -/
theorem witness_acquire :
    (∃ s va c1 w r, Unlocked (kind s) (own s) [0] [] ∧ readX (kind s) (own s) 0 = .ok (va, c1) ∧ c1.replies = .ok w :: r) ∧
    (∃ s va c1, Unlocked (kind s) (own s) [8] [] ∧ readX (kind s) (own s) 8 = .ok (va, c1) ∧ c1.replies = [] ∧ va.toNat % 64 ≠ 0) ∧
    (∃ s va c1 e phys c2 serial g, readX (kind s) (own s) 0 = .ok (va, c1) ∧ c1.replies = [] ∧ objectAt s c1 .rw va e phys c2 ∧ memberOfGang s c2 serial g ∧
      objectClean s phys = false) ∧
    (∃ s va c1 e phys c2 serial g, readX (kind s) (own s) 0 = .ok (va, c1) ∧ c1.replies = [] ∧ objectAt s c1 .rw va e phys c2 ∧ memberOfGang s c2 serial g ∧
      objectClean s phys = true ∧ ∃ h ∈ c2.holdings, h.object = va.toNat) ∧
    (∃ s va c1 e phys c2 serial g, readX (kind s) (own s) 0 = .ok (va, c1) ∧ c1.replies = [] ∧ objectAt s c1 .rw va e phys c2 ∧ memberOfGang s c2 serial g ∧
      objectClean s phys = true ∧ (∀ h ∈ c2.holdings, h.object ≠ va.toNat) ∧ c2.holdings.length = 4) ∧
    (∃ s va c1 e phys c2 serial g, readX (kind s) (own s) 0 = .ok (va, c1) ∧ c1.replies = [] ∧ objectAt s c1 .rw va e phys c2 ∧ memberOfGang s c2 serial g ∧
      objectClean s phys = true ∧ (∀ h ∈ c2.holdings, h.object ≠ va.toNat) ∧ c2.holdings.length = 3) ∧
    (∀ shared, ∃ s r g, s.acqQ[s.pick]? = some r ∧ (∀ q ∈ s.acqQ.take s.pick, q.obj ≠ r.obj) ∧ (∀ q ∈ s.acqQ.drop (s.pick + 1), q.obj ≠ r.obj) ∧
      tfind s.gangs r.who.serial = some g ∧ g.state = .running ∧ plainPage r.leaf ∧ canGrant (memRead s r.obj 8) r.shared ∧ r.shared = shared) :=
  have other : ∀ k, ∀ h ∈ List.replicate k { holdZero true with object := 64 }, h.object ≠ (0 : Word).toNat := fun k h hh => by
    rw [(List.mem_replicate.mp hh).2]; decide
  ⟨⟨job false (objectCore [] [.ok 0] 0), 0, objectCore [] [.ok 0] 0, 0, [], by decide, rfl, rfl⟩,
   ⟨job false (objectCore [] [] 32), 32, objectCore [] [] 32, by decide, rfl, rfl, by decide⟩,
   ⟨{ job false (objectCore [] [] 0) with mem := [(0x100007, 1)] }, 0, objectCore [] [] 0, memLeaf, 0x100000, objectCore [] [] 0, 1, gangOne, rfl, rfl,
    ⟨⟨rfl, rfl, rfl⟩, rfl⟩, ⟨rfl, rfl⟩, by decide +kernel⟩,
   ⟨job false (objectCore [holdZero true] [] 0), 0, objectCore [holdZero true] [] 0, memLeaf, 0x100000, objectCore [holdZero true] [] 0, 1, gangOne, rfl, rfl,
    objectZero _ _ _, ⟨rfl, rfl⟩, by decide +kernel, holdZero true, .head _, rfl⟩,
   ⟨job false (objectCore (List.replicate 4 { holdZero true with object := 64 }) [] 0), 0, _, memLeaf, 0x100000, _, 1, gangOne, rfl, rfl,
    objectZero (List.replicate 4 { holdZero true with object := 64 }) [] 0, ⟨rfl, rfl⟩, by decide +kernel, other 4, rfl⟩,
   ⟨job false (objectCore (List.replicate 3 { holdZero true with object := 64 }) [] 0), 0, _, memLeaf, 0x100000, _, 1, gangOne, rfl, rfl,
    objectZero (List.replicate 3 { holdZero true with object := 64 }) [] 0, ⟨rfl, rfl⟩, by decide +kernel, other 3, rfl⟩,
   fun shared => ⟨{ job false runner with gangs := [(1, { gangOne with state := .running })], acqQ := [⟨⟨1, 0⟩, 0x100000, 0, shared, memLeaf⟩] },
     ⟨⟨1, 0⟩, 0x100000, 0, shared, memLeaf⟩, { gangOne with state := .running }, rfl, fun q h => (by cases h), fun q h => (by cases h), rfl, rfl, plainMem,
     (by cases shared <;> (unfold canGrant; decide +kernel)), rfl⟩⟩

/-- The largest count of shared holders that one more may join, and the full one. -/
theorem witness_can_grant : canGrant 65534 true ∧ ¬ canGrant 65535 true ∧ canGrant 0 false ∧ ¬ canGrant 1 false ∧ ¬ canGrant 65536 true := by
  unfold canGrant; decide

theorem witness_release :
    (∃ s va c1 w r, Unlocked (kind s) (own s) [0] [] ∧ readX (kind s) (own s) 0 = .ok (va, c1) ∧ c1.replies = .ok w :: r) ∧
    (∃ s va c1 e phys c2, readX (kind s) (own s) 0 = .ok (va, c1) ∧ c1.replies = [] ∧ (∀ p f, c1.wait ≠ .rel p f) ∧ objectNamed s c1 .rw va e phys c2 ∧ objectClean s phys = true ∧
      ∀ h ∈ c2.holdings, h.object ≠ va.toNat) ∧
    (∃ s va c1 e phys c2, readX (kind s) (own s) 0 = .ok (va, c1) ∧ c1.replies = [] ∧ (∀ p f, c1.wait ≠ .rel p f) ∧ objectNamed s c1 .rw va e phys c2 ∧ objectClean s phys = true ∧
      ∃ h l r, c2.holdings = l ++ h :: r ∧ h.object = va.toNat ∧ (∀ q ∈ l, q.object ≠ va.toNat) ∧ c2.streams = [] ∧ c2.lost = [] ∧ c2.lines = [] ∧
        ¬ writeBackOpen s none ∧ anyStoreOpen s (agentCode s.cur) = false ∧ remoteOpen s (agentCode s.cur) = false) ∧
    (∃ s va c1 e phys, Unlocked (kind s) (own s) [0] [] ∧ readX (kind s) (own s) 0 = .ok (va, c1) ∧ c1.replies = [] ∧ c1.wait = .rel phys e ∧
      ∃ h l r, c1.holdings = l ++ h :: r ∧ h.object = va.toNat ∧ (∀ q ∈ l, q.object ≠ va.toNat) ∧ c1.lines = [] ∧ c1.streams ≠ []) ∧
    (∃ s va c1 e phys, Unlocked (kind s) (own s) [0] [] ∧ readX (kind s) (own s) 0 = .ok (va, c1) ∧ c1.replies = [] ∧ c1.wait = .rel phys e ∧
      ∃ h l r, c1.holdings = l ++ h :: r ∧ h.object = va.toNat ∧ (∀ q ∈ l, q.object ≠ va.toNat) ∧ c1.lines = [] ∧ c1.lost ≠ [] ∧ c1.streams = [] ∧
        ¬ writeBackOpen s none ∧ anyStoreOpen s (agentCode s.cur) = false ∧ remoteOpen s (agentCode s.cur) = false) ∧
    (∀ shared, ∃ s p h e, picked s = some p ∧ p.kind = .release h e ∧ plainPage e ∧ (∀ q ∈ s.acqQ, q.obj ≠ p.addr) ∧ h.shared = shared ∧
      0 < memRead s p.addr 8) :=
  ⟨⟨job false (objectCore [] [.ok 0] 0), 0, objectCore [] [.ok 0] 0, 0, [], by decide, rfl, rfl⟩,
   ⟨job false (objectCore [] [] 0), 0, objectCore [] [] 0, memLeaf, 0x100000, objectCore [] [] 0, rfl, rfl, fun p f h => (by cases h), (objectZero _ _ _).1, by decide +kernel, fun h hh => by cases hh⟩,
   ⟨job false (objectCore [holdZero true] [] 0), 0, objectCore [holdZero true] [] 0, memLeaf, 0x100000, objectCore [holdZero true] [] 0, rfl, rfl,
    fun p f h => (by cases h), (objectZero _ _ _).1, by decide +kernel, holdZero true, [], [], rfl, rfl, fun q h => (by cases h), rfl, rfl, rfl, fun ⟨p, h, _⟩ => (by cases h), rfl, rfl⟩,
   ⟨job false { objectCore [holdZero true] [] 0 with wait := .rel 0x100000 memLeaf, streams := [(0, { desc := 0, write := false, order := 0 })] }, 0, _, memLeaf, 0x100000,
    by decide, rfl, rfl, rfl, holdZero true, [], [], rfl, rfl, fun q h => (by cases h), rfl, by decide⟩,
   ⟨job false { objectCore [holdZero true] [] 0 with wait := .rel 0x100000 memLeaf, lost := [64] }, 0, _, memLeaf, 0x100000,
    by decide, rfl, rfl, rfl, holdZero true, [], [], rfl, rfl, fun q h => (by cases h), rfl, by decide, rfl, fun ⟨p, h, _⟩ => (by cases h), rfl, rfl⟩,
   fun shared => ⟨{ sent (fromOne (.release (holdZero shared) memLeaf)) with mem := [(0x100000, 1), (0x100002, 1)] }, fromOne (.release (holdZero shared) memLeaf),
     holdZero shared, memLeaf, rfl, rfl, plainMem, fun q h => (by cases h), rfl, by cases shared <;> (show 0 < memRead _ 0x100000 8; decide +kernel)⟩⟩

/-- BIND of an entry that stands in the table, of a new one with 15 others, a misaligned one, an empty one; UNBIND of an object held and not. -/
theorem witness_bind :
    (∃ s va rec c1 c2 e phys c3 x base len, Unlocked (kind s) (own s) [0, 0] [] ∧ readX (kind s) (own s) 0 = .ok (va, c1) ∧ readX (kind s) c1 0 = .ok (rec, c2) ∧
      c2.replies = [.ok base, .ok len] ∧ objectAt s c2 .none va e phys c3 ∧ ctxOf s c3 = some x ∧ rec.toNat % 8 = 0 ∧
      { object := va.toNat, base := base.toNat, len := len.toNat } ∈ (contextOf s x).bindings) ∧
    (∃ s va rec c1 c2 e phys c3 x base len, Unlocked (kind s) (own s) [0, 0] [] ∧ readX (kind s) (own s) 0 = .ok (va, c1) ∧ readX (kind s) c1 0 = .ok (rec, c2) ∧
      c2.replies = [.ok base, .ok len] ∧ objectAt s c2 .none va e phys c3 ∧ ctxOf s c3 = some x ∧ rec.toNat % 8 = 0 ∧
      { object := va.toNat, base := base.toNat, len := len.toNat } ∉ (contextOf s x).bindings ∧ base.toNat % 32 = 0 ∧ 0 < len.toNat ∧ len.toNat % 32 = 0 ∧
      (∀ o ∈ (contextOf s x).bindings, o.base + o.len ≤ base.toNat ∨ base.toNat + len.toNat ≤ o.base) ∧ (contextOf s x).bindings.length = 15) ∧
    (∃ s c2 base len e phys c3 x, Unlocked (kind s) (own s) [0, 0] [] ∧ readX (kind s) (own s) 0 = .ok (0, c2) ∧
      c2.replies = [.ok base, .ok len] ∧ objectAt s c2 .none 0 e phys c3 ∧ ctxOf s c3 = some x ∧
      { object := (0 : Word).toNat, base := base.toNat, len := len.toNat } ∉ (contextOf s x).bindings ∧ base.toNat % 32 ≠ 0) ∧
    (∃ s c2 base len e phys c3 x, Unlocked (kind s) (own s) [0, 0] [] ∧ readX (kind s) (own s) 0 = .ok (0, c2) ∧
      c2.replies = [.ok base, .ok len] ∧ objectAt s c2 .none 0 e phys c3 ∧ ctxOf s c3 = some x ∧
      { object := (0 : Word).toNat, base := base.toNat, len := len.toNat } ∉ (contextOf s x).bindings ∧ base.toNat % 32 = 0 ∧ len.toNat = 0) ∧
    (∃ s va c1 e phys c2 x, readX (kind s) (own s) 0 = .ok (va, c1) ∧ c1.replies = [] ∧ objectAt s c1 .none va e phys c2 ∧ ctxOf s c2 = some x ∧
      objectHeld s x va.toNat = true) ∧
    (∃ s va c1 e phys c2 x, readX (kind s) (own s) 0 = .ok (va, c1) ∧ c1.replies = [] ∧ objectAt s c1 .none va e phys c2 ∧ ctxOf s c2 = some x ∧
      objectHeld s x va.toNat = false) :=
  have at0 : ∀ (bs : List Binding) rs, objectAt { job false (objectCore [] rs 0) with contexts := [(5, { running := true, bindings := bs })] } (objectCore [] rs 0) .none 0 memLeaf
      0x100000 (objectCore [] rs 0) := fun bs rs => ⟨⟨rfl, rfl, rfl⟩, rfl⟩
  ⟨⟨{ job false (objectCore [] [.ok 32, .ok 32] 0) with contexts := [(5, { running := true, bindings := [⟨0, 32, 32⟩] })] }, 0, 0, objectCore [] [.ok 32, .ok 32] 0,
    objectCore [] [.ok 32, .ok 32] 0, memLeaf, 0x100000, objectCore [] [.ok 32, .ok 32] 0, 5, 32, 32, by decide, rfl, rfl, rfl, at0 _ _, rfl, rfl, by decide⟩,
   ⟨{ job false (objectCore [] [.ok 32, .ok 32] 0) with contexts := [(5, { running := true, bindings := List.replicate 15 ⟨64, 64, 32⟩ })] }, 0, 0, objectCore [] [.ok 32, .ok 32] 0,
    objectCore [] [.ok 32, .ok 32] 0, memLeaf, 0x100000, objectCore [] [.ok 32, .ok 32] 0, 5, 32, 32, by decide, rfl, rfl, rfl, at0 _ _, rfl, rfl, by decide, by decide,
    by decide, by decide, by decide, rfl⟩,
   ⟨job false (objectCore [] [.ok 16, .ok 32] 0), objectCore [] [.ok 16, .ok 32] 0, 16, 32, memLeaf, 0x100000, objectCore [] [.ok 16, .ok 32] 0, 5, by decide, rfl, rfl,
    objectZero _ _ _, rfl, by decide, by decide⟩,
   ⟨job false (objectCore [] [.ok 32, .ok 0] 0), objectCore [] [.ok 32, .ok 0] 0, 32, 0, memLeaf, 0x100000, objectCore [] [.ok 32, .ok 0] 0, 5, by decide, rfl, rfl,
    objectZero _ _ _, rfl, by decide, by decide, rfl⟩,
   ⟨job false (objectCore [holdZero true] [] 0), 0, objectCore [holdZero true] [] 0, memLeaf, 0x100000, objectCore [holdZero true] [] 0, 5, rfl, rfl, objectZero _ _ _, rfl,
    by decide +kernel⟩,
   ⟨job false (objectCore [] [] 0), 0, objectCore [] [] 0, memLeaf, 0x100000, objectCore [] [] 0, 5, rfl, rfl, objectZero _ _ _, rfl, by decide +kernel⟩⟩

theorem witness_wait_queues :
    (∃ s va c1 w r, Unlocked (kind s) (own s) [0] [] ∧ readX (kind s) (own s) 0 = .ok (va, c1) ∧ c1.replies = .ok w :: r) ∧
    (∃ s va c1 e phys c2 serial g, readX (kind s) (own s) 0 = .ok (va, c1) ∧ c1.replies = [] ∧ objectAt s c1 .none va e phys c2 ∧ objectClean s phys = true ∧
      memberOfGang s c2 serial g ∧ memRead s (nodeAt g (memberOf g.first s.cur) + 8) 8 = 2 ^ 63) ∧
    (∃ s va c1 e phys c2 serial g, readX (kind s) (own s) 0 = .ok (va, c1) ∧ c1.replies = [] ∧ objectAt s c1 .none va e phys c2 ∧ objectClean s phys = true ∧
      memberOfGang s c2 serial g ∧ memRead s (nodeAt g (memberOf g.first s.cur) + 8) 8 < 2 ^ 63 ∧ plainPage e ∧ nodeAt g (memberOf g.first s.cur) < 2 ^ 64 ∧
      memRead s (phys + 0x10) 8 = 0 ∧ nodeAt g (memberOf g.first s.cur) + 16 ≤ phys) ∧
    (∃ s va n c1 c2 e phys c3, Unlocked (kind s) (own s) [0, 8] [] ∧ readX (kind s) (own s) 0 = .ok (va, c1) ∧ readX (kind s) c1 8 = .ok (n, c2) ∧ c2.replies = [] ∧
      objectAt s c2 .none va e phys c3 ∧ objectClean s phys = true ∧ fenceOpen s (agentCode s.cur) 2 = false ∧ memRead s (phys + 0x10) 8 = 0) ∧
    (∃ s va n c1 c2 e phys c3, Unlocked (kind s) (own s) [0, 8] [] ∧ readX (kind s) (own s) 0 = .ok (va, c1) ∧ readX (kind s) c1 8 = .ok (n, c2) ∧ c2.replies = [] ∧
      objectAt s c2 .none va e phys c3 ∧ objectClean s phys = true ∧ fenceOpen s (agentCode s.cur) 2 = false ∧ n.toNat = 1 ∧ memRead s (phys + 0x10) 8 = 0x300800 ∧
      plainPage e ∧ memRead s (memRead s (phys + 0x10) 8 + 8) 8 / 2 ^ 52 % 2 ^ 11 = s.ownPkg ∧ phys + 64 ≤ memRead s (phys + 0x10) 8) ∧
    (∃ s p serial m g, picked s = some p ∧ p.kind = .wake serial m ∧ tfind s.gangs serial = some g ∧ g.state = .running) :=
  ⟨⟨job false (objectCore [] [.ok 0] 0), 0, objectCore [] [.ok 0] 0, 0, [], by decide, rfl, rfl⟩,
   ⟨{ job false (objectCore [] [] 0) with mem := [(0x80F, 0x80)] }, 0, objectCore [] [] 0, memLeaf, 0x100000, objectCore [] [] 0, 1, gangOne, rfl, rfl,
    ⟨⟨rfl, rfl, rfl⟩, rfl⟩, by decide +kernel, ⟨rfl, rfl⟩, by decide +kernel⟩,
   ⟨job false (objectCore [] [] 0), 0, objectCore [] [] 0, memLeaf, 0x100000, objectCore [] [] 0, 1, gangOne, rfl, rfl, objectZero [] [] 0, by decide +kernel, ⟨rfl, rfl⟩,
    by decide +kernel, ⟨rfl, rfl⟩, by decide, by decide +kernel, by decide⟩,
   ⟨job false (objectCore [] [] 1), 0, 1, objectCore [] [] 1, objectCore [] [] 1, memLeaf, 0x100000, objectCore [] [] 1, by decide, rfl, rfl, rfl, objectZero [] [] 1,
    by decide +kernel, rfl, by decide +kernel⟩,
   ⟨{ job false (objectCore [] [] 1) with mem := [(0x100011, 8), (0x100012, 0x30), (0x30080F, 0x80)] }, 0, 1, objectCore [] [] 1, objectCore [] [] 1, memLeaf, 0x100000,
    objectCore [] [] 1, by decide, rfl, rfl, rfl, ⟨⟨rfl, rfl, rfl⟩, rfl⟩, by decide +kernel, rfl, rfl, by decide +kernel, ⟨rfl, rfl⟩, by decide +kernel, by decide +kernel⟩,
   ⟨{ sent (fromOne (.wake 1 0)) with gangs := [(1, { gangOne with state := .running })] }, fromOne (.wake 1 0), 1, 0, { gangOne with state := .running }, rfl, rfl, rfl, rfl⟩⟩

/-! ### Hurdles, tokens, FINISH, BATON -/

/-- A gang of one lane. -/
def laneGang : Gang := { state := .running, baton := 0, bytes := 0, inst := 0, first := 0, lanes := 1, ctx := 5, cfg := 0, scope := 2 }

/-- Context 5 on packages 0 and 1, its gang g of one lane with core c on every core of the lane. -/
def laneJob (g : Gang) (c : Core) : State :=
  { cores := (laneAgents 0 1).map fun a => (agentCode a, c), gangs := [(1, g)], contexts := [(5, { laps := true, running := true, resident := true, pkgs := [0, 1] })] }

/-- HURDLE in a handler, beyond the leg's scope, at its widest scope; its completion; an arrival; SEALREQ. -/
theorem witness_hurdles :
    (∃ i sc form s serial g, hurdleForm i = some (sc, form) ∧ memberOfGang s (own s) serial g ∧ (own s).inHandler = true) ∧
    (∃ i sc form s serial g, hurdleForm i = some (sc, form) ∧ memberOfGang s (own s) serial g ∧ sc.toNat = g.scope + 1) ∧
    (∃ i sc form s serial g, hurdleForm i = some (sc, form) ∧ memberOfGang s (own s) serial g ∧ g.hurdleOn = true ∧ g.hurdleScope ≠ sc) ∧
    (∃ i sc form s serial g, hurdleForm i = some (sc, form) ∧ memberOfGang s (own s) serial g ∧ (own s).inHandler = false ∧ sc.toNat = g.scope ∧
      (g.hurdleOn = true → g.hurdleScope = sc) ∧ (own s).inflight = [] ∧ (own s).scalars = [] ∧ (own s).streams = [] ∧ (own s).lost = []) ∧
    (∃ s : State, ∃ serial, ∃ g : Gang, tfind s.gangs serial = some g ∧ (∀ e ∈ joined s serial g, hurdleReady s e.2 = true ∧ e.2.hurdleScope = g.hurdleScope) ∧
      g.hurdleScope ≠ 1#2 ∧ s.starter.takingOver = false ∧ onLanes g) ∧
    (∃ s : State, ∃ serial, ∃ g : Gang, ∃ pkg, tfind s.gangs serial = some g ∧ pkg ∈ (contextOf s g.ctx).pkgs ∧ pkg ≠ s.ownPkg ∧
      capturedOpen s serial (portOfPkg s pkg) = false ∧ gangAway s g = false) ∧
    (∃ s : State, ∃ serial, ∃ g : Gang, ∃ pkg, tfind s.gangs serial = some g ∧ pkg ∈ (contextOf s g.ctx).pkgs ∧ pkg ≠ s.ownPkg ∧
      capturedOpen s serial (portOfPkg s pkg) = false ∧ gangAway s g = true ∧
      captureUse (contextOf s g.ctx) (portOfPkg s pkg) + 32 ≤ 0x10000) ∧
    (∃ s x, ctxOf s (own s) = some x ∧ (contextOf s x).laps = true) ∧ (∃ s x, ctxOf s (own s) = some x ∧ (contextOf s x).laps = false) :=
  ⟨⟨.hurdle 0, 0, false, laneJob laneGang handling, 1, laneGang, rfl, ⟨rfl, rfl⟩, rfl⟩,
   ⟨.hurdleS 1, 1, true, laneJob { laneGang with scope := 0 } runner, 1, { laneGang with scope := 0 }, rfl, ⟨rfl, rfl⟩, rfl⟩,
   ⟨.hurdle 1, 1, false, laneJob { laneGang with hurdleOn := true } runner, 1, { laneGang with hurdleOn := true }, rfl, ⟨rfl, rfl⟩, rfl, by decide⟩,
   ⟨.hurdleS 2, 2, true, laneJob laneGang runner, 1, laneGang, rfl, ⟨rfl, rfl⟩, rfl, rfl, fun h => (by cases h), rfl, rfl, rfl, rfl⟩,
   ⟨laneJob { laneGang with hurdleOn := true, arrived := membersOf 1 } { runner with wait := .hurdle 0 false }, 1,
    { laneGang with hurdleOn := true, arrived := membersOf 1 }, rfl, fun e h => (by
      rcases List.mem_singleton.mp (show e ∈ [(1, { laneGang with hurdleOn := true, arrived := membersOf 1 })] from h) with rfl
      exact ⟨by decide +kernel, rfl⟩), by decide, rfl, rfl, by decide⟩,
   ⟨laneJob laneGang runner, 1, laneGang, 1, rfl, by decide, by decide, rfl, by decide⟩,
   ⟨laneJob { laneGang with state := .saved } runner, 1, { laneGang with state := .saved }, 1, rfl, by decide, by decide, rfl, by decide, by decide +kernel⟩,
   ⟨laneJob laneGang runner, 5, rfl, rfl⟩, ⟨job false runner, 5, rfl, rfl⟩⟩

/-- A failure reported before the arrival and after it; an arrival behind a captured one; a job-wide hurdle that is complete in a take-over. -/
theorem witness_hurdle_reports :
    (∃ i sc form s serial g q r, hurdleForm i = some (sc, form) ∧ memberOfGang s (own s) serial g ∧ (own s).inHandler = false ∧ sc.toNat ≤ g.scope ∧
      (g.hurdleOn = true → g.hurdleScope = sc) ∧ (own s).inflight = [] ∧ (own s).scalars = [] ∧ (own s).streams = [] ∧ (own s).lost = q :: r ∧
      ∀ k b, (own s).wait ≠ .hurdle k b) ∧
    (∃ i sc form s serial g, hurdleForm i = some (sc, form) ∧ memberOfGang s (own s) serial g ∧ (own s).inHandler = false ∧ sc.toNat ≤ g.scope ∧
      (g.hurdleOn = true → g.hurdleScope = sc) ∧ (own s).inflight = [] ∧ (own s).scalars = [] ∧ (own s).streams = [] ∧ (own s).lost ≠ [] ∧
      ∃ k b, (own s).wait = .hurdle k b) ∧
    (∃ s : State, ∃ serial, ∃ g : Gang, ∃ pkg, tfind s.gangs serial = some g ∧ pkg ∈ (contextOf s g.ctx).pkgs ∧ pkg ≠ s.ownPkg ∧
      capturedOpen s serial (portOfPkg s pkg) = true) ∧
    (∃ s : State, ∃ serial, ∃ g : Gang, tfind s.gangs serial = some g ∧ (∀ e ∈ joined s serial g, hurdleReady s e.2 = true ∧ e.2.hurdleScope = g.hurdleScope) ∧
      g.hurdleScope = 2#2 ∧ s.starter.takingOver = true) :=
  ⟨⟨.hurdle 0, 0, false, laneJob laneGang { runner with lost := [64] }, 1, laneGang, 64, [], rfl, ⟨rfl, rfl⟩, rfl, by decide, fun h => (by cases h), rfl, rfl, rfl, rfl,
    fun k b h => (by cases h)⟩,
   ⟨.hurdle 0, 0, false, laneJob { laneGang with hurdleOn := true } { runner with lost := [64], wait := .hurdle 0 false }, 1, { laneGang with hurdleOn := true }, rfl, ⟨rfl, rfl⟩,
    rfl, by decide, fun _ => rfl, rfl, rfl, rfl, by decide, 0, false, rfl⟩,
   ⟨{ laneJob laneGang runner with net := [flitPacket (portOfPkg (laneJob laneGang runner) 1) 1 (.arrival 1)] }, 1, laneGang, 1, rfl, by decide, by decide, by decide +kernel⟩,
   ⟨{ laneJob { laneGang with hurdleOn := true, hurdleScope := 2, arrived := membersOf 1, jobArrived := [1] } { runner with wait := .hurdle 2 false } with
      starter := { takingOver := true } }, 1, { laneGang with hurdleOn := true, hurdleScope := 2, arrived := membersOf 1, jobArrived := [1] }, rfl, fun e h => (by
      rcases List.mem_singleton.mp (show e ∈ [(1, { laneGang with hurdleOn := true, hurdleScope := 2, arrived := membersOf 1, jobArrived := [1] })] from h) with rfl
      exact ⟨by decide +kernel, rfl⟩), rfl, rfl⟩⟩

/-- Every core of the lane has configuration 0 of the gang's image in slot 1. -/
def tagsOne : Tbl SlotTag := (laneAgents 0 1).map fun a => (slotKey a 1, { image := 0, ctx := 5, cfg := 1, leg := {} })

theorem witness_decisions :
    (∃ s serial g, memberOfGang s (own s) serial g ∧ (own s).inHandler = true) ∧ (∃ s serial g, memberOfGang s (own s) serial g ∧ (own s).inHandler = false ∧ s.starter.takingOver = false) ∧
    (∀ n ∈ [4095, 4096], ∃ s serial g, memberOfGang s (own s) serial g ∧ (own s).inHandler = false ∧ s.starter.takingOver = true ∧ s.starter.notices.length = n) ∧
    (∃ s : State, ∃ serial, ∃ g : Gang, ∃ slot r, tfind s.gangs serial = some g ∧ g.state = .running ∧ g.stopping = false ∧ starterActs s = true ∧ g.applying = none ∧ g.tokens = slot :: r) ∧
    (∃ s : State, ∃ serial, ∃ g : Gang, ∃ slot, tfind s.gangs serial = some g ∧ onLanes g ∧ g.stopping = false ∧ starterActs s = true ∧ g.applying = some slot ∧ gangStopped s g = true ∧
      gangClogged s g = false ∧ ∀ a ∈ laneAgents g.first g.lanes, tagged s (bImage g.bytes) g.ctx slot.toNat a slot.toNat = true) ∧
    (∃ s : State, ∃ serial, ∃ g : Gang, ∃ slot, tfind s.gangs serial = some g ∧ onLanes g ∧ g.stopping = false ∧ starterActs s = true ∧ g.applying = some slot ∧ gangStopped s g = true ∧
      gangClogged s g = true) :=
  ⟨⟨laneJob laneGang handling, 1, laneGang, ⟨rfl, rfl⟩, rfl⟩, ⟨laneJob laneGang runner, 1, laneGang, ⟨rfl, rfl⟩, rfl, rfl⟩,
   fun n _ => ⟨{ laneJob laneGang runner with starter := { takingOver := true, notices := List.replicate n { serial := 1, bytes := 0 } } }, 1, laneGang, ⟨rfl, rfl⟩, rfl, rfl,
     List.length_replicate⟩,
   ⟨laneJob { laneGang with tokens := [3] } runner, 1, { laneGang with tokens := [3] }, 3, [], rfl, rfl, rfl, rfl, rfl, rfl⟩,
   ⟨{ laneJob { laneGang with applying := some 1 } { runner with mode := .stopped } with starter := { slotTags := tagsOne } }, 1,
    { laneGang with applying := some 1 }, 1, rfl, ⟨rfl, by decide⟩, rfl, rfl, rfl, by decide +kernel, by decide +kernel, by decide +kernel⟩,
   ⟨laneJob { laneGang with applying := some 1 } { runner with mode := .stopped, fifoA := [(0, [1])] }, 1,
    { laneGang with applying := some 1 }, 1, rfl, ⟨rfl, by decide⟩, rfl, rfl, rfl, by decide +kernel, by decide +kernel⟩⟩

theorem witness_finish :
    (∃ s, (own s).inHandler = true) ∧ (∃ s, (own s).holdings ≠ []) ∧
    (∃ s, (own s).inHandler = false ∧ (own s).holdings = [] ∧ (own s).sigCtl = true ∧ (own s).checker.armed = true ∧
      (own s).checker.crc ≠ (own s).checker.expected) ∧
    (∃ s l p r, mayFinish s (own s) ∧ (own s).pend = l ++ p :: r ∧ p.cause = .refused ∧ p.posted = true ∧ l ≠ [] ∧
      ∀ t ∈ l, ¬ (t.cause = .refused ∧ t.posted = true)) ∧
    (∃ s serial g, mayFinish s (own s) ∧ ¬ refusalHeld (own s) ∧ memberOfGang s (own s) serial g ∧
      ∃ a ∈ laneAgents g.first g.lanes, a ≠ s.cur ∧ (coreOf s a).mode ≠ .finished) :=
  ⟨⟨tileWith handling, rfl⟩, ⟨tileWith (objectCore [holdZero false] [] 0), by decide⟩,
   ⟨tileWith { runner with sigCtl := true, checker := { crc := 7, armed := true, expected := 8 } }, rfl, rfl, rfl, rfl, by decide⟩,
   ⟨laneJob laneGang { runner with pend := [{ cause := .brk }, { cause := .refused, posted := true }] }, [{ cause := .brk }], { cause := .refused, posted := true }, [], ⟨rfl, rfl, fun h => (by cases h.1), rfl, rfl, rfl,
      fun n h => (by cases h; exact ⟨fun q hq => (by cases hq), rfl, rfl⟩), fun h => absurd rfl (h 0)⟩,
    rfl, rfl, rfl, by decide, by decide⟩,
   ⟨laneJob laneGang runner, 1, laneGang, ⟨rfl, rfl, fun h => (by cases h.1), rfl, rfl, rfl,
      fun n h => (by cases h; exact ⟨fun q hq => (by cases hq), rfl, rfl⟩), fun h => absurd rfl (h 0)⟩, fun ⟨t, h, _⟩ => (by cases h), ⟨rfl, rfl⟩, .tile 63, by decide, by decide, by decide +kernel⟩⟩

/-- Queue 255 of context 5 with n entries. -/
def queueState (n : Nat) (c : Core) : State :=
  { job false c with starter := { queues := [(255, { ctx := 5, bound := true, entries := List.replicate n { bytes := 0, source := .host } })] } }

/-- BATON behind an open remote store, and while Starter firmware is away from its pass. -/
theorem witness_baton_waits :
    (∃ s va q c1 c2, Unlocked (kind s) (own s) [0, 8] [] ∧ readX (kind s) (own s) 0 = .ok (va, c1) ∧ readX (kind s) c1 8 = .ok (q, c2) ∧ q.toNat < 256 ∧
      va.toNat % 128 = 0 ∧ fenceOpen s (agentCode s.cur) 2 = true) ∧
    (∃ s va q c1 c2, Unlocked (kind s) (own s) [0, 8] [] ∧ readX (kind s) (own s) 0 = .ok (va, c1) ∧ readX (kind s) c1 8 = .ok (q, c2) ∧ q.toNat = 255 ∧
      va.toNat % 128 = 0 ∧ fenceOpen s (agentCode s.cur) 2 = false ∧ (queueOf s q.toNat).bound = true ∧ ctxOf s c2 = some (queueOf s q.toNat).ctx ∧
      (queueOf s q.toNat).entries.length = 0 ∧ passAway s = true) :=
  ⟨⟨{ job false (aims 255) with net := [{ src := 0, addr := 0x100000, kind := .store 8 0 memLeaf 0 }] }, 0, 255, aims 255, aims 255, by decide, rfl, rfl, by decide, by decide, by decide +kernel⟩,
   ⟨{ queueState 0 (aims 255) with cores := [(0, aims 255), (agentCode (.starter 0), { runner with pc := 4, code := [(4, 1)] })] }, 0, 255, aims 255, aims 255,
    (by decide : Unlocked .tile (aims 255) [0, 8] []), rfl, rfl, rfl, rfl, by decide +kernel, rfl, rfl, rfl, by decide +kernel⟩⟩

/-- BATON of queue 256, of a misaligned baton, into an unbound queue, into one with 63 entries and with 64; a buffered push. -/
theorem witness_batons :
    (∃ s va q c1 c2, Unlocked (kind s) (own s) [0, 8] [] ∧ readX (kind s) (own s) 0 = .ok (va, c1) ∧ readX (kind s) c1 8 = .ok (q, c2) ∧ q.toNat = 256) ∧
    (∃ s va q c1 c2, Unlocked (kind s) (own s) [5, 8] [] ∧ readX (kind s) (own s) 5 = .ok (va, c1) ∧ readX (kind s) c1 8 = .ok (q, c2) ∧ q.toNat = 255 ∧
      va.toNat % 128 ≠ 0) ∧
    (∃ s va q c1 c2, Unlocked (kind s) (own s) [0, 5] [] ∧ readX (kind s) (own s) 0 = .ok (va, c1) ∧ readX (kind s) c1 5 = .ok (q, c2) ∧ q.toNat < 256 ∧
      va.toNat % 128 = 0 ∧ fenceOpen s (agentCode s.cur) 2 = false ∧ (queueOf s q.toNat).bound = false) ∧
    (∀ n ∈ [63, 64], ∃ s va q c1 c2, Unlocked (kind s) (own s) [0, 8] [] ∧ readX (kind s) (own s) 0 = .ok (va, c1) ∧ readX (kind s) c1 8 = .ok (q, c2) ∧
      q.toNat = 255 ∧ va.toNat % 128 = 0 ∧ fenceOpen s (agentCode s.cur) 2 = false ∧ (queueOf s q.toNat).bound = true ∧
      ctxOf s c2 = some (queueOf s q.toNat).ctx ∧ passAway s = false ∧ (queueOf s q.toNat).entries.length = n) ∧
    (∃ s : State, ∃ l q e r, s.starter.pushBuf = l ++ (q, e) :: r ∧ l ≠ [] ∧ (∀ p ∈ l, 64 ≤ (queueOf s p.1).entries.length) ∧ (queueOf s q).entries.length < 64 ∧
      starterRests s) :=
  ⟨⟨job false (aims 256), 0, 256, aims 256, aims 256, by decide, rfl, rfl, rfl⟩, ⟨job false (aims 255), 2, 255, aims 255, aims 255, by decide, rfl, rfl, rfl, by decide⟩,
   ⟨job false runner, 0, 2, runner, runner, by decide, rfl, rfl, by decide, rfl, rfl, rfl⟩,
   fun n _ => ⟨queueState n (aims 255), 0, 255, aims 255, aims 255, (by decide : Unlocked .tile (aims 255) [0, 8] []), rfl, rfl, rfl, rfl, rfl, rfl, rfl, rfl, by
      show (List.replicate n _).length = n; exact List.length_replicate⟩,
   ⟨{ queueState 64 runner with starter := { (queueState 64 runner).starter with pushBuf := [(255, { bytes := 0, source := .push }), (3, { bytes := 0, source := .push })] } },
    [(255, { bytes := 0, source := .push })], 3, { bytes := 0, source := .push }, [], rfl, by decide, by decide +kernel, by decide +kernel,
    ⟨rfl, rfl, rfl, fun e he h => (by rcases List.mem_singleton.mp he with rfl; cases h)⟩⟩⟩
/-! ### Heats, messages, collectives -/

/-- A core whose TLB holds the memory-side page, x8 = v, answers rs. -/
def memCore (rs : List Reply) (v : Word) : Core := objectCore [] rs v

/-- `job` with other memory, gang and heats. -/
def heatJob (g : Gang) (m : List Host.Cell) (hs : Tbl Heat) (c : Core) : State := { job false c with gangs := [(1, g)], mem := m, heats := hs }

/-- A record of one runner whose argument block is at 0x600, with status b. -/
def record (b : Byte) : List Host.Cell := [(0x100000, b), (0x100002, 1), (0x100003, 1), (0x10004C, 1), (0x100051, 6)].filter fun e => e.2 != 0#8

/-- The open heat with handle h. -/
def heatOf (h : Nat) : Heat := { handle := h, ctx := 5, va := 0, leaf := memLeaf, run := 7, deadline := 7 }

theorem heatZero (g : Gang) (m : List Host.Cell) (hs : Tbl Heat) (w : Bool) (v : Word) (hc : g.cfg = 0 := by rfl) (hx : g.ctx = 5 := by rfl) :
    heatAt (heatJob g m hs (memCore [] v)) (memCore [] v) 0 w memLeaf 0x100000 (memCore [] v) := by
  cases g; cases hc; cases hx; cases w <;> exact ⟨rfl, rfl, rfl, rfl, rfl, rfl⟩

/-- HFORK of x0 passes every check that comes before the status, in a core that has the record of `record b`. -/
theorem hforkReaches (b : Byte) (hs : Tbl Heat) (h : memRead (heatJob gangOne (record b) hs (memCore [] 0)) 0x100050 8 = 0x600) :
    let s := heatJob gangOne (record b) hs (memCore [] 0)
    Unlocked (kind s) (own s) [0] [5] ∧ readX (kind s) (own s) 0 = .ok (0, memCore [] 0) ∧ gangOf s (memCore [] 0) = some gangOne ∧
    heatAt s (memCore [] 0) 0 true memLeaf 0x100000 (memCore [] 0) ∧ gangOne.heat = none ∧ fenceOpen s (agentCode s.cur) 2 = false ∧
    (BitVec.ofNat 64 (memRead s 0x100050 8)).toNat % 8 = 0 ∧
    translate s (kind s) (memCore [] 0) { need := .w, kind := .store } (BitVec.ofNat 64 (memRead s 0x100050 8)) = .ok memLeaf 0x100600 (memCore [] 0) ∧
    writeBacksOpen s (agentCode s.cur) (fun x => x / 128 == 0x100600 / 128) = false ∧ (memCore [] 0).lines = [] :=
  ⟨(by decide : Unlocked .tile (memCore [] 0) [0] [5]), rfl, rfl, heatZero _ _ _ _ _, rfl, rfl, by rw [h]; decide, by rw [h]; rfl, rfl, rfl⟩

/-- HFORK: misaligned, homed elsewhere, from a runner, status 1, K of 0, no handle free, and one that opens with handle 1 or 2. -/
theorem witness_hfork :
    (∃ s va c1 g, Unlocked (kind s) (own s) [8] [5] ∧ readX (kind s) (own s) 8 = .ok (va, c1) ∧ gangOf s c1 = some g ∧ c1.replies = [] ∧ va.toNat % 256 ≠ 0) ∧
    (∃ s va c1 g e rec c2, readX (kind s) (own s) 0 = .ok (va, c1) ∧ gangOf s c1 = some g ∧ c1.replies = [] ∧ va.toNat % 256 = 0 ∧
      translate s (kind s) c1 { need := .rw, kind := .atomic } va = .ok e rec c2 ∧ leafM e = true ∧ rec / 2 ^ 48 % 2 ^ 11 ≠ s.ownPkg) ∧
    (∃ s va c1 g e rec c2, readX (kind s) (own s) 0 = .ok (va, c1) ∧ gangOf s c1 = some g ∧ c1.replies = [] ∧ va.toNat % 256 = 0 ∧
      translate s (kind s) c1 { need := .rw, kind := .atomic } va = .ok e rec c2 ∧ leafM e = false) ∧
    (∃ s va c1 g e rec c2, readX (kind s) (own s) 0 = .ok (va, c1) ∧ gangOf s c1 = some g ∧ heatAt s c1 va true e rec c2 ∧ g.heat.isSome = true) ∧
    (∀ q ∈ [(0#8, []), (1#8, []), (0#8, [(0x200000, heatOf 1)])], let s := heatJob gangOne (record q.1) q.2 (memCore [] 0)
      memRead s 0x100050 8 = 0x600 ∧ memRead s 0x100000 1 = q.1.toNat ∧ heatValid s 0x100000 = true ∧
      (queueOf s (queueOfGang s gangOne)).entries.length + memRead s 0x100002 1 ≤ 64 ∧ passAway s = false ∧ ∀ x ∈ s.heats, x.2.handle ≠ 2) ∧
    (∃ s rec, memRead s rec 1 = 0 ∧ heatValid s rec = false) ∧
    (∃ s : State, ∀ h, 1 ≤ h → h < 256 → ∃ x ∈ s.heats, x.2.handle = h) :=
  ⟨⟨job false (memCore [] 128), 128, memCore [] 128, gangOne, by decide, rfl, rfl, rfl, by decide⟩,
    ⟨{ job false (cached (memLeaf ||| (1#128 <<< 108)) []) with routes := [(1, 1)] }, 0, cached (memLeaf ||| (1#128 <<< 108)) [], gangOne, memLeaf ||| (1#128 <<< 108),
      0x1000000100000, cached (memLeaf ||| (1#128 <<< 108)) [], rfl, rfl, rfl, by decide, rfl, by decide, by decide⟩,
    ⟨job false (cached plainLeaf []), 0, cached plainLeaf [], gangOne, plainLeaf, 0x100000, cached plainLeaf [], rfl, rfl, rfl, by decide, rfl, by decide⟩,
    ⟨heatJob { gangOne with heat := some 0x100000 } [] [] (memCore [] 0), 0, memCore [] 0, { gangOne with heat := some 0x100000 }, memLeaf, 0x100000, memCore [] 0,
      rfl, rfl, heatZero _ _ _ _ _, rfl⟩, by decide +kernel, ⟨State.reset, 0x100000, by decide +kernel, by decide +kernel⟩,
    ⟨{ heats := (List.range 256).map fun h => (h, heatOf h) }, fun h _ h2 => ⟨(h, heatOf h), List.mem_map.mpr ⟨h, List.mem_range.mpr h2, rfl⟩, rfl⟩⟩⟩

/-- HFORK into a port whose outbound FIFO is full. -/
theorem witness_hfork_full_port : ∃ c w, Unlocked .tile c [0] [28] ∧ c.tlb = (memCore [] 0).tlb ∧ c.lines = [] ∧
    writeX .tile { c with replies := [] } 28 (BitVec.ofNat 64 1) = .error w :=
  ⟨{ memCore [] 0 with fifoA := [(4, [1, 2, 3, 4])] }, _, by decide, rfl, rfl, rfl⟩

/-- Runner 0, with serial 1, of the heat with handle 1. -/
def runnerGang : Gang := { gangOne with bytes := (2#1024 <<< 88) ||| (1#1024 <<< 664), heat := some 0x100000 }

/-- The open record of two runners, runner 0 with state st and serial 1. -/
def openMem (st : Byte) : List Host.Cell := [(0x100000, 1), (0x100002, 2), (0x100004, 1), (0x100108, st), (0x10010C, 1)].filter fun e => e.2 != 0#8

theorem ownsOne (v : Word) : ownRunner (heatJob runnerGang (openMem 1) [(0x100000, heatOf 1)] (memCore [] v)) 0x100000 1 runnerGang :=
  ⟨by decide +kernel, by decide +kernel,
   (by decide +kernel : bHeat runnerGang.bytes = memRead (heatJob runnerGang (openMem 1) [(0x100000, heatOf 1)] (memCore [] 0)) 0x100004 1),
   (by decide +kernel : memRead (heatJob runnerGang (openMem 1) [(0x100000, heatOf 1)] (memCore [] 0)) 0x10010C 4 % 2 ^ 24 = 1)⟩

/-- HREWARD of another gang, from a settled and a cancelled runner, and of a running one with the largest finite code and with infinity. -/
theorem witness_hreward :
    (∃ s w c1 e rec c2 serial g, Unlocked (kind s) (own s) [0, 8] [] ∧ readX (kind s) (own s) 0 = .ok (0, c1) ∧ readX (kind s) c1 8 = .ok (w, c1) ∧
      heatAt s c1 0 false e rec c2 ∧ memberOfGang s c2 serial g ∧ ¬ ownRunner s rec serial g) ∧
    (∀ w ∈ [0x7F7FFFFF, 0x7F800000], ∃ s c1 e rec c2 serial g, Unlocked (kind s) (own s) [0, 8] [] ∧ readX (kind s) (own s) 0 = .ok (0, c1) ∧
      readX (kind s) c1 8 = .ok (w, c1) ∧ heatAt s c1 0 false e rec c2 ∧ memberOfGang s c2 serial g ∧ ownRunner s rec serial g) ∧
    (∀ st ∈ [1#8, 2, 4], let s := heatJob runnerGang (openMem st) [(0x100000, heatOf 1)] (memCore [] 0x7F800000)
      bRunner runnerGang.bytes = true ∧ bHeat runnerGang.bytes = 1 ∧ memRead s 0x100004 1 = 1 ∧ memRead s 0x10010C 4 % 2 ^ 24 = 1 ∧ runnerState s 0x100000 0 = st.toNat ∧
      memRead s 0x100000 1 = 1 ∧ memRead s 0x100002 1 = 2 ∧ runnerState s 0x100000 1 < 2) ∧
    (∀ st, ∃ h, tfind (heatJob runnerGang (openMem st) [(0x100000, heatOf 1)] (memCore [] 0)).heats 0x100000 = some h ∧ plainPage h.leaf) :=
  ⟨⟨heatJob gangOne (openMem 1) [(0x100000, heatOf 1)] (memCore [] 0), 0, memCore [] 0, memLeaf, 0x100000, memCore [] 0, 1, gangOne, by decide, rfl, rfl,
    heatZero _ _ _ _ _, ⟨rfl, rfl⟩, fun h => absurd h.1 (by decide +kernel)⟩,
   fun w _ => ⟨heatJob runnerGang (openMem 1) [(0x100000, heatOf 1)] (memCore [] w), memCore [] w, memLeaf, 0x100000, memCore [] w, 1, runnerGang,
     ⟨fun r hr _ => by
        have h8 : r = 0 ∨ r = 8 := by simpa using hr
        rcases h8 with rfl | rfl <;> exact ⟨rfl, rfl⟩, fun r hr => by cases hr⟩, rfl, rfl, heatZero _ _ _ _ _, ⟨rfl, rfl⟩, ownsOne w⟩,
   by decide +kernel, fun st => ⟨heatOf 1, rfl, plainMem⟩⟩

/-- HCANCEL with status 0, of index K, of a settled and of a running runner. -/
theorem witness_hcancel :
    (∃ s n c1 e rec c2, Unlocked (kind s) (own s) [0, 8] [] ∧ readX (kind s) (own s) 0 = .ok (0, c1) ∧ readX (kind s) c1 8 = .ok (n, c1) ∧ heatAt s c1 0 true e rec c2 ∧
      memRead s rec 1 = 0) ∧
    (∃ s n c1 e rec c2, Unlocked (kind s) (own s) [0, 8] [] ∧ readX (kind s) (own s) 0 = .ok (0, c1) ∧ readX (kind s) c1 8 = .ok (n, c1) ∧ heatAt s c1 0 true e rec c2 ∧
      memRead s rec 1 ≠ 0 ∧ n.toNat = memRead s (rec + 2) 1) ∧
    (∃ s n c1 e rec c2, Unlocked (kind s) (own s) [0, 8] [] ∧ readX (kind s) (own s) 0 = .ok (0, c1) ∧ readX (kind s) c1 8 = .ok (n, c1) ∧ heatAt s c1 0 true e rec c2 ∧
      memRead s rec 1 ≠ 0 ∧ n.toNat < memRead s (rec + 2) 1 ∧ runnerState s rec n.toNat = 2) ∧
    (∃ s n c1 e rec c2, Unlocked (kind s) (own s) [0, 8] [] ∧ readX (kind s) (own s) 0 = .ok (0, c1) ∧ readX (kind s) c1 8 = .ok (n, c1) ∧ heatAt s c1 0 true e rec c2 ∧
      (∃ h, tfind s.heats rec = some h ∧ plainPage h.leaf) ∧ memRead s rec 1 = 1 ∧ memRead s (rec + 2) 1 = 2 ∧ n.toNat = 1 ∧ runnerState s rec n.toNat < 2 ∧
      runnerState s rec 0 < 2) :=
  ⟨⟨heatJob gangOne [] [] (memCore [] 0), 0, memCore [] 0, memLeaf, 0x100000, memCore [] 0, by decide, rfl, rfl, heatZero _ _ _ _ _, by decide +kernel⟩,
   ⟨heatJob gangOne (openMem 1) [] (memCore [] 2), 2, memCore [] 2, memLeaf, 0x100000, memCore [] 2, by decide, rfl, rfl, heatZero _ _ _ _ _, by decide +kernel,
    by decide +kernel⟩,
   ⟨heatJob gangOne (openMem 2) [] (memCore [] 0), 0, memCore [] 0, memLeaf, 0x100000, memCore [] 0, by decide, rfl, rfl, heatZero _ _ _ _ _, by decide +kernel,
    by decide +kernel, by decide +kernel⟩,
   ⟨heatJob gangOne (openMem 1) [(0x100000, heatOf 1)] (memCore [] 1), 1, memCore [] 1, memLeaf, 0x100000, memCore [] 1, by decide, rfl, rfl, heatZero _ _ _ _ _,
    ⟨heatOf 1, rfl, plainMem⟩, by decide +kernel, by decide +kernel, rfl, by decide +kernel, by decide +kernel⟩⟩

/-- HWAIT answered, of the heat's own runner, with status 0, 1 and 2; the deadline at its nanosecond. -/
theorem witness_hwait :
    (∃ s va c1 w r c2, Unlocked (kind s) (own s) [0] [5] ∧ readX (kind s) (own s) 0 = .ok (va, c1) ∧ c1.replies = .ok w :: r ∧ writeX (kind s) c1 5 w = .ok c2) ∧
    (∃ s c1 e rec c2 serial g, readX (kind s) (own s) 0 = .ok (0, c1) ∧ heatAt s c1 0 false e rec c2 ∧ memberOfGang s c2 serial g ∧ ownRunner s rec serial g) ∧
    (∀ st ∈ [0#8, 1, 2], memRead (heatJob gangOne (record st) [] (memCore [] 0)) 0x100000 1 = st.toNat) ∧
    (∀ m, ∃ c1 e rec c2 serial g, readX .tile (own (heatJob gangOne m [] (memCore [] 0))) 0 = .ok (0, c1) ∧
      heatAt (heatJob gangOne m [] (memCore [] 0)) c1 0 false e rec c2 ∧ memberOfGang (heatJob gangOne m [] (memCore [] 0)) c2 serial g ∧
      ¬ ownRunner (heatJob gangOne m [] (memCore [] 0)) rec serial g) ∧
    (∃ s rec h, tfind s.heats rec = some h ∧ h.deadline ≠ 0 ∧ h.deadline = h.run ∧ plainPage h.leaf ∧ memRead s (rec + 2) 1 = 2) :=
  ⟨⟨job false (memCore [.ok 2] 0), 0, memCore [.ok 2] 0, 2, [], _, by decide, rfl, rfl, rfl⟩,
   ⟨heatJob runnerGang (openMem 1) [(0x100000, heatOf 1)] (memCore [] 0), memCore [] 0, memLeaf, 0x100000, memCore [] 0, 1, runnerGang, rfl, heatZero _ _ _ _ _, ⟨rfl, rfl⟩,
    ownsOne 0⟩,
   by decide +kernel,
   fun m => ⟨memCore [] 0, memLeaf, 0x100000, memCore [] 0, 1, gangOne, rfl, heatZero _ _ _ _ _, ⟨rfl, rfl⟩, fun h => absurd h.1 (by decide +kernel)⟩,
   ⟨heatJob gangOne (openMem 1) [(0x100000, heatOf 1)] (memCore [] 0), 0x100000, heatOf 1, rfl, by decide, rfl, plainMem, by decide +kernel⟩⟩

/-- DSEND answered; to a reserved address and class, to the supervisor, to the last member and one beyond it, from a misaligned operand. -/
theorem witness_dsend :
    (∃ s x y c1 c2 w r, Unlocked (kind s) (own s) [0, 8] [] ∧ readX (kind s) (own s) 0 = .ok (x, c1) ∧ readX (kind s) c1 8 = .ok (y, c2) ∧ c2.replies = .ok w :: r) ∧
    (∃ s x y c1 c2, Unlocked (kind s) (own s) [8, 0] [] ∧ readX (kind s) (own s) 8 = .ok (x, c1) ∧ readX (kind s) c1 0 = .ok (y, c2) ∧ c2.replies = [] ∧
      x.toNat = 2 ^ 27) ∧
    (∃ s x y c1 c2, Unlocked (kind s) (own s) [8, 0] [] ∧ readX (kind s) (own s) 8 = .ok (x, c1) ∧ readX (kind s) c1 0 = .ok (y, c2) ∧ c2.replies = [] ∧
      x.toNat = 2 ^ 13 ∧ kind s ≠ .supervisor) ∧
    (∃ s x y c1 c2 g, Unlocked (kind s) (own s) [8, 0] [] ∧ readX (kind s) (own s) 8 = .ok (x, c1) ∧ readX (kind s) c1 0 = .ok (y, c2) ∧ c2.replies = [] ∧
      gangOf s c2 = some g ∧ g.first + g.lanes ≤ 32 ∧ x.toNat = 64 * g.lanes) ∧
    (∃ s x y c1 c2 g, Unlocked (kind s) (own s) [0, 8] [] ∧ readX (kind s) (own s) 0 = .ok (x, c1) ∧ readX (kind s) c1 8 = .ok (y, c2) ∧ c2.replies = [] ∧
      gangOf s c2 = some g ∧ g.first + g.lanes ≤ 32 ∧ x.toNat < 64 * g.lanes ∧ y.toNat % 2 ^ 20 % 32 ≠ 0) ∧
    (∃ s x y c1 c2 g, Unlocked (kind s) (own s) [8, 0] [] ∧ readX (kind s) (own s) 8 = .ok (x, c1) ∧ readX (kind s) c1 0 = .ok (y, c2) ∧ c2.replies = [] ∧
      gangOf s c2 = some g ∧ g.first + g.lanes ≤ 32 ∧ x.toNat = 64 * g.lanes - 1 ∧ scratchCheck s s.cur (kind s) c2 y = none ∧
      scoreConflict c2.score (boundRanges c2.bufs (fun b => b.vis) 0 32) [] = false) ∧
    (∃ s x y c1 c2 g, Unlocked (kind s) (own s) [8, 0] [] ∧ readX (kind s) (own s) 8 = .ok (x, c1) ∧ readX (kind s) c1 0 = .ok (y, c2) ∧ c2.replies = [] ∧
      gangOf s c2 = some g ∧ x.toNat = 2 ^ 12 + 12 * g.lanes - 1 ∧ scratchCheck s s.cur (kind s) c2 y = none) :=
  ⟨⟨job false { aims 0 with replies := [.ok 0] }, 0, 0, { aims 0 with replies := [.ok 0] }, { aims 0 with replies := [.ok 0] }, 0, [], by decide, rfl, rfl, rfl⟩,
   ⟨job false (aims 0x8000000), 0x8000000, 0, aims 0x8000000, aims 0x8000000, by decide, rfl, rfl, rfl, by decide⟩,
   ⟨job false (aims 0x2000), 0x2000, 0, aims 0x2000, aims 0x2000, by decide, rfl, rfl, rfl, by decide, by decide⟩,
   ⟨job false (aims 128), 128, 0, aims 128, aims 128, gangOne, by decide, rfl, rfl, rfl, rfl, by decide, rfl⟩,
   ⟨job false (aims 16), 0, 16, aims 16, aims 16, gangOne, by decide, rfl, rfl, rfl, rfl, by decide, by decide, by decide⟩,
   ⟨job false (aims 127), 127, 0, aims 127, aims 127, gangOne, by decide, rfl, rfl, rfl, rfl, by decide, rfl, rfl, by decide +kernel⟩,
   ⟨job false (aims 0x1017), 0x1017, 0, aims 0x1017, aims 0x1017, gangOne, by decide, rfl, rfl, rfl, rfl, rfl, rfl⟩⟩

/-- DRECV from a misaligned operand, of an empty queue, of a message; DPOLL. -/
theorem witness_drecv :
    (∃ s y c1, Unlocked (kind s) (own s) [8] [5] ∧ readX (kind s) (own s) 8 = .ok (y, c1) ∧ y.toNat % 2 ^ 20 % 32 ≠ 0) ∧
    (∃ s y c1, Unlocked (kind s) (own s) [0] [5] ∧ readX (kind s) (own s) 0 = .ok (y, c1) ∧ scratchCheck s s.cur (kind s) c1 y = none ∧ c1.recvq = []) ∧
    (∃ s y c1 m r, Unlocked (kind s) (own s) [0] [5] ∧ readX (kind s) (own s) 0 = .ok (y, c1) ∧ scratchCheck s s.cur (kind s) c1 y = none ∧
      c1.recvq = .message m :: r ∧ scoreConflict c1.score [] (rangesOf (seen c1 0 32)) = false ∧
      undoActive s (kind s) c1 = false) ∧
    (∃ s y c1 q r, Unlocked (kind s) (own s) [0] [5] ∧ readX (kind s) (own s) 0 = .ok (y, c1) ∧ scratchCheck s s.cur (kind s) c1 y = none ∧
      c1.recvq = .miss q :: r ∧ scoreConflict c1.score [] (rangesOf (seen c1 0 32)) = false) ∧
    (∃ s y c1 m r, Unlocked (kind s) (own s) [0] [5] ∧ readX (kind s) (own s) 0 = .ok (y, c1) ∧ scratchCheck s s.cur (kind s) c1 y = none ∧
      c1.recvq = .message m :: r ∧ scoreConflict c1.score [] (rangesOf (seen c1 0 32)) = false ∧
      noUndoRoom { c1 with recvq := r } (firstWritten s (kind s) { c1 with recvq := r } (seen c1 0 32))) ∧
    (∃ s c2, Unlocked (kind s) (own s) [] [5] ∧ writeX (kind s) (own s) 5 (BitVec.ofNat 64 (own s).recvq.length) = .ok c2) :=
  ⟨⟨job false (aims 8), 8, aims 8, by decide, rfl, by decide⟩, ⟨job false runner, 0, runner, by decide, rfl, rfl, rfl⟩,
   ⟨job false { runner with recvq := [.message ⟨3, 4⟩] }, 0, { runner with recvq := [.message ⟨3, 4⟩] }, ⟨3, 4⟩, [], by decide, rfl, rfl, rfl, by decide +kernel, rfl⟩,
   ⟨serviceWith { runner with recvq := [.miss ⟨0, 64, 5, 0, .load, 0, false⟩] }, 0, { runner with recvq := [.miss ⟨0, 64, 5, 0, .load, 0, false⟩] }, ⟨0, 64, 5, 0, .load, 0, false⟩, [],
    by decide, rfl, rfl, rfl, by decide +kernel⟩,
   ⟨logging { runner with recvq := [.message ⟨3, 4⟩], undoFill := 0xE000 }, 0, { runner with recvq := [.message ⟨3, 4⟩], undoFill := 0xE000 }, ⟨3, 4⟩, [], by decide, rfl, rfl, rfl,
    by decide +kernel, by unfold noUndoRoom; decide +kernel⟩,
   ⟨job false runner, _, by decide, rfl⟩⟩

/-- A sum of one FP32 element from 0x200 to 0x300, sequence number 0, its status st. -/
def collMem (st : Byte) : List Host.Cell := [(0x100001, 2), (0x100009, 3), (0x100010, 1), (0x100020, st)].filter fun e => e.2 != 0#8

/-- Context 5 with n collectives, memory m. -/
def collJob (m : List Host.Cell) (n : Nat) : State :=
  { job false (memCore [] 0) with mem := m, contexts := [(5, { running := true, resident := true, pages := [memLeaf] })], collectives := List.replicate n { ctx := 5, cfg := 0, desc := BitVec.ofNat 512 (9 * 2 ^ 192), descAt := 0x100400, va := 0x400, leaf := memLeaf, lap := 0 } }

theorem collectiveZero (m : List Host.Cell) (n : Nat) (src dst : Nat) (hs : collSrc (BitVec.ofNat 512 (memRead (collJob m n) 0x100000 64)) = src)
    (hd : collDst (BitVec.ofNat 512 (memRead (collJob m n) 0x100000 64)) = dst) (h : src = 0x200 ∧ (dst = 0x300 ∨ dst = 0x200 ∨ dst = 0x208)) :
    collectiveAt (collJob m n) (memCore [] 0) 0 memLeaf 0x100000 (memCore [] 0) := by
  obtain ⟨rfl, rfl | rfl | rfl⟩ := h
  · exact ⟨memLeaf, memLeaf, ⟨by rw [hs], by rw [hd], memCore [] 0, ⟨by decide, rfl, rfl, rfl, rfl⟩, 0x100200, memCore [] 0, by rw [hs]; rfl, rfl, 0x100300,
      by rw [hd]; rfl, rfl⟩, by decide, by decide, by decide⟩
  · exact ⟨memLeaf, memLeaf, ⟨by rw [hs], by rw [hd], memCore [] 0, ⟨by decide, rfl, rfl, rfl, rfl⟩, 0x100200, memCore [] 0, by rw [hs]; rfl, rfl, 0x100200,
      by rw [hd]; rfl, rfl⟩, by decide, by decide, by decide⟩
  · exact ⟨memLeaf, memLeaf, ⟨by rw [hs], by rw [hd], memCore [] 0, ⟨by decide, rfl, rfl, rfl, rfl⟩, 0x100200, memCore [] 0, by rw [hs]; rfl, rfl, 0x100208,
      by rw [hd]; rfl, rfl⟩, by decide, by decide, by decide⟩

/-- The same core with a second page at 0x1000 that is not on the memory side. -/
def twoPages : Core := { memCore [] 0 with tlb := [{ ctx := 5, leaf := memLeaf }, { ctx := 5, leaf := plainLeaf ||| 1 }] }

theorem transAt {s : State} {k : CoreKind} {c : Core} {ac : AccessClass} {a : Nat} {r : Translation} (n : Nat) (h : a = n)
    (g : translate s k c ac (BitVec.ofNat 64 n) = r) : translate s k c ac (BitVec.ofNat 64 a) = r := h ▸ g

/-- XCOLL of a descriptor at a page that may not be read, of an unaligned src and dst, of a src that no entry covers, and of a descriptor, src and dst that
are not on the memory side; XCOLL behind an open remote store; XWAIT of a page that is not on the memory side. -/
theorem witness_collective_checks :
    (∃ s c1 x, Unlocked (kind s) (own s) [0] [] ∧ readX (kind s) (own s) 0 = .ok (0, c1) ∧ c1.replies = [] ∧
      translate s (kind s) c1 { need := .rw, kind := .atomic } 0 = .fail x ∧ x ≠ .deadlock ∧ (ctxOf s c1).isSome = true) ∧
    (∃ s e phys c2, collDescriptor s (own s) 0 e phys c2 ∧ collSrc (BitVec.ofNat 512 (memRead s phys 64)) % 8 ≠ 0) ∧
    (∃ s e phys c2, collDescriptor s (own s) 0 e phys c2 ∧ collSrc (BitVec.ofNat 512 (memRead s phys 64)) % 8 = 0 ∧ collDst (BitVec.ofNat 512 (memRead s phys 64)) % 8 ≠ 0) ∧
    (∃ s e phys c2 x, collDescriptor s (own s) 0 e phys c2 ∧ translate s (kind s) c2 { need := .r, kind := .atomic }
      (BitVec.ofNat 64 (collSrc (BitVec.ofNat 512 (memRead s phys 64)))) = .fail x ∧ x ≠ .deadlock) ∧
    (∃ s e phys es ed c3, collPages s (own s) 0 e phys es ed c3 ∧ leafM e = false) ∧
    (∃ s e phys es ed c3, collPages s (own s) 0 e phys es ed c3 ∧ leafM e = true ∧ leafM es = false) ∧
    (∃ s e phys es ed c3, collPages s (own s) 0 e phys es ed c3 ∧ leafM e = true ∧ leafM es = true ∧ leafM ed = false) ∧
    (∃ s : State, fenceOpen s (agentCode s.cur) 2 = true ∧ openAt s (agentCode s.cur) 0x100000 64 = false) ∧
    (∃ s e phys c2, Unlocked (kind s) (own s) [0] [] ∧ readX (kind s) (own s) 0 = .ok (0, own s) ∧
      translate s (kind s) (own s) { need := .rw, kind := .atomic } 0 = .ok e phys c2 ∧ unroutable s phys = false ∧ leafM e = false) :=
  ⟨⟨job false (cached noReadLeaf []), cached noReadLeaf [], .perm, by decide, rfl, rfl, rfl, by decide, rfl⟩,
   ⟨collJob [(0x100000, 4)] 0, memLeaf, 0x100000, memCore [] 0, ⟨by decide, rfl, rfl, rfl, rfl⟩, by decide +kernel⟩,
   ⟨collJob [(0x100008, 4)] 0, memLeaf, 0x100000, memCore [] 0, ⟨by decide, rfl, rfl, rfl, rfl⟩, by decide +kernel, by decide +kernel⟩,
   ⟨collJob [(0x100007, 1)] 0, memLeaf, 0x100000, memCore [] 0, .page, ⟨by decide, rfl, rfl, rfl, rfl⟩, transAt (2 ^ 56) (by decide +kernel) rfl, by decide⟩,
   ⟨job false (cached plainLeaf []), plainLeaf, 0x100000, plainLeaf, plainLeaf, cached plainLeaf [], ⟨by decide +kernel, by decide +kernel, cached plainLeaf [],
      ⟨by decide, rfl, rfl, rfl, rfl⟩, 0x100000, cached plainLeaf [], transAt 0 (by decide +kernel) rfl, rfl, 0x100000, transAt 0 (by decide +kernel) rfl, rfl⟩, by decide⟩,
   ⟨{ collJob [(0x100001, 0x12)] 0 with cores := [(0, twoPages)] }, memLeaf, 0x100000, plainLeaf ||| 1, memLeaf, twoPages, ⟨by decide +kernel, by decide +kernel, twoPages,
      ⟨by decide, rfl, rfl, rfl, rfl⟩, 0x100200, { twoPages with tlb := [{ ctx := 5, leaf := plainLeaf ||| 1 }, { ctx := 5, leaf := memLeaf }] }, transAt 0x1200 (by decide +kernel) rfl, rfl,
      0x100000, transAt 0 (by decide +kernel) rfl, rfl⟩, by decide, by decide⟩,
   ⟨{ collJob [(0x100009, 0x13)] 0 with cores := [(0, twoPages)] }, memLeaf, 0x100000, memLeaf, plainLeaf ||| 1,
      { twoPages with tlb := [{ ctx := 5, leaf := plainLeaf ||| 1 }, { ctx := 5, leaf := memLeaf }] }, ⟨by decide +kernel, by decide +kernel, twoPages,
      ⟨by decide, rfl, rfl, rfl, rfl⟩, 0x100000, twoPages, transAt 0 (by decide +kernel) rfl, rfl, 0x100300, transAt 0x1300 (by decide +kernel) rfl, rfl⟩, by decide, by decide, by decide⟩,
   ⟨{ collJob (collMem 0) 0 with net := [{ src := 0, addr := 0x400000, kind := .store 8 0 memLeaf 0 }] }, by decide +kernel, by decide +kernel⟩,
   ⟨job false (cached plainLeaf []), plainLeaf, 0x100000, cached plainLeaf [], by decide, rfl, rfl, rfl, by decide⟩⟩

/-- XCOLL of a bad descriptor, of overlapping ranges, with 15 and 16 collectives; XWAIT on each status; a collective that completes. -/
theorem witness_collectives :
    (∃ s va c1, Unlocked (kind s) (own s) [8] [] ∧ readX (kind s) (own s) 8 = .ok (va, c1) ∧ va.toNat % 64 ≠ 0) ∧
    (∃ s e phys c3 ctx, readX (kind s) (own s) 0 = .ok (0, own s) ∧ collectiveAt s (own s) 0 e phys c3 ∧ ctxOf s (own s) = some ctx ∧
      collBad (BitVec.ofNat 512 (memRead s phys 64)) = true) ∧
    (∃ s e phys c3 ctx, readX (kind s) (own s) 0 = .ok (0, own s) ∧ collectiveAt s (own s) 0 e phys c3 ∧ ctxOf s (own s) = some ctx ∧
      collBad (BitVec.ofNat 512 (memRead s phys 64)) = false ∧ collOverlap (BitVec.ofNat 512 (memRead s phys 64)) (contextOf s ctx).pkgs.length = true) ∧
    (∀ n ∈ [15, 16], ∃ s e phys c3, readX (kind s) (own s) 0 = .ok (0, own s) ∧ collectiveAt s (own s) 0 e phys c3 ∧ ctxOf s (own s) = some 5 ∧ s = collJob (collMem 0) n ∧
      plainPage e) ∧
    (∀ n ∈ [15, 16], let s := collJob (collMem 0) n; let b : BitVec 512 := BitVec.ofNat 512 (memRead s 0x100000 64)
      collBad b = false ∧ collOverlap b (contextOf s 5).pkgs.length = false ∧ (∀ y ∈ s.collectives, collSeq y.desc ≠ collSeq b) ∧
      fenceOpen s (agentCode s.cur) 2 = false ∧ (s.collectives.filter fun y => y.ctx == 5).length = n) ∧
    (∀ m, translate (collJob m 0) .tile (memCore [] 0) { need := .rw, kind := .atomic } 0 = .ok memLeaf 0x100000 (memCore [] 0)) ∧
    (∀ st ∈ [0#8, 1, 2, 3], memRead (collJob (collMem st) 0) 0x100020 8 % 4 = st.toNat) ∧
    memRead (collJob [(0x100020, 3), (0x100021, 4)] 0) 0x100020 8 / 2 ^ 8 % 2 ^ 8 = Cause.page.code.toNat ∧
    (let s := collJob (collMem 1) 1
     let x : Collective := { ctx := 5, cfg := 0, desc := BitVec.ofNat 512 (0x200 + 0x300 * 2 ^ 64 + 2 ^ 128), descAt := 0x100000, va := 0, leaf := memLeaf, lap := 0 }
     dataCaptured s x = false ∧ dataAgrees s x [] = true ∧ collWhole x.desc s.ownPkg (contextOf s 5).pkgs [] [0] = true ∧
     (unitRead s 5 0 { need := .r, scalar := false, memSide := true } (collSrc x.desc) (collBytes x.desc)).toOption = some (List.replicate 4 0#8) ∧
     (collResult x.desc [(s.ownPkg, List.replicate 4 0#8)] [0]).length = 4 ∧ collDst x.desc % 4096 + 4 ≤ 4096 ∧
     (translateFor s 5 0 { need := .w, scalar := false, memSide := true } (collDst x.desc)).toOption = some (memLeaf, 0x100300)) :=
  ⟨⟨job false (memCore [] 32), 32, memCore [] 32, by decide, rfl, by decide⟩,
   ⟨collJob [(0x100001, 2), (0x100009, 3)] 0, memLeaf, 0x100000, memCore [] 0, 5, rfl, collectiveZero _ _ 0x200 0x300 (by decide +kernel) (by decide +kernel) (by decide), rfl,
    by decide +kernel⟩,
   ⟨collJob [(0x100001, 2), (0x100008, 8), (0x100009, 2), (0x100010, 3)] 0, memLeaf, 0x100000, memCore [] 0, 5, rfl,
    collectiveZero _ _ 0x200 0x208 (by decide +kernel) (by decide +kernel) (by decide), rfl, by decide +kernel, by decide +kernel⟩,
   fun n hn => ⟨collJob (collMem 0) n, memLeaf, 0x100000, memCore [] 0, rfl,
    collectiveZero _ _ 0x200 0x300 (by show collSrc (BitVec.ofNat 512 (memRead (collJob (collMem 0) 0) 0x100000 64)) = _; decide +kernel)
      (by show collDst (BitVec.ofNat 512 (memRead (collJob (collMem 0) 0) 0x100000 64)) = _; decide +kernel) (by decide), rfl, rfl, plainMem⟩,
   by decide +kernel, fun m => rfl, by decide +kernel, by decide +kernel, by decide +kernel⟩

/-! ### Laps -/

/-- Context 5 with laps: `job` with the context's record x. -/
def lapJob (x : Context) (c : Core) : State := { job true c with contexts := [(5, x)] }

/-- A context with laps whose lap is 4. -/
def lapFour : Context := { laps := true, running := true, resident := true, undoN := 0x200000, undoSize := 0x100000, lapId := 4 }

/-- A chunk with one record of the sector at 0x100000, logged in lap 3. -/
def oldChunk : Chunk := { mc := 7, south := false, index := 0, lap := 3, records := [{ addr := 0x100000, lap := 3, tile := none, old := 1 }] }

/-- A chunk of tile 0 in lap 4 with records rs. -/
def tileChunk (rs : List UndoRecord) : Chunk := { mc := 384, south := false, index := 0, lap := 4, records := rs }

/-- The chunk is found while it has room. -/
theorem room (rs : List UndoRecord) (n : Nat) (h : n < 16384) (hn : rs.length = n) :
    chunkOf { lapFour with chunks := [tileChunk rs] } 384 false = some (tileChunk rs) := by
  subst hn; simp [chunkOf, lapFour, tileChunk, chunkSize, h]

/-- UNDOSPILL without laps and with; a chunk with room for exactly the two records spilled; a sector whose tag names a lap that ends; an idle job. -/
theorem witness_spill_reclaim_idle :
    (∃ s n serial g, s.cur = .tile n ∧ memberOfGang s (own s) serial g ∧ (contextOf s g.ctx).laps = false) ∧
    (∃ s n serial g h, s.cur = .tile n ∧ memberOfGang s (own s) serial g ∧ (contextOf s g.ctx).laps = true ∧
      chunkOf (contextOf s g.ctx) (384 + n) false = some h ∧ h.records.length + (own s).undoFill / 64 = 0x4000) ∧
    (∃ s : State, ∃ ctx mc, mc ∈ (contextOf s ctx).reclaiming ∧ ∃ h ∈ (contextOf s ctx).chunks, h.mc = mc ∧ h.lap ≠ (contextOf s ctx).lapId.toNat ∧
      ∃ r ∈ h.records, r.tile = none ∧ tget s.lapTags 0#2 ((s.ownPkg * 2 ^ 48 + r.addr) / 32) = lapTag (BitVec.ofNat 32 r.lap)) ∧
    (∀ sealed, ∃ s : State, ∃ ctx, let x := contextOf s ctx
      x.laps = true ∧ x.resident = true ∧ (∀ e ∈ s.gangs, e.2.ctx ≠ ctx) ∧
      (∀ e ∈ s.starter.queues, e.2.bound = true → e.2.ctx = ctx → e.2.entries = [] ∧ e.2.current = none) ∧
      (∀ e ∈ s.starter.pushBuf, (queueOf s e.1).ctx ≠ ctx) ∧ x.sealPending = false ∧ x.idleSealed = sealed) :=
  have ⟨rs, hrs⟩ : ∃ rs : List UndoRecord, rs.length = 16382 := ⟨List.replicate 16382 { addr := 0, lap := 4, tile := none, old := 0 }, List.length_replicate⟩
  ⟨⟨job false runner, 0, 1, gangOne, rfl, ⟨rfl, rfl⟩, rfl⟩,
   ⟨lapJob { lapFour with chunks := [tileChunk rs] } { runner with undoFill := 128 },
    0, 1, gangOne, tileChunk rs, rfl, ⟨rfl, rfl⟩, rfl, room rs 16382 (by decide) hrs, by show rs.length + 128 / 64 = _; rw [hrs]⟩,
   ⟨{ lapJob { lapFour with chunks := [oldChunk], reclaiming := [7] } runner with lapTags := [(0x8000, lapTag 3)] }, 5, 7, .head _, oldChunk, .head _, rfl, by decide,
    _, .head _, rfl, by decide⟩,
   fun sealed => ⟨{ contexts := [(5, { laps := true, resident := true, idleSealed := sealed })] }, 5, rfl, rfl, fun e h => (by cases h), fun e h => (by cases h),
    fun e h => (by cases h), rfl, rfl⟩⟩

/-- UNDOSPILL of an empty area, with no chunk left, and into a chunk of its own. -/
theorem witness_spill_chunks :
    (∃ s n serial g, s.cur = .tile n ∧ memberOfGang s (own s) serial g ∧ (contextOf s g.ctx).laps = true ∧ (own s).undoFill / 64 = 0) ∧
    (∃ s n serial g, s.cur = .tile n ∧ memberOfGang s (own s) serial g ∧ (contextOf s g.ctx).laps = true ∧ 0 < (own s).undoFill / 64 ∧
      chunkOf (contextOf s g.ctx) (384 + n) false = none ∧ freeChunk (contextOf s g.ctx) false = none) ∧
    (∃ s n serial g i, s.cur = .tile n ∧ memberOfGang s (own s) serial g ∧ (contextOf s g.ctx).laps = true ∧ 0 < (own s).undoFill / 64 ∧
      (own s).undoFill / 64 ≤ 0x4000 ∧ chunkOf (contextOf s g.ctx) (384 + n) false = none ∧ freeChunk (contextOf s g.ctx) false = some i) :=
  ⟨⟨lapJob lapFour runner, 0, 1, gangOne, rfl, ⟨rfl, rfl⟩, rfl, rfl⟩,
   ⟨lapJob { lapFour with undoSize := 0 } { runner with undoFill := 64 }, 0, 1, gangOne, rfl, ⟨rfl, rfl⟩, rfl, by decide, rfl, by decide +kernel⟩,
   ⟨lapJob lapFour { runner with undoFill := 64 }, 0, 1, gangOne, 0, rfl, ⟨rfl, rfl⟩, rfl, by decide, by decide, rfl, by decide +kernel⟩⟩

/-- The gang of one lane at a sealing hurdle. -/
def sealingGang : Gang := { laneGang with hurdleOn := true, sealing := true, arrived := membersOf 1, scope := 0 }

theorem witness_at_seal :
    (∃ s : State, ∃ serial, ∃ g : Gang, tfind s.gangs serial = some g ∧ g.state = .running ∧ g.stopping = false ∧ g.atSeal = false ∧ g.hurdleOn = true ∧
      g.sealing = true ∧ sealArrived s serial g = true ∧ gangDirty s g = true) ∧
    (∃ s : State, ∃ serial, ∃ g : Gang, tfind s.gangs serial = some g ∧ g.state = .running ∧ g.stopping = false ∧ g.atSeal = false ∧ g.hurdleOn = true ∧
      g.sealing = true ∧ sealArrived s serial g = true ∧ gangDirty s g = false ∧ gangQuiet s g = true) :=
  ⟨⟨laneJob sealingGang { runner with wait := .hurdle 0 true, lines := [(0, dirtyLine)] }, 1, sealingGang, rfl, rfl, rfl, rfl, rfl, rfl, by decide +kernel, by decide +kernel⟩,
   ⟨laneJob sealingGang { runner with wait := .hurdle 0 true }, 1, sealingGang, rfl, rfl, rfl, rfl, rfl, rfl, by decide +kernel, by decide +kernel, by decide +kernel⟩⟩

/-- A seal that may commit, with a member whose logged bits belong to the context. -/
theorem witness_commit : ∃ s : State, ∃ ctx, ∃ a, ∃ serial, ∃ g : Gang,
    sealReady s ctx = true ∧ (∀ e ∈ s.heats, e.2.ctx ≠ ctx) ∧ (contextOf s ctx).stagedWrites = [] ∧ (contextOf s ctx).stagedRecords = [] ∧
    (contextOf s ctx).heldRecords = [] ∧ (contextOf s ctx).heldSteps = [] ∧ (coreOf s a).logCtx = some ctx ∧ (coreOf s a).logged ≠ [] ∧
    tfind s.gangs serial = some g ∧ g.ctx = ctx ∧ g.atSeal = true ∧ onLanes g :=
  ⟨laneJob { sealingGang with atSeal := true } { runner with wait := .hurdle 0 true, logCtx := some 5, logged := [3] }, 5, .tile 63, 1, { sealingGang with atSeal := true },
   by decide +kernel, fun e h => (by cases h), rfl, rfl, rfl, rfl, by decide, by decide, rfl, rfl, rfl, ⟨rfl, by decide⟩⟩

/-- A lap of context 5 to be rolled back for the nth time; its one chunk holds the records rs. -/
def undone (n : Nat) (rs : List UndoRecord) (x : Context) : State :=
  { contexts := [(5, { x with laps := true, running := true, resident := true, undoN := 0x200000, undoSize := 0x100000, lapId := 4, rollbacks := n, trigger := some .ue, chunks := [{ oldChunk with lap := 4, records := rs }] })] }

/-- Two records of one sector; only the older comes first. -/
def twoRecords : List UndoRecord := [{ addr := 0x100000, lap := 4, tile := none, old := 1 }, { addr := 0x100000, lap := 4, tile := none, old := 2 }]

/-- At the limit of 3, and below it by one; by a limit of its own; from a seal with a gang; with a record, and with an unlogged sector, in error. -/
theorem witness_rollback :
    (∃ s ctx, rollbackDue s ctx ∧ lostForGood s ctx ∧ (contextOf s ctx).stopped = none) ∧
    (∃ s ctx, rollbackDue s ctx ∧ ¬ lostForGood s ctx ∧ rollbackLimit (contextOf s ctx) = (contextOf s ctx).rollbacks ∧ (contextOf s ctx).stopped = none) ∧
    (∃ s ctx, rollbackDue s ctx ∧ ¬ lostForGood s ctx ∧ (contextOf s ctx).rollbacks < rollbackLimit (contextOf s ctx) ∧ (contextOf s ctx).stopped = none ∧ undoLost (repairPages s ctx) ctx = true) ∧
    (∃ s ctx, rollbackDue s ctx ∧ ¬ lostForGood s ctx ∧ (contextOf s ctx).rollbacks < rollbackLimit (contextOf s ctx) ∧ undoLost (repairPages s ctx) ctx = false ∧
      lostSectors (repairPages s ctx) ctx ≠ [] ∧ nothingUnderway s ctx) ∧
    (∀ limit ∈ [0, 3], ∃ s ctx, rollbackDue s ctx ∧ ¬ lostForGood s ctx ∧ nothingUnderway s ctx ∧ (contextOf s ctx).rollbacks + 1 = rollbackLimit (contextOf s ctx) ∧ (contextOf s ctx).limit = limit ∧ s.poisoned = [] ∧
      (∀ e ∈ s.gangs, e.2.ctx ≠ ctx) ∧ (contextOf s ctx).current = none ∧
      (∀ r ∈ lapUndo s ctx, r.tile = none ∧ r.dup = false ∧ r.addr % 32 = 0) ∧
      ∃ l r l', lapUndo s ctx = l ++ r :: l' ∧ l' ≠ [] ∧ (∀ q ∈ l, q.addr ≠ r.addr)) ∧
    (∃ s ctx, rollbackDue s ctx ∧ ¬ lostForGood s ctx ∧ nothingUnderway s ctx ∧ let kept := (contextOf s ctx).current.getD {}
      (contextOf s ctx).rollbacks < rollbackLimit (contextOf s ctx) ∧ s.poisoned = [] ∧ kept.held = [] ∧
      kept.gangs ≠ []) :=
  have ue : ∀ s ctx, (contextOf s ctx).trigger = some .ue → ¬ lostForGood s ctx := fun s ctx h g => by have e := g.1; rw [h] at e; cases e
  have still : ∀ s ctx, s.gangs = [] → s.net = [] → (∀ c ∈ areaCores s ctx, areaLost c = false) → nothingUnderway s ctx := fun s ctx hg hn ha =>
    ⟨fun e he => (by rw [hg] at he; cases he), fun p hp => (by rw [hn] at hp; cases hp), ha⟩
  ⟨⟨{ undone 0 [] {} with contexts := [(5, { laps := true, trigger := some .remoteLost, pkgs := [0, 1] })] }, 5, ⟨rfl, .inl rfl⟩, ⟨rfl, 1, by decide, by decide, rfl⟩, rfl⟩,
   ⟨undone 3 [] {}, 5, ⟨rfl, .inl rfl⟩, ue _ _ rfl, rfl, rfl⟩,
   ⟨{ undone 0 twoRecords {} with poisoned := [0x200000 / 32] }, 5, ⟨rfl, .inl rfl⟩, ue _ _ rfl, by decide, rfl, by decide +kernel⟩,
   ⟨{ undone 0 twoRecords { pages := [memLeaf] } with poisoned := [0x100040 / 32] }, 5, ⟨rfl, .inl rfl⟩, ue _ _ rfl, by decide, by decide +kernel, by decide +kernel,
    still _ _ rfl rfl (by decide +kernel)⟩,
   fun limit h => ⟨undone 2 twoRecords { limit := limit }, 5, ⟨rfl, .inl rfl⟩, ue _ _ rfl, still _ _ rfl rfl (by rcases List.mem_pair.mp h with rfl | rfl <;> decide +kernel), (by rcases List.mem_pair.mp h with rfl | rfl <;> rfl), rfl, rfl, fun e h => (by cases h), rfl,
     (by rcases List.mem_pair.mp h with rfl | rfl <;> decide +kernel), [], _, _, (by rcases List.mem_pair.mp h with rfl | rfl <;> rfl), by decide, fun q h => (by cases h)⟩,
   ⟨undone 0 [] { current := some { gangs := [{ serial := 1, gang := laneGang, image := {} }] } }, 5, ⟨rfl, .inl rfl⟩, ue _ _ rfl, still _ _ rfl rfl (by decide +kernel), by decide, rfl, rfl, by decide⟩⟩
/-! ### The Starter -/

/-- The package runs, with context 5 served, queue 255 holding r, and baton 0 as given. -/
def starterState (r : Queue) (bs : Tbl Baton) (now : Nat) : State :=
  { contexts := [(5, { running := true, resident := true, pages := [memLeaf], saveSize := 0x10000000 })], trackTime := BitVec.ofNat 64 now,
    mgmt := { ready := true }, starter := { queues := [(255, r)], batons := bs } }

/-- Baton 0 of queue 255 with these bytes. -/
def headOf (bytes : VWord) (ready : Option Nat) : Baton :=
  { bytes := bytes, ident := 0, queue := 255, ctx := 5, entry := { bytes := bytes, source := .host }, ready := ready }

/-- Queue 255 of context 5 with baton 0 read and n entries. -/
def headQueue (n : Nat) : Queue := { ctx := 5, bound := true, current := some 0, entries := List.replicate n { bytes := 0, source := .host } }

/-- A timed baton for ttime 1,000; one of one lane and one instance; one with its dependency counter at 0x400. -/
def timedBytes : VWord := (4#1024 <<< 88) ||| (1000#1024 <<< 576)
def oneLane : VWord := (1#1024 <<< 64) ||| (0xFF#1024 <<< 72) ||| (1#1024 <<< 96)
def dependent : VWord := 0x400#1024 <<< 192

/-- With one queue bound, whose head waits for a counter at 1, its bit set or not. -/
def waitingState (bound : Bool) (app : BitVec 256) (n : Nat) : State :=
  { starterState { headQueue n with bound := bound } [(0, headOf dependent none)] 0 with
    mem := [(0x100400, 1)], starter := { queues := [(255, { headQueue n with bound := bound })], batons := [(0, headOf dependent none)], pend := 1#256 <<< 255, app := app } }

theorem waitingHeads (bound : Bool) (app : BitVec 256) (n : Nat) : headsWait (waitingState bound app n) := fun q => by
  by_cases h : q = 255
  · subst h
    refine ⟨fun _ => rfl, fun k b hk hb => ?_⟩
    obtain rfl : (0 : Nat) = k := Option.some.inj hk
    obtain rfl : headOf dependent none = b := Option.some.inj hb
    have w : memRead { waitingState true 0 0 with starter := {} } 0x100400 8 = 1 := by decide +kernel
    exact ⟨rfl, rfl, 1, congrArg Except.ok w, by decide⟩
  · have hq : queueOf (waitingState bound app n) q = {} := by
      have : (255 : Nat) ≠ q := fun e => h e.symm
      simp [queueOf, waitingState, starterState, tget, tfind, this]
    rw [hq]; exact ⟨fun e => (by cases e), fun k b hk => (by cases hk)⟩

theorem onlyQueues_waiting (bound : Bool) (app : BitVec 256) (n : Nat) : onlyQueues (waitingState bound app n) :=
  ⟨rfl, ⟨rfl, rfl, rfl, fun e h => (by cases h)⟩, rfl, rfl, rfl, rfl, fun e h => (by cases h), fun e h => (by cases h)⟩

/-- A timed head exactly at its ttime, a head exactly 2 ms old; set bits of an unbound queue, without and with an append, for 63 and 64 entries; a head to be placed. -/
theorem witness_passes :
    (∃ s q n b, headBaton s q = some (n, b) ∧ bTimed b.bytes = true ∧ bTtime b.bytes = s.trackTime.toNat ∧ b.ready = none ∧ b.stage = .head ∧
      b.depMet = true) ∧
    (∃ s q n b since, headBaton s q = some (n, b) ∧ b.ready = some since ∧ since + 2000000 * (b.waited + 1) = s.trackTime.toNat) ∧
    (∀ bound app n, ∃ s, onlyQueues s ∧ headsWait s ∧ s.starter.pend.getLsbD 255 = true ∧ s.starter.app.getLsbD 255 = app ∧ (queueOf s 255).bound = bound ∧
      (queueOf s 255).entries.length = n ∧ s.starter.pend.getLsbD 254 = false) ∧
    (∃ s q n b r e es f off, onlyQueues s ∧ oneReadyHead s q n b r ∧ r.entries = e :: es ∧ s.starter.pend = 0#256 ∧ s.starter.marked = [] ∧
      s.starter.slotTags = [] ∧ laneChoice s b = some f ∧ findBlock (contextOf s b.ctx) (blockSize (bLanes b.bytes)) = some off) :=
  ⟨⟨starterState (headQueue 1) [(0, { headOf timedBytes none with depMet := true })] 1000, 255, 0, { headOf timedBytes none with depMet := true }, rfl, by decide +kernel, by decide +kernel, rfl, rfl, rfl⟩,
   ⟨starterState (headQueue 1) [(0, headOf oneLane (some 500))] 2000500, 255, 0, headOf oneLane (some 500), 500, rfl, rfl, by decide⟩,
   fun bound app n => ⟨waitingState bound (if app then 1#256 <<< 255 else 0) n, onlyQueues_waiting _ _ _, waitingHeads _ _ _, (by show (1#256 <<< 255).getLsbD 255 = true; decide),
     (by cases app <;> simp [waitingState]), rfl, List.length_replicate, (by show (1#256 <<< 255).getLsbD 254 = false; decide)⟩,
   ⟨starterState (headQueue 1) [(0, headOf oneLane (some 0))] 0, 255, 0, headOf oneLane (some 0), headQueue 1, { bytes := 0, source := .host }, [], 0, 0,
    ⟨rfl, ⟨rfl, rfl, rfl, fun e h => (by cases h)⟩, rfl, rfl, rfl, rfl, fun e h => (by cases h), fun e h => (by cases h)⟩,
    ⟨rfl, by decide, rfl, rfl, rfl, rfl, rfl, rfl, rfl, by decide +kernel, rfl, by decide +kernel, by decide +kernel, by decide +kernel⟩, rfl, rfl, rfl, rfl,
    by decide +kernel, by decide +kernel⟩⟩

/-- A page of 64 KiB that may be executed, with a duplicate or without. -/
def imagePage (d : Bool) : Leaf := plainLeaf ||| (1#128 <<< 51) ||| (2#128 <<< 44) ||| (if d then 1#128 <<< 54 else 0)

/-- A container (R70, R71) with one leg of one lane (R72) at 0x1000 and no image: every core of it is loaded with FINISH (R73). -/
def container : List Host.Cell :=
  [(0x100000, 0x49), (0x100001, 0x42), (0x100002, 0x58), (0x100003, 0x31), (0x100004, 1), (0x100006, 2), (0x100009, 0x40), (0x100010, 0x40), (0x100019, 0x20)] ++
  [(0x100040, 1), (0x100049, 0x10), (0x100050, 0x40), (0x100060, 15), (0x100069, 0x20), (0x100070, 0x25), (0x100071, 0x15)] ++
  [(0x101000, 0x4C), (0x101001, 0x45), (0x101002, 0x47), (0x101003, 0x31), (0x101004, 1), (0x101006, 1), (0x101007, 1), (0x101011, 0x10)]

/-- A gang whose image is the leg header at v is being loaded in a context that has checked the container. -/
def loadingState (v : Nat) (d : Bool) : State :=
  { mem := container, gangs := [(1, { laneGang with state := .loading, bytes := BitVec.ofNat 1024 v })],
    contexts := [(5, { laps := true, running := true, pages := [imagePage d], checked := [(0, 0)] })], starter := { batons := [(0, headOf oneLane (some 0))] } }

theorem loadsOk (d : Bool) : ∃ l, loadLeg (loadingState 0x1000 d) 5 0 0x1000 0 false = .ok l := by
  have h : (loadLeg (loadingState 0x1000 d) 5 0 0x1000 0 false).isOk = true := by cases d <;> decide +kernel
  revert h
  cases loadLeg (loadingState 0x1000 d) 5 0 0x1000 0 false with
  | error e => intro h; cases h
  | ok l => exact fun _ => ⟨l, rfl⟩

theorem loadDefect : loadLeg (loadingState 0x10000 false) 5 0 0x10000 0 false = .error .defect := by
  have h : (match loadLeg (loadingState 0x10000 false) 5 0 0x10000 0 false with
    | .error .defect => true
    | _ => false) = true := by decide +kernel
  split at h
  · assumption
  · cases h

/-- A load that reads its image, one that can be retried from the duplicate, one with a defect. -/
theorem witness_load_commit :
    (∃ s : State, ∃ serial, ∃ g : Gang, tfind s.gangs serial = some g ∧ g.state = .loading ∧ starterActs s = true ∧ passAway s = false ∧ g.first + g.lanes ≤ 32 ∧
      (∃ l, loadLeg s g.ctx g.cfg (bImage g.bytes) 0 g.retried = .ok l) ∧ g.retried = false ∧ imageDuplicated s g.ctx (bImage g.bytes) = true ∧
      ∀ e ∈ (contextOf s g.ctx).capture, e.serial ≠ serial ∧ e.serial ≠ 0) ∧
    (∃ s : State, ∃ serial, ∃ g : Gang, ∃ b, tfind s.gangs serial = some g ∧ g.state = .loading ∧ starterActs s = true ∧ passAway s = false ∧ g.first + g.lanes ≤ 32 ∧
      loadLeg s g.ctx g.cfg (bImage g.bytes) 0 g.retried = .error .defect ∧ batonOf s g.baton = some b ∧ g.heat = none) :=
  ⟨⟨loadingState 0x1000 true, 1, _, rfl, rfl, rfl, by decide +kernel, by decide, by
      obtain ⟨l, h⟩ := loadsOk true
      exact ⟨l, (by rw [show bImage _ = 0x1000 from (by decide +kernel)]; exact h)⟩, rfl, by decide +kernel, fun e h => (by cases h)⟩,
   ⟨loadingState 0x10000 false, 1, _, headOf oneLane (some 0), rfl, rfl, rfl, by decide +kernel, by decide, by
      rw [show bImage _ = 0x10000 from (by decide +kernel)]; exact loadDefect, rfl, rfl⟩⟩

/-- A baton in its release, with these bytes and members, its gang's accesses reported lost or not, in a context with laps or held records. -/
def releasing (bytes : VWord) (lost laps : Bool) (held : List HeldRecord) (net : List Packet) : State :=
  { starterState {} [(0, { headOf bytes none with stage := .release, members := [8], lost := lost })] 0 with
    contexts := [(5, { laps := laps, running := true, resident := true, pages := [memLeaf], heldRecords := held })], net := net }

theorem translates {s : State} {ctx : Nat} {cfg : BitVec 8} {ac : AccessClass} {va : Nat} {e : Leaf} (hv : va < 2 ^ 56)
    (hp : pageFor (contextOf s ctx).pages va = some e) (hc : checkLeaf s cfg e ac va = none) (hu : unroutable s (leafPhys e va) = false) :
    translateFor s ctx cfg ac va = .ok (e, leafPhys e va) := by
  have hv' : ¬ 2 ^ 56 ≤ va := Nat.not_le.mpr hv
  simp only [translateFor, hv', if_false, hp, hc, hu, Bool.false_eq_true]

/-- A release in flight; one without a completion word, into a full and a ring with room, and with laps; one with a word at 0x400; one with a failure reported, with and
without laps. -/
theorem witness_releases :
    (∃ s n b, batonOf s n = some b ∧ b.stage = .release ∧ b.byFirmware = false ∧ starterActs s = true ∧ b.lost = false ∧ releaseOpen s n b = true) ∧
    (∀ laps held, ∃ s n b, batonOf s n = some b ∧ b.stage = .release ∧ b.byFirmware = false ∧ starterActs s = true ∧ b.lost = false ∧ releaseOpen s n b = false ∧
      ((contextOf s b.ctx).laps = false ∨ bSealing b.bytes = false) ∧ bSucc0 b.bytes = 0 ∧ bSucc1 b.bytes = 0 ∧ bCword b.bytes = 0 ∧
      (contextOf s b.ctx).laps = laps ∧ (contextOf s b.ctx).heldRecords = held ∧ ringFull (contextOf s b.ctx) = false) ∧
    (∃ s n b e phys, batonOf s n = some b ∧ b.stage = .release ∧ b.byFirmware = false ∧ starterActs s = true ∧ b.lost = false ∧ releaseOpen s n b = false ∧
      ((contextOf s b.ctx).laps = false ∨ bSealing b.bytes = false) ∧ bSucc0 b.bytes = 0 ∧ bSucc1 b.bytes = 0 ∧ bCword b.bytes ≠ 0 ∧ bCword b.bytes % 8 = 0 ∧
      translateFor s b.ctx (bCfg b.bytes) { need := .w } (bCword b.bytes) = .ok (e, phys) ∧ plainPage e) ∧
    (∀ laps, ∃ s n b, batonOf s n = some b ∧ b.stage = .release ∧ b.byFirmware = false ∧ starterActs s = true ∧ b.lost = true ∧
      (contextOf s b.ctx).laps = laps ∧ (contextOf s b.ctx).stopped = none) :=
  ⟨⟨releasing (1#1024 <<< 512) false false [] [{ fromOne (.store 8 0 memLeaf 0) with rel := some 0 }], 0, _, rfl, rfl, rfl, rfl, rfl, by decide +kernel⟩,
   fun laps held => ⟨releasing oneLane false laps held [], 0, _, rfl, rfl, rfl, rfl, rfl, rfl, .inr (by decide +kernel), by decide +kernel, by decide +kernel, by decide +kernel,
     rfl, rfl, by show ((0#32 - 0#32).toNat == 2 ^ 0) = false; decide⟩,
   ⟨releasing (0x400#1024 <<< 384) false true [] [], 0, _, memLeaf, _, rfl, rfl, rfl, rfl, rfl, by decide +kernel, .inr (by decide +kernel), by decide +kernel,
    by decide +kernel, by decide +kernel, by decide +kernel, translates (by decide +kernel) (by decide +kernel) (by decide +kernel) (by decide +kernel), plainMem⟩,
   fun laps => ⟨releasing (2#1024 <<< 512) true laps [] [], 0, _, rfl, rfl, rfl, rfl, rfl, rfl, rfl⟩⟩

/-- A record into a ring with room, whose place translates, with and without a host ring. -/
theorem witness_record : ∀ host ∈ [0#64, 0x1000#64], ∃ s ctx e phys, let x := contextOf s ctx
    x.laps = false ∧ x.heldRecords = [] ∧ ringFull x = false ∧ x.cqHost = host ∧
    translateFor s ctx 0#8 { need := .w, scalar := true } (x.cqBase + 32 * (x.cqProducer.toNat % 2 ^ x.cqS)) = .ok (e, phys) ∧ plainPage e :=
  fun host h => ⟨{ contexts := [(5, { resident := true, pages := [memLeaf], cqHost := host })] }, 5, memLeaf, _, by
    rcases List.mem_pair.mp h with rfl | rfl <;>
      exact ⟨rfl, rfl, by decide +kernel, rfl, translates (by decide +kernel) (by decide +kernel) (by decide +kernel) (by decide +kernel), plainMem⟩⟩

/-- A table with one entry, due at 100 ns, at that time. -/
def dueState (e : TtEntry) (x : Context) : State :=
  { trackTime := 100, contexts := [(5, x)], starter := { ttable := [(63, { e with time := 100, valid := true })] } }

theorem witness_switches :
    (∃ s idx, entryTurn s = some idx ∧ starterActs s = true ∧ s.mgmt.thermalStop = false ∧ passAway s = false ∧ (s.starter.switching = some idx → s.starter.stepped = false) ∧ let e := tget s.starter.ttable {} idx
      e.out = 0xFFFF ∧ e.inn ≠ 0xFFFF ∧ (contextOf s e.inn).resident = true ∧
      ((contextOf s e.inn).running = true ∨ (runningContexts s).length < 4) ∧ (∀ g ∈ s.gangs, g.2.ctx = e.inn → g.2.state ≠ .saved ∧ g.2.stopping = false)) ∧
    (∃ s idx, entryTurn s = some idx ∧ starterActs s = true ∧ s.mgmt.thermalStop = false ∧ passAway s = false ∧ (s.starter.switching = some idx → s.starter.stepped = false) ∧ let e := tget s.starter.ttable {} idx
      e.out = 0xFFFF ∧ e.inn ≠ 0xFFFF ∧ (contextOf s e.inn).resident = false) ∧
    (∃ s idx, entryTurn s = some idx ∧ starterActs s = true ∧ s.mgmt.thermalStop = false ∧ passAway s = false ∧ (s.starter.switching = some idx → s.starter.stepped = false) ∧ let e := tget s.starter.ttable {} idx
      e.out ≠ 0xFFFF ∧ e.inn = 0xFFFF ∧ (∀ p ∈ (contextOf s e.out).pkgs, p = s.ownPkg) ∧ activeGangs s e.out = []) ∧
    (∃ s idx, entryTurn s = some idx ∧ starterActs s = true ∧ s.mgmt.thermalStop = false ∧ passAway s = false ∧ (s.starter.switching = some idx → s.starter.stepped = false) ∧
      let e := tget s.starter.ttable {} idx
      e.out ≠ 0xFFFF ∧ e.inn ≠ e.out ∧ activeGangs s e.out ≠ []) ∧
    (∃ s ctx port, (contextOf s ctx).resident = true ∧ port ∈ jobPorts s ctx) :=
  ⟨⟨dueState { inn := 5 } { resident := true, laps := true }, 63, by decide +kernel, rfl, rfl, rfl, (fun h => by cases h), rfl, by decide, rfl, .inr (by decide +kernel), fun g h => (by cases h)⟩,
   ⟨dueState { inn := 6 } {}, 63, by decide +kernel, rfl, rfl, rfl, (fun h => by cases h), rfl, by decide, rfl⟩,
   ⟨dueState { out := 5 } { running := true }, 63, by decide +kernel, rfl, rfl, rfl, (fun h => by cases h), by decide, rfl, fun p h => (by cases h), rfl⟩,
   ⟨{ dueState { out := 5 } { running := true } with gangs := [(1, laneGang)] }, 63, by decide +kernel, rfl, rfl, rfl, (fun h => by cases h), by decide, by decide, by decide +kernel⟩,
   ⟨{ contexts := [(5, { resident := true, pkgs := [0, 7] })], routes := [(7, 1#24 <<< 23)] }, 5, 23, rfl, by decide +kernel⟩⟩

/-- A running gang, one that stops with an access in flight, and one that has drained. -/
theorem witness_preempt :
    (∃ s : State, ∃ serial, ∃ g : Gang, tfind s.gangs serial = some g ∧ onLanes g ∧ g.heat = none ∧ g.stopping = false) ∧
    (∃ s : State, ∃ serial, ∃ g : Gang, tfind s.gangs serial = some g ∧ onLanes g ∧ g.heat = none ∧ g.stopping = true ∧ drained s g = false) ∧
    (∃ s : State, ∃ serial, ∃ g : Gang, tfind s.gangs serial = some g ∧ onLanes g ∧ g.heat = none ∧ g.stopping = true ∧ drained s g = true ∧
      (∀ a ∈ laneAgents g.first g.lanes, (coreOf s a).lines = []) ∧ ∃ m ∈ membersOf g.lanes, let c := coreOf s (memberAgent g.first m)
      c.inflight = [] ∧ c.scalars = [] ∧ c.landing = false ∧ c.x ≠ Vector.replicate 32 0) :=
  ⟨⟨laneJob laneGang runner, 1, laneGang, rfl, ⟨rfl, by decide⟩, rfl, rfl⟩,
   ⟨{ laneJob { laneGang with stopping := true } runner with net := [fromOne (.store 8 0 memLeaf 0)] }, 1, { laneGang with stopping := true }, rfl, ⟨rfl, by decide⟩, rfl, rfl,
    by decide +kernel⟩,
   ⟨laneJob { laneGang with stopping := true } runner, 1, { laneGang with stopping := true }, rfl, ⟨rfl, by decide⟩, rfl, rfl, by decide +kernel, by decide +kernel, 0x80B,
    by decide +kernel, by decide +kernel⟩⟩

/-- A saved gang with an image. -/
def savedGang : Gang := { laneGang with state := .saved, recorded := true, image := some { cores := [(63, runner)] } }

/-- A saved gang when another has every lane, when its image is in slot 0; a cancelled runner; a holder of an object another gang asks for. -/
theorem witness_restore :
    (∃ s : State, ∃ serial, ∃ g : Gang, ∃ i, tfind s.gangs serial = some g ∧ g.state = .saved ∧ g.image = some i ∧ contextRuns s g.ctx = true ∧ alone s serial g ∧
      lowestRun s g.lanes = none) ∧
    (∃ s : State, ∃ serial, ∃ g : Gang, ∃ i f, tfind s.gangs serial = some g ∧ g.state = .saved ∧ g.image = some i ∧ contextRuns s g.ctx = true ∧ alone s serial g ∧
      lowestRun s g.lanes = some f ∧ g.unloaded = false ∧ (∀ a ∈ laneAgents f g.lanes, tagged s (bImage g.bytes) g.ctx (configOf g) a g.slot.toNat = true) ∧ g.recorded = true) ∧
    (∃ s : State, ∃ serial, ∃ g : Gang, tfind s.gangs serial = some g ∧ g.state = .saved ∧ g.cancelled = true ∧
      (∀ m ∈ membersOf g.lanes, (memberCore s serial m).holdings = [] ∧ (memberCore s serial m).wait = .none)) ∧
    (∃ s : State, ∃ holder waiter, ∃ h w : Gang, ∃ obj, tfind s.gangs holder = some h ∧ tfind s.gangs waiter = some w ∧ Machine.waitsFor s holder waiter = some obj ∧
      starterActs s = true ∧ (contextOf s h.ctx).running = false ∧ alone s holder h ∧ h.resume = false) ∧
    (∀ l, ∃ s : State, ∃ holder waiter, ∃ h w : Gang, ∃ obj, tfind s.gangs holder = some h ∧ tfind s.gangs waiter = some w ∧ Machine.waitsFor s holder waiter = some obj ∧
      starterActs s = true ∧ (contextOf s h.ctx).running = false ∧ alone s holder h ∧ h.resume = true ∧ h.waitPrio = l ∧ h.heat = none) ∧
    (∃ s : State, ∃ holder waiter, ∃ h w : Gang, ∃ obj, tfind s.gangs holder = some h ∧ tfind s.gangs waiter = some w ∧ Machine.waitsFor s holder waiter = some obj ∧
      starterActs s = false) :=
  ⟨⟨{ laneJob savedGang {} with gangs := [(1, savedGang), (2, { laneGang with lanes := 32 })] }, 1, savedGang, _, rfl, rfl, rfl, rfl, (by unfold alone; decide +kernel), by decide +kernel⟩,
   ⟨{ laneJob savedGang {} with starter := { slotTags := (laneAgents 0 1).map fun a => (slotKey a 0, { image := 0, ctx := 5, cfg := 0, leg := {} }) } }, 1, savedGang, _, 0,
    rfl, rfl, rfl, rfl, (by unfold alone; decide +kernel), by decide +kernel, rfl, by decide +kernel, rfl⟩,
   ⟨laneJob { savedGang with cancelled := true } {}, 1, { savedGang with cancelled := true }, rfl, rfl, rfl, by decide +kernel⟩,
   ⟨{ gangs := [(1, savedGang), (2, laneGang)], mem := [(0x100002, 1), (0x10000D, 1)], acqQ := [⟨⟨2, 0⟩, 0x100000, 0, false, memLeaf⟩] }, 1, 2, savedGang, laneGang, 0x100000,
    rfl, rfl, by decide +kernel, rfl, rfl, by unfold alone; decide +kernel, rfl⟩,
   fun l => ⟨{ gangs := [(1, { savedGang with resume := true, waitPrio := l }), (2, laneGang)], mem := [(0x100002, 1), (0x10000D, 1)], acqQ := [⟨⟨2, 0⟩, 0x100000, 0, false, memLeaf⟩] }, 1, 2,
    { savedGang with resume := true, waitPrio := l }, laneGang, 0x100000, rfl, rfl,
    (by show Machine.waitsFor { gangs := [(1, savedGang), (2, laneGang)], mem := [(0x100002, 1), (0x10000D, 1)], acqQ := [⟨⟨2, 0⟩, 0x100000, 0, false, memLeaf⟩] } 1 2 = some 0x100000; decide +kernel),
    rfl, rfl, (fun e he hn _ => by rcases List.mem_pair.mp he with rfl | rfl; exacts [absurd rfl hn, ⟨by decide, rfl⟩]), rfl, rfl, rfl⟩,
   ⟨{ gangs := [(1, savedGang), (2, laneGang)], mem := [(0x100002, 1), (0x10000D, 1)], acqQ := [⟨⟨2, 0⟩, 0x100000, 0, false, memLeaf⟩], starter := { takingOver := true } }, 1, 2, savedGang,
    laneGang, 0x100000, rfl, rfl, by decide +kernel, rfl⟩⟩

/-- An entry of the journal at index 0, with JTAIL 1. -/
def journalled (e : BitVec 256) : State :=
  { starterState {} [] 0 with
    contexts := [(5, { heldRecords := [{ record := 7, seq := none }] })],
    starter := { jtail := 1, ja := [(0, e)], jb := [(0, e)], img := [(0, 3)], queues := [(200, { ctx := 5, bound := true })], pend := 1#256 <<< 200 } }

/-- Entries that are performed, done, stale and at JTAIL itself, of kinds 9 and 1. -/
theorem witness_journal :
    (∃ s seq, seq < 2 ^ 32 ∧ s.starter.performed.contains seq = true ∧ jeKind (entryAt s seq) ≠ 6 ∧ jeKind (entryAt s seq) ≠ 9) ∧
    (∃ s seq, seq < 2 ^ 32 ∧ s.starter.performed.contains seq = false ∧ jeDone (entryAt s seq) = true) ∧
    (∃ s seq, seq < 2 ^ 32 ∧ s.starter.performed.contains seq = false ∧ jeDone (entryAt s seq) = false ∧ jeSeq (entryAt s seq) = seq ∧ belowTail s seq = false) ∧
    (∃ s seq, let e := entryAt s seq
      seq < 2 ^ 32 ∧ s.starter.performed.contains seq = false ∧ jeDone e = false ∧ jeSeq e = seq ∧ belowTail s seq = true ∧ jeKind e = 9 ∧
      (tget s.starter.img 0#256 (seq % 2048)).toNat % 2 ^ 8 ≠ 2 ∧ (contextOf s (jeQ e)).laps = false ∧ (contextOf s (jeQ e)).heldRecords ≠ [] ∧
      recordHeld s (jeQ e) seq = false) ∧
    (∃ s seq, let e := entryAt s seq
      seq < 2 ^ 32 ∧ s.starter.performed.contains seq = false ∧ jeDone e = false ∧ jeSeq e = seq ∧ belowTail s seq = true ∧ jeKind e = 1 ∧ jeQ e < 256 ∧
      s.starter.pend.getLsbD (jeQ e) = true ∧ s.starter.app.getLsbD (jeQ e) = false ∧ (queueOf s (jeQ e)).bound = true) :=
  ⟨⟨{ starter := { performed := [4] } }, 4, by decide, by decide, by decide +kernel, by decide +kernel⟩,
   ⟨journalled (1#256 <<< 40), 0, by decide, by decide, by decide +kernel⟩,
   ⟨{ journalled 0 with starter := {} }, 0, by decide, by decide, by decide +kernel, by decide +kernel, by decide +kernel⟩,
   ⟨journalled (9#256 <<< 32 ||| 5#256 <<< 48), 0, by decide, by decide, by decide +kernel, by decide +kernel, by decide +kernel, by decide +kernel, by decide +kernel,
    by decide +kernel, by decide +kernel, by decide +kernel⟩,
   ⟨journalled (1#256 <<< 32 ||| 200#256 <<< 48), 0, by decide, by decide, by decide +kernel, by decide +kernel, by decide +kernel, by decide +kernel, by decide +kernel,
    by decide +kernel, by decide +kernel, by decide +kernel⟩⟩

/-- Changes that await their acknowledgement, one that has it and one that has not: a release whose baton's stores are still under way. -/
theorem witness_journal_done :
    (∃ s seq, s.starter.performed.contains seq = true ∧ failedRelease s seq = none ∧ s.starter.delayed.contains seq = false ∧ acknowledged s seq = true) ∧
    (∃ s seq, s.starter.performed.contains seq = true ∧ failedRelease s seq = none ∧ s.starter.delayed.contains seq = false ∧ acknowledged s seq = false) :=
  ⟨⟨{ journalled (1#256 <<< 32) with starter := { performed := [0], ja := [(0, 1#256 <<< 32)] } }, 0, by decide, by decide +kernel, by decide, by decide +kernel⟩,
   ⟨{ releasing 0 false false [] [{ fromOne (.store 8 0 memLeaf 0) with rel := some 0 }] with
        starter := { performed := [0], ja := [(0, 6#256 <<< 32)], batons := [(0, { headOf (2#1024 <<< 512) none with stage := .release, members := [8], relSeq := some 0, byFirmware := true })] } },
    0, by decide, by decide +kernel, by decide, by decide +kernel⟩⟩

/-- A gang whose cores wait at a hurdle and whose switches have halted, scanned at 1,000 ns and at 2,000 ns; one whose cores run. -/
def parkedState (now : Nat) (last : Option Nat) (seen : Option (List Nat)) (c : Core) : State :=
  { laneJob { laneGang with scanned := seen } c with trackTime := BitVec.ofNat 64 now, starter := { lastScan := last } }

theorem witness_scan :
    (∃ s : State, ∃ serial, ∃ g : Gang, s.gangs = [(serial, g)] ∧ s.trackTime.toNat % 1000 = 0 ∧ s.starter.lastScan ≠ some s.trackTime.toNat ∧ s.starter.stopped = false ∧
      g.first + g.lanes ≤ 32 ∧ g.state = .running ∧ scanQuiet s serial g = false) ∧
    (∃ s : State, ∃ serial, ∃ g : Gang, s.gangs = [(serial, g)] ∧ s.trackTime.toNat % 1000 = 0 ∧ s.starter.lastScan ≠ some s.trackTime.toNat ∧ s.starter.stopped = false ∧
      g.first + g.lanes ≤ 32 ∧ g.state = .running ∧ scanQuiet s serial g = true ∧ s.starter.lastScan = none) ∧
    (∃ s : State, ∃ serial, ∃ g : Gang, s.gangs = [(serial, g)] ∧ s.trackTime.toNat % 1000 = 0 ∧ s.starter.lastScan ≠ some s.trackTime.toNat ∧ s.starter.stopped = false ∧
      g.first + g.lanes ≤ 32 ∧ g.state = .running ∧ scanQuiet s serial g = true ∧ s.starter.lastScan = some (s.trackTime.toNat - 1000) ∧ 1000 ≤ s.trackTime.toNat ∧
      g.scanned = some (gangSignature s g) ∧ gangStirred s g = false) :=
  ⟨⟨parkedState 1000 none none runner, 1, _, rfl, rfl, (by intro h; cases h), rfl, by decide, rfl, by decide +kernel⟩,
   ⟨parkedState 1000 none none { runner with wait := .hurdle 0 false }, 1, _, rfl, rfl, (by intro h; cases h), rfl, by decide, rfl, by decide +kernel, rfl⟩,
   ⟨parkedState 2000 (some 1000) (some (gangSignature (parkedState 0 none none { runner with wait := .hurdle 0 false }) laneGang)) { runner with wait := .hurdle 0 false }, 1, _, rfl, rfl,
    (by show some 1000 ≠ some 2000; decide), rfl, by decide, rfl, by decide +kernel, rfl, by decide, rfl, by decide +kernel⟩⟩

/-- A take-over without a standby, with one that has a program, and with one that the hardware stands in for. -/
theorem witness_takeover :
    (∃ s : State, s.starter.stopped = false ∧ s.starter.takingOver = false ∧ s.starter.active < 2 ∧ s.starter.standbyOk = false ∧ ∃ e ∈ s.gangs, e.2.state = .running) ∧
    (∃ s : State, s.starter.stopped = false ∧ s.starter.takingOver = false ∧ s.starter.active < 2 ∧ s.starter.standbyOk = true ∧ outstanding s = false ∧ s.starter.performed = [] ∧
      ownReleases s = [] ∧ (coreOf s (.starter (1 - s.starter.active))).code ≠ []) ∧
    (∃ s : State, s.starter.stopped = false ∧ s.starter.takingOver = false ∧ s.starter.active < 2 ∧ s.starter.standbyOk = true ∧ outstanding s = true) ∧
    (∃ s : State, s.starter.stopped = false ∧ s.starter.takingOver = false ∧ s.starter.active = 1 ∧ s.starter.standbyOk = true ∧ outstanding s = false ∧ s.starter.performed = [] ∧
      ownReleases s = [] ∧ (coreOf s (.starter (1 - s.starter.active))).code = [] ∧ s.starter.ja = [] ∧ s.starter.jb = [] ∧ s.starter.pend = 0#256 ∧ starterRests s) :=
  ⟨⟨{ laneJob laneGang runner with starter := { standbyOk := false } }, rfl, rfl, by decide, rfl, (1, laneGang), .head _, rfl⟩,
   ⟨{ cores := [(11, { code := [(0x400, finishWord)] })] }, rfl, rfl, by decide, rfl, by decide +kernel, rfl, by decide +kernel, by decide⟩,
   ⟨{ releasing 0 false false [] [{ fromOne (.store 8 0 memLeaf 0) with rel := some 0 }] with
        starter := { performed := [0], ja := [(0, 6#256 <<< 32)], batons := [(0, { headOf (2#1024 <<< 512) none with stage := .release, members := [8], relSeq := some 0, byFirmware := true })] } },
    rfl, rfl, by decide, rfl, by decide +kernel⟩,
   ⟨{ starter := { active := 1 } }, rfl, rfl, rfl, rfl, by decide +kernel, rfl, by decide +kernel, rfl, rfl, rfl, rfl, rfl, rfl, rfl, fun e h => (by cases h)⟩⟩
/-! ### Host and management -/

/-- Context 21, in slot 5, of a package that is ready. -/
def hostState (x : Context) : State := { contexts := [(21, { x with resident := true })], mgmt := { ready := true } }

theorem witness_host_registers :
    (∃ (w : BitVec 32) (s : State), s.mgmt.ready = true ∧ w.toNat = 2 ^ 9) ∧ (∃ (w : BitVec 32) (s : State), s.mgmt.ready = true ∧ w.toNat = 2 ^ 9 - 1) ∧
    (∃ (q : Nat) (s : State), s.mgmt.ready = true ∧ q = 255 ∧ s.starter.pend.getLsbD q = true ∧ s.starter.app.getLsbD q = true) ∧
    (∃ (q : Nat) (s : State), s.mgmt.ready = true ∧ q = 255 ∧ s.starter.pend.getLsbD q = false) ∧
    (∃ (w : BitVec 32) (s : State), s.mgmt.ready = true ∧ w.toNat < 2 ^ 9 ∧ s.starter.takingOver = true ∧ s.starter.notices.length = 4095) ∧
    (∃ (w : BitVec 32) (s : State), s.mgmt.ready = true ∧ w.toNat < 2 ^ 9 ∧ s.starter.takingOver = true ∧ s.starter.notices.length = 4096) ∧
    (∃ (q : Nat) (s : State), s.mgmt.ready = true ∧ q = 255 ∧ ∃ n ∈ s.starter.notices, n.kind = .kick q true) ∧
    (∃ (q : Nat) (s : State), s.mgmt.ready = true ∧ q = 255 ∧ s.starter.pend.getLsbD q = false ∧ (∀ n ∈ s.starter.notices, n.kind ≠ .kick q true) ∧ s.starter.notices ≠ []) ∧
    (∃ s c, slotContext s c = none) ∧
    (∃ s c ctx, ∃ w : Word, slotContext s c = some ctx ∧ 2 ^ (contextOf s ctx).cqS + 1 = ((contextOf s ctx).cqProducer - w.setWidth 32).toNat) ∧
    (∃ s c ctx, ∃ w : Word, slotContext s c = some ctx ∧ 2 ^ (contextOf s ctx).cqS = ((contextOf s ctx).cqProducer - w.setWidth 32).toNat ∧ (contextOf s ctx).heldRecords = []) ∧
    (∃ s : State, ∃ serial, ∃ g : Gang, tfind s.gangs serial = some g) :=
  ⟨⟨512, hostState {}, rfl, rfl⟩, ⟨511, hostState {}, rfl, rfl⟩,
   ⟨255, { hostState {} with starter := { pend := 1#256 <<< 255, app := 1#256 <<< 255 } }, rfl, rfl, by decide, by decide⟩,
   ⟨255, hostState {}, rfl, rfl, by decide⟩,
   have ⟨ns, hns⟩ : ∃ ns : List Notice, ns.length = 4095 := ⟨List.replicate 4095 { serial := 1, bytes := 0 }, List.length_replicate⟩
   ⟨511, { hostState {} with starter := { takingOver := true, notices := ns } }, rfl, by decide, rfl, hns⟩,
   have ⟨ns, hns⟩ : ∃ ns : List Notice, ns.length = 4096 := ⟨List.replicate 4096 { serial := 1, bytes := 0 }, List.length_replicate⟩
   ⟨511, { hostState {} with starter := { takingOver := true, notices := ns } }, rfl, by decide, rfl, hns⟩,
   ⟨255, { hostState {} with starter := { takingOver := true, notices := [{ kind := .kick 255 true, serial := 0, bytes := 3 }] } }, rfl, rfl, _, .head _, rfl⟩,
   ⟨255, { hostState {} with starter := { takingOver := true, notices := [{ kind := .kick 255 false, serial := 0, bytes := 3 }] } }, rfl, rfl, by decide,
    (fun n h => (by obtain rfl := List.mem_singleton.mp h; decide)), by decide⟩,
   ⟨hostState {}, 4, by decide⟩,
   ⟨hostState { cqS := 6, cqProducer := 3 }, 5, 21, BitVec.ofInt 64 (-62), by decide, by decide⟩,
   ⟨hostState { cqS := 6, cqProducer := 3 }, 5, 21, BitVec.ofInt 64 (-61), by decide, by decide, rfl⟩, ⟨job false runner, 1, gangOne, rfl⟩⟩

/-- Context 21 whose endpoint 2,047 is of 8 bytes at 0x200 with queue 255 and direction byte dir. -/
def endpoints (dir : Byte) : State :=
  { hostState { pages := [imagePage false] } with mem := [(0x10FFE9, 2), (0x10FFF0, 8), (0x10FFF4, dir), (0x10FFF5, 255)].filter fun e => e.2 != 0#8 }

/-- An entry of an in-copy of 8 bytes to 0x200. -/
def copyEntry : BitVec 256 := (0x200#256 <<< 64) ||| (8#256 <<< 128) ||| (1#256 <<< 160) ||| (255#256 <<< 168)

theorem witness_host_transfers :
    (∃ (w : BitVec 32) (s : State), s.mgmt.ready = true ∧ w.toNat < 2 ^ 16 ∧ slotContext s (w.toNat / 2 ^ 12) = none) ∧
    (∃ (w : BitVec 32) (s : State) (ctx : Nat), s.mgmt.ready = true ∧ w.toNat < 2 ^ 16 ∧ slotContext s (w.toNat / 2 ^ 12) = some ctx ∧
      ep (endpoint s ctx (w.toNat % 2 ^ 12)) 0x14 1 % 4 = 2) ∧
    (∃ (w : BitVec 32) (s : State) (ctx : Nat), let e := endpoint s ctx (w.toNat % 2 ^ 12)
      s.mgmt.ready = true ∧ w.toNat < 2 ^ 16 ∧ slotContext s (w.toNat / 2 ^ 12) = some ctx ∧ ep e 0x14 1 = 7 ∧ ep e 0x10 4 ≠ 0 ∧ ep e 0x16 2 = 0 ∧
      (∀ x ∈ s.inCopies, ¬ (x.ctx = ctx ∧ x.endpoint = w.toNat % 2 ^ 12))) ∧
    (∃ s idx x, ∃ words : List Word, ∃ e phys, s.inCopies[idx]? = some x ∧ (∀ y ∈ s.inCopies.take idx, y.ctx ≠ x.ctx) ∧ words.length = ep x.entry 0x10 4 / 8 ∧
      0 < words.length ∧ ep x.entry 0x08 8 % 4096 + 8 * words.length ≤ 4096 ∧
      translateFor s x.ctx 0#8 { need := .w, scalar := false } (ep x.entry 0x08 8) = .ok (e, phys) ∧ plainPage e ∧ ep x.entry 0x18 8 = 0 ∧
      ep x.entry 0x14 1 / 4 % 2 = 0) ∧
    (∃ s : State, ∃ i, ∃ o : OutTransfer, s.outQ[i]? = some o ∧ transferable s i o = true ∧ (∀ j p, j < i → s.outQ[j]? = some p → transferable s j p = false) ∧ i = 1 ∧
      o.bytes.length = 2) :=
  ⟨⟨0x4000, hostState {}, rfl, by decide, by decide⟩, ⟨0x57FF, endpoints 2, 21, rfl, by decide, by decide, by decide +kernel⟩,
   ⟨0x57FF, endpoints 7, 21, rfl, by decide, by decide, by decide +kernel, by decide +kernel, by decide +kernel, fun x h => (by cases h)⟩,
   ⟨{ hostState { pages := [imagePage false] } with inCopies := [{ ctx := 21, endpoint := 3, entry := copyEntry }] }, 0, { ctx := 21, endpoint := 3, entry := copyEntry }, [5],
    imagePage false, _, rfl, fun y h => (by cases h), by decide +kernel, by decide, by decide +kernel,
    translates (by decide +kernel) (by decide +kernel) (by decide +kernel) (by decide +kernel), ⟨by decide, by decide⟩, by decide +kernel, by decide +kernel⟩,
   ⟨{ outQ := [{ ctx := 5, ready := false, serial := 1 }, { ctx := 5, vector := some 5, bytes := [(0, 1), (1, 2)] }] }, 1, { ctx := 5, vector := some 5, bytes := [(0, 1), (1, 2)] },
    rfl, by decide +kernel, fun j p hj hp => (by obtain rfl : j = 0 := (by omega); cases hp; decide +kernel), rfl, rfl⟩⟩

/-- A bundle of version v whose signature block holds bytes. -/
def bundleOf (v : Nat) (block : List Byte) : BundleFacts :=
  { bootImage := [], starterImage := [0x93, 0, 0, 0], svcImage := [], mgmtImage := [], version := v, block := block }

/-- A boot with these bundles, the last member found with one bad row. -/
def bootWith (a b : BundleFacts) (edges hbm : Bool) : BootFacts :=
  { bundleA := a, bundleB := b, dieEdgesOk := edges, hbmOk := hbm, pcieWidth := 8, glUp := 1, march := [{ member := 2431, rows := [(0, 5)], other := false }] }

/-- Whatever block the signature functions admit, some package accepts the bundle: its fuses hold the keys' hashes, and its counter is the bundle's version. The functions
themselves are free (R75 leaves them to their standards), so no block can be named here that they admit. -/
theorem witness_accepted (block : List Byte) (v : Nat) (hv : v < 2 ^ 64) (digest : BitVec 384)
    (hd : digest = Config.bundleDigest [[], [0x93, 0, 0, 0], [], []] v) (hb : ofBytes ((block.drop 8).take 48) = digest.toNat)
    (he : Config.ed25519Verify ((block.drop 0x38).take 32) ((block.drop 0x58).take 64) digest = true)
    (hm : Config.mlDsa65Verify ((block.drop 0x98).take 1952) ((block.drop 0x838).take 3309) digest = true) :
    ∃ s : State, s.mgmt.ready = false ∧ s.mgmt.halted = false ∧ accepted s (bundleOf v block) ∧ ∀ u < v, ¬ accepted s (bundleOf u block) := by
  refine ⟨{ mgmt := { antiRollback := BitVec.ofNat 64 v, edFuses := [(Config.sha384 ((block.drop 0x38).take 32), false)],
                      mlFuses := [(Config.sha384 ((block.drop 0x98).take 1952), false)] } }, rfl, rfl, ?_, fun u hu h => ?_⟩
  · subst hd
    exact ⟨hb, he, hm, .head _, .head _, Nat.mod_le _ _⟩
  · have : v % 2 ^ 64 ≤ u := h.2.2.2.2.2
    omega

/-- A package that boots and one that has booted; bundles a version too old; the last island, that a gang uses or not; steps down 10 µs after the last, 1 ns before, and with
a hotter island; no cap exceeded. -/
theorem witness_boot_and_power :
    (∃ s : State, s.mgmt.ready = true) ∧ (∃ s : State, s.mgmt.ready = false ∧ s.mgmt.halted = true) ∧
    (∃ f : BootFacts, ∃ s : State, s.mgmt.ready = false ∧ s.mgmt.halted = false ∧ ¬ accepted s f.bundleA ∧ ¬ accepted s f.bundleB) ∧
    (∀ edges hbm, ∃ f : BootFacts, f.dieEdgesOk = edges ∧ f.hbmOk = hbm ∧ ∃ m, f.march = [m] ∧ m.member = 2431 ∧ m.rows.length ≤ 4) ∧
    (∃ i, ∃ s : State, i < 76 ∧ islandUsed s i = true) ∧ (∃ i s, i = 75 ∧ islandUsed s i = false) ∧
    (∃ i freq, ∃ s : State, ∃ at', i < 64 ∧ tget s.mgmt.islands (10, false) i = (freq, false) ∧ 0 < freq ∧ tfind s.mgmt.stepped i = some at' ∧ s.trackTime.toNat + 1 = at' + 10000) ∧
    (∃ i freq, ∃ s : State, i < 64 ∧ tget s.mgmt.islands (10, false) i = (freq, false) ∧ 0 < freq ∧ ¬ overLimit s) ∧
    (∃ i freq, ∃ s : State, i < 64 ∧ tget s.mgmt.islands (10, false) i = (freq, false) ∧ 0 < freq ∧ ∃ k, k < 64 ∧ canStep s k = true ∧ tempOf s i < tempOf s k) ∧
    (∃ i freq, ∃ s : State, i < 64 ∧ tget s.mgmt.islands (10, false) i = (freq, false) ∧ 0 < freq ∧
      (∀ at', tfind s.mgmt.stepped i = some at' → at' + 10000 ≤ s.trackTime.toNat) ∧ tfind s.mgmt.stepped i ≠ none ∧ overLimit s ∧
      ∀ k, k < 64 → canStep s k = true → tempOf s k ≤ tempOf s i) :=
  ⟨⟨{ mgmt := { ready := true } }, rfl⟩, ⟨{ mgmt := { halted := true } }, rfl, rfl⟩,
   ⟨bootWith (bundleOf 3 []) (bundleOf 2 []) true true, { mgmt := { antiRollback := 4 } }, rfl, rfl, fun h => absurd h.2.2.2.2.2 (by decide), fun h => absurd h.2.2.2.2.2 (by decide)⟩,
   fun edges hbm => ⟨bootWith (bundleOf 4 []) (bundleOf 4 []) edges hbm, rfl, rfl, _, rfl, rfl, by decide⟩,
   ⟨0, laneJob laneGang runner, by decide, by decide +kernel⟩, ⟨75, laneJob laneGang runner, rfl, by decide +kernel⟩,
   ⟨63, 10, { trackTime := 19999, mgmt := { stepped := [(63, 10000)] } }, 10000, by decide, rfl, by decide, rfl, rfl⟩,
   ⟨63, 10, { mgmt := { power := 5, powerCap := 5, temps := [(63, 105)] } }, by decide, rfl, by decide, by unfold overLimit; decide⟩,
   ⟨63, 10, { mgmt := { temps := [(0, 106)] } }, by decide, rfl, by decide, 0, by decide, by decide, by decide⟩,
   ⟨63, 1, { trackTime := 20000, mgmt := { power := 6, powerCap := 5, temps := [(63, 90)], islands := [(63, (1, false))], stepped := [(63, 10000)] } }, by decide, rfl, by decide,
    fun a h => (by cases h; decide), by decide, .inl (by decide), by decide +kernel⟩⟩

/-- A context that may be created, one refused for its slot; a context with a saved gang to be torn down; a core frozen on a quota. -/
theorem witness_contexts :
    (∃ ctx, ∃ s : State, s.mgmt.ready = true ∧ ctx = 65535 ∧ (contextOf s ctx).resident = false ∧ (∀ e ∈ s.contexts, e.2.resident = true → e.1 ≠ ctx → e.1 % 16 ≠ ctx % 16)) ∧
    (∃ ctx, ∃ s : State, s.mgmt.ready = true ∧ ctx < 65536 ∧ ∃ e ∈ s.contexts, e.2.resident = true ∧ e.1 ≠ ctx ∧ e.1 % 16 = ctx % 16) ∧
    (∃ ctx, ∃ s : State, (contextOf s ctx).resident = true ∧ s.gangs ≠ [] ∧ (∀ e ∈ s.gangs, e.2.ctx = ctx → tfind s.gangs e.1 = some e.2 ∧ givesNothingUp s e.1 e.2)) ∧
    (∃ a s ctx, (coreOf s a).mode = .sFreeze ∧ ctxOf s (coreOf s a) = some ctx) ∧
    (∃ q s, q = 255 ∧ (queueOf s q).current = none) ∧ (∃ a, ∃ v : Word, agentExists a = true ∧ v.toNat = 64) ∧
    (∃ phys, ∃ bytes : List Byte, bytes ≠ [] ∧ phys % 2 ^ 47 + bytes.length = 0x4800000000 ∧ phys < 2 ^ 59) :=
  ⟨⟨65535, hostState {}, rfl, rfl, rfl, fun e h _ _ => (by obtain rfl := List.mem_singleton.mp h; decide)⟩,
   ⟨37, hostState {}, rfl, by decide, (21, { resident := true }), .head _, rfl, by decide, rfl⟩,
   ⟨5, { laneJob { savedGang with ctx := 5 } {} with cores := [] }, rfl, by decide, fun e h _ => (by
      obtain rfl := List.mem_singleton.mp h
      exact ⟨rfl, rfl, by decide +kernel⟩)⟩,
   ⟨.tile 0, job true { runner with mode := .sFreeze }, 5, rfl, rfl⟩, ⟨255, {}, rfl, rfl⟩, ⟨.boot, 64, rfl, rfl⟩, ⟨0x4800000000 - 1, [1], by decide, by decide, by decide⟩⟩

/-- Sensors at 114 and at 115 °C; a context that is no longer resident, its key still in its slot and lost; an in-copy during a take-over. -/
theorem witness_trip_and_keys :
    (∃ s : State, s.mgmt.temps = [(3, 114)] ∧ ∀ e ∈ s.mgmt.temps, e.2 < 115) ∧ (∃ s : State, ∃ e ∈ s.mgmt.temps, e.2 = 115) ∧
    (∃ s : State, ∃ e ∈ s.contexts, s.mgmt.ready = true ∧ e.1 % 16 = 5 ∧ e.1 ≠ 5 ∧ (contextOf s 5).resident = false ∧ keyStands s e.1 = true ∧ extentsOf s e.2 ≠ []) ∧
    (∃ s : State, (contextOf s 21).resident = false ∧ (contextOf s 21).key ≠ 0 ∧ keyStands s 21 = false) ∧
    (∃ s : State, ∃ x ∈ s.inCopies, s.starter.takingOver = true ∧ s.starter.notices.length < 4096 ∧ ep x.entry 0x15 1 = 255) :=
  ⟨⟨{ mgmt := { temps := [(3, 114)] } }, rfl, by decide⟩, ⟨{ mgmt := { temps := [(3, 115)] } }, _, .head _, rfl⟩,
   ⟨{ contexts := [(21, { key := 1, saveBase := 0x1000, saveSize := 64 })], mgmt := { ready := true, keySlots := [(5, 1)] } }, _, .head _, rfl, rfl, by decide, rfl,
    by decide +kernel, by decide +kernel⟩,
   ⟨{ contexts := [(21, { key := 1 })], mgmt := { keySlots := [(5, 2)] } }, rfl, by decide, by decide +kernel⟩,
   ⟨{ hostState {} with inCopies := [{ ctx := 21, endpoint := 3, entry := copyEntry }], starter := { takingOver := true } }, _, .head _, rfl, by decide, by decide +kernel⟩⟩

/-- Two armed registers, at count 0 and at 1; sectors with a duplicate, without, and with both copies bad; a peer with packets under way to it. -/
theorem witness_errors :
    (∃ a : Agent, ∃ v : Word, a = .mem 383 ∧ v.toNat < 2 ^ 16 ∧ v.toNat / 8 % 32 = 0 ∧ v.toNat / 2 % 4 = 2) ∧
    (∃ s a, ∃ kind : BitVec 2, (coreOf s a).errInject.toNat % 2 = 1 ∧ (coreOf s a).errInject.toNat / 2 % 4 = kind.toNat ∧ (coreOf s a).errInject.toNat / 2 ^ 8 % 2 ^ 8 = 1) ∧
    (∃ s a, ∃ kind : BitVec 2, (coreOf s a).errInject.toNat % 2 = 1 ∧ (coreOf s a).errInject.toNat / 2 % 4 = kind.toNat ∧ (coreOf s a).errInject.toNat / 2 ^ 8 % 2 ^ 8 = 0) ∧
    (∃ addr s, duplicated s (addr / 32 * 32) = true ∧ poisonedAt s (dupAddr (addr / 32 * 32)) 32 = false) ∧ (∃ addr s, duplicated s (addr / 32 * 32) = false) ∧
    (∃ addr s, duplicated s (addr / 32 * 32) = true ∧ poisonedAt s (dupAddr (addr / 32 * 32)) 32 = true) ∧
    (∃ pkg, ∃ s : State, pkg ≠ s.ownPkg ∧ pkg = 2047 ∧ s.acqQ = [] ∧ (∀ e ∈ s.contexts, pkg ∉ e.2.pkgs) ∧ s.collectives = [] ∧
      ∃ (i : Nat) (p : Packet), s.net[i]? = some p ∧ p.addr < 2 ^ 59 ∧ p.addr / 2 ^ 48 % 2 ^ 11 = pkg ∧ ∃ n v e va, p.kind = .store n v e va) :=
  ⟨⟨.mem 383, 0xFF05, rfl, by decide, by decide, by decide⟩,
   ⟨tileWith { runner with errInject := 0x103 }, .tile 0, 1, by decide, by decide, by decide⟩, ⟨tileWith { runner with errInject := 0x5 }, .tile 0, 2, by decide, by decide, by decide⟩,
   ⟨0x10001F, hostState { pages := [imagePage true] }, by decide +kernel, by decide +kernel⟩, ⟨0x10001F, hostState {}, by decide +kernel⟩,
   ⟨0x10001F, { hostState { pages := [imagePage true] } with poisoned := [(0x100000 + 2 ^ 47) / 32] }, by decide +kernel, by decide +kernel⟩,
   ⟨2047, { net := [{ src := 8, addr := 2047 * 2 ^ 48, kind := .store 8 0 memLeaf 0 }] }, by decide, rfl, rfl, fun e h => (by cases h), rfl, 0, _, rfl, by decide, by decide,
    8, 0, memLeaf, 0, rfl⟩⟩

/-! ### Encodings and memory's form -/

theorem witness_encodings :
    (∃ i nbits w, i.WellFormed = true ∧ encode i = some (nbits, w)) ∧ (∃ w i, decode w = .ok i) ∧ (∃ w i, decodeSwitch w = .ok i) :=
  ⟨⟨.ins 5 6 60 3, 32, _, by decide, rfl⟩, ⟨0x00073141#32, .add 5 6 7, rfl⟩, ⟨shaltWord, _, rfl⟩⟩

/-- A state with one listed byte, whose next step stores another. -/
theorem witness_canonical : ∃ s t, Memory.wf s.mem = true ∧ s.mem ≠ [] ∧ step s = .next t :=
  ⟨{ mem := [(3, 1)], agenda := [.event (.configWrite (.poke 4 [7]))], mgmt := { ready := true } }, _, by decide, by decide, rfl⟩

theorem test_poke_keeps_the_form :
    (match step { mem := [(3, 1), (4, 9)], agenda := [.event (.configWrite (.poke 4 [0]))], mgmt := { ready := true } } with
      | .next t => t.mem
      | _ => []) = [(3, 1)] := by
  decide +kernel

/-! ### Where each form completes -/

/-- The core of a page with M at address 0, register 8 aimed. -/
def cleanJob : State := job false lineCore
/-- A service core with a fill to answer. -/
def fillState : State := serviceWith { runner with fillTarget := some ⟨0, 64, 5, 0, .load, 0, false⟩ }
/-- A service core with a core to clear. -/
def clearState : State := { cores := [(0, lineCore), (2, aims 0x1000)], cur := .svc 0 }
/-- A collective over one FP32 element at 0x200, its descriptor at 0, its status st. -/
def sumMem (st : Byte) : List Host.Cell := [(0x100001, 2), (0x100009, 2), (0x100010, 1), (0x100020, st)].filter fun e => e.2 != 0#8
def sumState (st : Byte) : State := collJob (sumMem st) 0
/-- A quad held by tile 0, which has descriptor d at offset 0. -/
def commandState (d : Nat) : State := quadWith heldQuad (described d)

theorem mappedZero (s : State) (c : Core) (e : Leaf) (va : Word) (w m : Bool) (hk : kind s = .tile) (ht : c.tlb = [{ ctx := 5, leaf := e }])
    (hx : (ctxOf s c).getD 0 = 5) (hp : s.ownPkg = 0) (he : e = plainLeaf ∨ e = memLeaf) (hm : m = true → e = memLeaf) (hv : va.toNat < 4096) :
    mapped s c true w m va e := by
  have bits : pageBits (leafSize e) = 12 ∧ leafVtag e = 0 ∧ leafPkg e = 0 ∧ leafFrame e = 0x100 ∧ leafV e = true ∧ leafCfg e = 0#8 ∧ leafR e = true ∧ leafW e = true ∧
      leafH e = false := by rcases he with rfl | rfl <;> decide
  obtain ⟨hb, ht0, hg, hf, hV, hC, hR, hW, hH⟩ := bits
  have cov : leafCovers e va.toNat = true := by simp [leafCovers, hb, ht0, Nat.div_eq_of_lt hv]
  refine ⟨by rw [hk]; decide, by omega, ⟨[], { ctx := 5, leaf := e }, [], ht, fun x h => (by cases h), hx.symm, cov, rfl⟩, hV, .inl hC, fun _ => hR, fun _ => hW,
    fun h => by rw [hm h]; decide, hH, .inl (hg.trans hp.symm), ?_⟩
  rw [hb, hg, hf, Nat.mod_eq_of_lt (show va.toNat < 2 ^ 12 from hv)]
  exact decide_eq_true (by omega)

theorem witness_cache_tlb_complete :
    (∃ a s e, settled s [a] ∧ mapped s (own s) true false false (val s a) e ∧ s.net = [] ∧ (own s).lines ≠ [] ∧ ∀ l ∈ (own s).lines, l.2.dirty = 0#128) ∧
    (∃ a b s m, settled s [a, b] ∧ kind s = .supervisor ∧ (own s).fillTarget = some m ∧ fillable (val s b ++ val s a) m.va) ∧
    (∃ a s, settled s [a] ∧ kind s = .supervisor ∧ s.net = [] ∧ ∀ c ∈ s.cores, ∀ l ∈ c.2.lines, l.2.dirty = 0#128) :=
  ⟨⟨0, cleanJob, plainLeaf, by unfold settled; decide, mappedZero _ _ _ _ _ _ rfl rfl rfl rfl (.inl rfl) (fun h => nomatch h) (by decide), rfl, by decide, by decide⟩,
   ⟨0, 0, fillState, ⟨0, 64, 5, 0, .load, 0, false⟩, by unfold settled; decide, rfl, rfl, by unfold fillable; decide⟩,
   ⟨8, clearState, by unfold settled; decide, rfl, rfl, by decide⟩⟩

/-- The last queue with 63 entries. -/
def batonState : State := queueState 63 (aims 255)

theorem witness_baton_completes : ∃ a b s, settled s [a, b] ∧ (val s a).toNat % 128 = 0 ∧ (val s b).toNat = 255 ∧ s.net = [] ∧ passAway s = false ∧
    (queueOf s (val s b).toNat).bound = true ∧ ctxOf s (own s) = some (queueOf s (val s b).toNat).ctx ∧ (queueOf s (val s b).toNat).entries.length = 63 :=
  ⟨0, 8, batonState, (by unfold settled; decide), rfl, rfl, rfl, rfl, rfl, rfl, by decide +kernel⟩

theorem oneSum (va : Word) : oneEntry (sumState 0) va := fun d hd e he _ _ _ => by
  have h1 : d = { ctx := 5, leaf := memLeaf } := List.mem_singleton.mp hd
  have h2 : e = { ctx := 5, leaf := memLeaf } := List.mem_singleton.mp he
  rw [h1, h2]

theorem witness_collectives_complete :
    (∃ a s e es ed x, settled s [a] ∧ ctxOf s (own s) = some x ∧ (val s a).toNat % 64 = 0 ∧ mapped s (own s) true true true (val s a) e ∧ plainPage e ∧ s.net = [] ∧
      let d := memRead s (physAt e (val s a)) 64; let f (off n : Nat) : Nat := d / 2 ^ (8 * off) % 2 ^ (8 * n)
      let b : BitVec 512 := BitVec.ofNat 512 d; let src := BitVec.ofNat 64 (collSrc b); let dst := BitVec.ofNat 64 (collDst b)
      mapped s (own s) true false true src es ∧ mapped s (own s) false true true dst ed ∧ oneEntry s (val s a) ∧ oneEntry s src ∧ oneEntry s dst ∧
      src.toNat % 8 = 0 ∧ dst.toNat % 8 = 0 ∧ src = dst ∧ f 0x1C 4 = 0 ∧ f 0x28 24 = 0 ∧ collOp b ≤ 3 ∧ collType b ≤ 3 ∧ collCount b = 1 ∧
      collCount b * collSize (collType b) ≤ 2 ^ 24 ∧ s.collectives = []) ∧
    (∃ a s e, settled s [a] ∧ (val s a).toNat % 64 = 0 ∧ mapped s (own s) true true true (val s a) e ∧ s.net = [] ∧ memRead s (physAt e (val s a) + 0x20) 8 % 4 = 2) := by
  have hb : BitVec.ofNat 64 (collSrc (BitVec.ofNat 512 (memRead (sumState 0) (physAt memLeaf (val (sumState 0) 0)) 64))) = 0x200 ∧
      BitVec.ofNat 64 (collDst (BitVec.ofNat 512 (memRead (sumState 0) (physAt memLeaf (val (sumState 0) 0)) 64))) = 0x200 := by decide +kernel
  have mp : ∀ st va w m, va.toNat < 4096 → mapped (sumState st) (own (sumState st)) true w m va memLeaf := fun st va w m h =>
    mappedZero _ _ _ _ _ _ rfl rfl rfl rfl (.inr rfl) (fun _ => rfl) h
  refine ⟨⟨0, sumState 0, memLeaf, memLeaf, memLeaf, 5, by unfold settled; decide, rfl, by decide, mp _ _ _ _ (by decide), plainMem, rfl, ?_⟩,
    ⟨0, sumState 2, memLeaf, by unfold settled; decide, by decide, mp _ _ _ _ (by decide), rfl, by decide +kernel⟩⟩
  refine ⟨by rw [hb.1]; exact mp _ _ _ _ (by decide), ?_, oneSum _, oneSum _, oneSum _, by decide +kernel, by decide +kernel, hb.1.trans hb.2.symm, by decide +kernel,
    by decide +kernel, by decide +kernel, by decide +kernel, by decide +kernel, by decide +kernel, rfl⟩
  rw [hb.2]
  have h := mp 0 0x200 true true (by decide)
  exact ⟨h.1, h.2.1, h.2.2.1, h.2.2.2.1, h.2.2.2.2.1, fun h => (nomatch h), h.2.2.2.2.2.2⟩

theorem witness_matrix_completes :
    (∃ s m, mayCommand s m) ∧
    (∃ a s m d, settled s [a] ∧ mayCommand s m ∧ descriptorAt s (own s) (val s a) 16 d ∧ cellPasses d) ∧
    (∃ a s m d, settled s [a] ∧ mayCommand s m ∧ undoReserved s (kind s) (own s) = false ∧ descriptorAt s (own s) (val s a) 32 d ∧
      mmaPasses d ((((quadRec s m).cells[tileInQuad m]?).getD none).isSome) (2 ^ 20) ∧ ∀ i, i < 4 → (quadCore s (tileQuad m) i).score = []) ∧
    (∃ a s m d, settled s [a] ∧ mayCommand s m ∧ undoReserved s (kind s) (own s) = false ∧ descriptorAt s (own s) (val s a) 32 d ∧
      drainPasses d (2 ^ 20) ∧ ∀ i, i < 4 → (quadCore s (tileQuad m) i).score = []) :=
  have mc : ∀ d, mayCommand (commandState d) 0 := fun d => ⟨rfl, rfl, Nat.zero_lt_succ _, Or.inl (by show 0 < 16; decide)⟩
  ⟨⟨commandState 0, 0, mc 0⟩, ⟨0, commandState 1, 0, 1, by unfold settled; decide +kernel, mc 1, ⟨rfl, rfl, rfl, by decide +kernel⟩, by unfold cellPasses; decide⟩,
   ⟨0, commandState mmaDesc, 0, mmaDesc, by unfold settled; decide +kernel, mc _, rfl, ⟨rfl, rfl, rfl, by decide +kernel⟩,
    by unfold mmaPasses mmaRefused endsWithin; decide +kernel, by decide⟩,
   ⟨0, commandState 0, 0, 0, by unfold settled; decide +kernel, mc _, rfl, ⟨rfl, rfl, rfl, by decide +kernel⟩,
    by unfold drainPasses drainRefused endsWithin; decide +kernel, by decide⟩⟩
/-- A tile of a gang without laps whose switch has a word for the east and one for SMOV. -/
def switchState : State := job false { switchCore readCursor with fifoA := [(4, [7]), (5, [9])], swCnt := #v[1, 2, 3, 4] }

theorem issuesEast (extra : List Nat) (h : extra = [] ∨ extra = [5]) : issues switchState 0 eastRoute extra :=
  ⟨⟨rfl, by decide, rfl, rfl⟩,
   ⟨fun b src hs => by
      cases b
      · have hs' : src ∈ [6] ++ extra := hs
        rcases h with rfl | rfl
        · rcases List.mem_singleton.mp hs' with rfl; exact List.cons_ne_nil 9 []
        · rcases List.mem_pair.mp hs' with rfl | rfl
          · exact List.cons_ne_nil 9 []
          · exact List.cons_ne_nil 7 []
      · exact absurd (show src ∈ [] from hs) List.not_mem_nil,
    fun b d hd => by
      cases b
      · rcases List.mem_singleton.mp (show d ∈ [some (Agent.tile 32, 11)] from hd) with rfl; exact ⟨_, rfl, (by decide : 0 < 4)⟩
      · rcases List.mem_singleton.mp (show d ∈ [some (Agent.tile 1, 8)] from hd) with rfl; exact ⟨_, rfl, (by decide : 0 < 4)⟩,
    fun v hv => by rcases List.mem_singleton.mp (show v ∈ [(1, false, true)] from hv) with rfl; decide⟩,
   fun v hv => (by rcases List.mem_singleton.mp (show v ∈ [(1, false, true)] from hv) with rfl; exact ⟨⟨rfl, rfl⟩, fun h => absurd h (by decide)⟩),
   fun x hx => (by obtain rfl : (5 : Nat) = x := Option.some.inj hx; rfl)⟩

theorem witness_switch_completes :
    (∀ ix k, ∃ r s n, (Instr.sj r 1023 ix k).WellFormed = true ∧ issues s n r []) ∧
    (∀ m, ∃ r k s n, (Instr.sloop r k m).WellFormed = true ∧ issues s n r []) ∧
    (∀ k dest, ∃ r s n, (Instr.sdbnz r k dest).WellFormed = true ∧ issues s n r [] ∧ cnt (coreOf s (.tile n)) 0 = 1#16 ∧ cnt (coreOf s (.tile n)) 3 ≠ 1#16) ∧
    (∃ r k s n, (Instr.smov r k 5).WellFormed = true ∧ issues s n r [(5#3).toNat]) ∧
    (∃ r m s n, (Instr.scurSwitch r 2 m).WellFormed = true ∧ issues s n r [] ∧ (coreOf s (.tile n)).score = []) ∧
    (∃ r slot s n serial g, (Instr.stok r slot).WellFormed = true ∧ issues s n r [] ∧ s.starter.takingOver = false ∧ (coreOf s (.tile n)).gang = some serial ∧
      tfind s.gangs serial = some g) ∧
    (∃ r s n, (Instr.route r).WellFormed = true ∧ (Instr.swaith r).WellFormed = true ∧ (Instr.shalt r).WellFormed = true ∧ issues s n r []) :=
  ⟨fun ix k => ⟨eastRoute, switchState, 0, by revert ix k; decide, issuesEast _ (.inl rfl)⟩,
   fun m => ⟨eastRoute, 0, switchState, 0, rfl, issuesEast _ (.inl rfl)⟩,
   fun k dest => ⟨eastRoute, switchState, 0, rfl, issuesEast _ (.inl rfl), by decide, by decide⟩,
   ⟨eastRoute, 0, switchState, 0, by decide, issuesEast _ (.inr rfl)⟩, ⟨eastRoute, 5, switchState, 0, by decide, issuesEast _ (.inl rfl), rfl⟩,
   ⟨eastRoute, 3, switchState, 0, 1, gangOne, by decide, issuesEast _ (.inl rfl), rfl, rfl, rfl⟩,
   ⟨eastRoute, switchState, 0, by decide, by decide, by decide, issuesEast _ (.inl rfl)⟩⟩


/-- Memory core 0 moves the fourth word of a run into a FIFO that holds three. -/
def streamState : State := memJob { streamCore [(0, runStream false false)] with fifoA := [(4, [1, 2, 3])] }
/-- Memory core 0 with a stream that has ended, or that has met a fault. -/
def endedState (f : Option Trap) : State := memJob (streamCore [(0, { oneStream false with done := f.isNone, fault := f })])
/-- Quad 0 with one command. -/
def oneCommand (k : CommandKind) (begun : Bool) : State := quadWith { heldQuad with queue := [command k 1 begun] } runner
/-- Quad 0, its lease free, with tile j waiting. -/
def waitingQuad (j : Fin 4) : State := quadWith { lease := (Vector.replicate 4 LeaseState.none).set j .waiting } runner

theorem witness_unit_events :
    (∃ s k slot st e base n, st.write = false ∧ sdCopy st.desc = false ∧ st.run = some base ∧ movable s k slot st st.pages e (base + st.byte) n ∧
      (fifoOf s (sdPlane st.desc) (.mem k, 4)).length = 3 ∧ (st.byte ≠ 0 ∨ s.windows = []) ∧ s.poisoned = []) ∧
    (∃ s k slot st, streamOf s k slot = some st ∧ st.done = true) ∧
    (∀ c ∈ [Cause.boundary, Cause.illegal], ∃ s k slot st tr, streamOf s k slot = some st ∧ st.fault = some tr ∧ tr.cause = c) ∧
    (∃ s n k u, k = 3 ∧ (coreOf s (.tile n)).cursors[k]? = some u ∧ u.left = 0#16) ∧
    (∀ begun, ∃ s quad c l, (quadOf s quad).queue = c :: l ∧ c.begun = begun ∧ c.kind = .mzero ∧ ∀ g ∈ s.gangs, g.2.stopping = false) ∧
    (∀ j : Fin 4, ∃ s quad k, (quadOf s quad).held = false ∧ 1 ≤ k ∧ k ≤ 4 ∧ leaseOf (quadOf s quad) (((quadOf s quad).holder + k) % 4) = .waiting ∧ k = j.val + 1) :=
  ⟨⟨streamState, 0, 0, runStream false false, plainLeaf, 0, 8, rfl, by decide, rfl,
    ⟨fun p h => (by cases h), rfl, by decide +kernel, by decide +kernel, rfl, by decide, by decide, rfl, by decide, 0, rfl, by decide +kernel, fun h => absurd h (by decide)⟩, by decide, .inr rfl, rfl⟩,
   ⟨endedState none, 0, 0, _, rfl, rfl⟩, fun c _ => ⟨endedState (some { cause := c }), 0, 0, _, { cause := c }, rfl, rfl, rfl⟩, ⟨tileWith runner, 0, 3, {}, rfl, rfl, rfl⟩,
   fun begun => ⟨oneCommand .mzero begun, 0, command .mzero 1 begun, [], rfl, rfl, rfl, fun g h => (by cases h)⟩,
   fun j => ⟨waitingQuad j, 0, j.val + 1, rfl, by revert j; decide, by revert j; decide, by revert j; decide, by revert j; decide⟩⟩

/-- The gang of a lane at a hurdle that seals or not, all its members there. -/
def arrivedState (sealing : Bool) : State :=
  laneJob { laneGang with hurdleOn := true, arrived := membersOf 1, sealing := sealing } { runner with wait := .hurdle 0 sealing }
/-- A gang with a token; one that applies slot 1; one that stops; a saved one whose slots are tagged. -/
def tokenState : State := laneJob { laneGang with tokens := [3] } runner
def flipState : State := { laneJob { laneGang with applying := some 1 } { runner with mode := .stopped } with starter := { slotTags := tagsOne } }
def stoppingState : State := laneJob { laneGang with stopping := true } runner
def savedState : State :=
  { laneJob savedGang {} with starter := { slotTags := (laneAgents 0 1).map fun a => (slotKey a 0, { image := 0, ctx := 5, cfg := 0, leg := {} }) } }
/-- A saved gang that holds the object another one asks for, its context out of the running set. -/
def holderState : State :=
  { gangs := [(1, savedGang), (2, laneGang)], mem := [(0x100002, 1), (0x10000D, 1)], acqQ := [⟨⟨2, 0⟩, 0x100000, 0, false, memLeaf⟩] }
def cancelledState : State := laneJob { savedGang with cancelled := true } {}

theorem witness_gang_events :
    (∀ seals, ∃ s serial g, tfind (State.gangs s) serial = some g ∧ g.state = .running ∧ g.stopping = false ∧ g.atSeal = false ∧ g.hurdleOn = true ∧ g.hurdleScope = 0#2 ∧
      g.sealing = seals ∧ (∀ m ∈ membersOf g.lanes, m ∈ g.arrived) ∧ idleGang s g) ∧
    (∃ s serial g, ∃ pkg : Nat, tfind (State.gangs s) serial = some g ∧ g.state = .running ∧ (contextOf s g.ctx).switching = false ∧ pkg ∈ (contextOf s g.ctx).pkgs ∧ pkg ≠ s.ownPkg ∧
      capturedOpen s serial (portOfPkg s pkg) = false) ∧
    (∃ s serial g slot r, tfind (State.gangs s) serial = some g ∧ g.state = .running ∧ g.stopping = false ∧ serving s ∧ g.applying = none ∧ g.tokens = slot :: r) ∧
    (∃ s serial g slot, tfind (State.gangs s) serial = some g ∧ g.state = .running ∧ g.stopping = false ∧ serving s ∧ g.applying = some slot ∧ g.first + g.lanes ≤ 32 ∧ idleGang s g ∧
      ∀ a ∈ laneAgents g.first g.lanes, (coreOf s a).mode = .stopped ∧ tagged s (bImage g.bytes) g.ctx slot.toNat a slot.toNat = true) ∧
    (∃ s serial g, tfind (State.gangs s) serial = some g ∧ g.state = .running ∧ g.first + g.lanes ≤ 32 ∧ g.heat = none ∧ g.stopping = true ∧ idleGang s g ∧
      ∀ a ∈ laneAgents g.first g.lanes, (coreOf s a).wait = .none) ∧
    (∃ s serial g i f, State.gangs s = [(serial, g)] ∧ g.state = .saved ∧ g.image = some i ∧ (contextOf s g.ctx).running = true ∧ (contextOf s g.ctx).stopped = none ∧
      lowestRun s g.lanes = some f ∧ g.unloaded = false ∧ ∀ a ∈ laneAgents f g.lanes, tagged s (bImage g.bytes) g.ctx (configOf g) a g.slot.toNat = true) ∧
    (∃ s holder waiter h w r, tfind (State.gangs s) holder = some h ∧ tfind s.gangs waiter = some w ∧ h.state = .saved ∧ s.acqQ = [r] ∧ r.who.serial = waiter ∧
      heldBy s r.obj holder = true ∧ (contextOf s h.ctx).running = false ∧ alone s holder h ∧ serving s) ∧
    (∃ s serial g, tfind (State.gangs s) serial = some g ∧ g.state = .saved ∧ g.cancelled = true ∧
      ∀ m ∈ membersOf g.lanes, (memberCore s serial m).holdings = [] ∧ (memberCore s serial m).wait = .none) ∧
    (∃ s : State, s.gangs = [] ∧ s.trackTime.toNat % 1000 = 0 ∧ s.starter.lastScan ≠ some s.trackTime.toNat ∧ s.starter.stopped = false) :=
  ⟨fun seals => ⟨arrivedState seals, 1, _, rfl, rfl, rfl, rfl, rfl, rfl, rfl, fun m h => h, by cases seals <;> (unfold idleGang idleMember; decide +kernel)⟩,
   ⟨laneJob laneGang runner, 1, _, 1, rfl, rfl, rfl, by decide, by decide, rfl⟩, ⟨tokenState, 1, _, 3, [], rfl, rfl, rfl, ⟨rfl, rfl⟩, rfl, rfl⟩,
   ⟨flipState, 1, _, 1, rfl, rfl, rfl, ⟨rfl, rfl⟩, rfl, by decide, by unfold idleGang idleMember; decide +kernel, by decide +kernel⟩,
   ⟨stoppingState, 1, _, rfl, rfl, by decide, rfl, rfl, by unfold idleGang idleMember; decide +kernel, by decide +kernel⟩,
   ⟨savedState, 1, _, _, 0, rfl, rfl, rfl, rfl, rfl, by decide +kernel, rfl, by decide +kernel⟩,
   ⟨holderState, 1, 2, _, _, _, rfl, rfl, rfl, rfl, rfl, by decide +kernel, rfl, by unfold alone; decide +kernel, ⟨rfl, rfl⟩⟩,
   ⟨cancelledState, 1, _, rfl, rfl, rfl, by decide +kernel⟩, ⟨{ trackTime := 1000 }, rfl, rfl, (by intro h; cases h), rfl⟩⟩

/-- A gang at the seal of context 5; an idle job; a triggered rollback of an empty lap; a collective of one package; a due switch; a release; a timed head; an old head. -/
def sealState : State :=
  { laneJob { sealingGang with atSeal := true } { runner with wait := .hurdle 0 true } with
    contexts := [(5, { laps := true, running := true, resident := true, sealPending := true })] }
def idleState : State := { contexts := [(5, { laps := true, resident := true, idleSealed := false })] }
def reclaimState : State := lapJob { lapFour with chunks := [oldChunk], reclaiming := [7] } runner
def undoneState : State := undone 2 [] {}
def sumOne : Collective := { ctx := 5, cfg := 0, desc := BitVec.ofNat 512 (0x200 + 0x300 * 2 ^ 64 + 2 ^ 128), descAt := 0x100000, va := 0, leaf := memLeaf, lap := 0 }
def sumRuns : State := { collJob (collMem 1) 0 with collectives := [sumOne] }
def quietState : State := { contexts := [(5, { resident := true, pkgs := [0, 7] })], routes := [(7, 1#24 <<< 23)] }
def switchDue : State := { trackTime := 100, contexts := [(5, { resident := true, laps := true, running := true })], starter := { ttable := [(63, { time := 100, valid := true, inn := 5 })] } }
def releaseState : State := releasing 0 false true [] []
def timedState : State := starterState (headQueue 1) [(0, { headOf timedBytes none with depMet := true })] 1000
def oldState : State := starterState (headQueue 1) [(0, headOf oneLane (some 500))] 2000500

theorem witness_job_events :
    (∃ s ctx, let x := contextOf s ctx
      x.laps = true ∧ x.sealPending = true ∧ x.reclaiming = [] ∧ x.trigger = none ∧ (∀ e ∈ s.gangs, e.2.ctx = ctx → e.2.state = .running ∧ e.2.atSeal = true) ∧
      (∀ e ∈ s.heats, e.2.ctx ≠ ctx) ∧ x.stagedWrites = [] ∧ x.stagedRecords = [] ∧ x.heldRecords = [] ∧ x.heldSteps = []) ∧
    (∃ s ctx, let x := contextOf s ctx
      x.laps = true ∧ x.resident = true ∧ x.sealPending = false ∧ x.idleSealed = false ∧ s.gangs = [] ∧ s.starter.queues = [] ∧ s.starter.pushBuf = []) ∧
    (∃ s ctx mc, mc ∈ (contextOf s ctx).reclaiming) ∧
    (∃ s ctx, let x := contextOf s ctx
      x.laps = true ∧ x.trigger.isSome = true ∧ x.rollbacks + 1 = rollbackLimit x ∧ s.poisoned = [] ∧ s.gangs = [] ∧ x.current = none ∧ lapUndo s ctx = [] ∧
      ¬ lostForGood s ctx ∧ nothingUnderway s ctx) ∧
    (∃ s x bs ed pd, State.collectives s = [x] ∧ (contextOf s x.ctx).running = true ∧ (contextOf s x.ctx).stopped = none ∧ (∀ n, x.gang = some n → tfind s.gangs n = none) ∧ dataCaptured s x = false ∧
      collWhole x.desc s.ownPkg (contextOf s x.ctx).pkgs [] [s.ownPkg] = true ∧ plainPage x.leaf ∧ plainPage ed ∧
      unitRead s x.ctx x.cfg { need := .r, scalar := false, memSide := true } (collSrc x.desc) (collBytes x.desc) = .ok bs ∧
      let r := collResult x.desc [(s.ownPkg, bs)] [s.ownPkg]
      translateFor s x.ctx x.cfg { need := .w, scalar := false, memSide := true } (collDst x.desc) = .ok (ed, pd) ∧ collDst x.desc % 4096 + r.length ≤ 4096 ∧ 0 < r.length) ∧
    (∃ s ctx port, (contextOf s ctx).resident = true ∧ port ∈ jobPorts s ctx) ∧
    (∃ s, ∃ pkg : Nat, pkg ≠ State.ownPkg s ∧ pkg = 2047 ∧ s.acqQ = [] ∧ s.collectives = [] ∧ ∀ e ∈ s.contexts, pkg ∉ e.2.pkgs) ∧
    (∃ s idx e, (State.starter s).ttable = [(idx, e)] ∧ e.valid = true ∧ e.done = false ∧ e.failed = false ∧ e.time = s.trackTime.toNat ∧ s.starter.switching = none ∧ serving s ∧
      s.mgmt.thermalStop = false ∧ passAway s = false ∧ e.out = 0xFFFF ∧ e.inn ≠ 0xFFFF ∧ (contextOf s e.inn).resident = true ∧
      (contextOf s e.inn).running = true ∧ s.gangs = []) ∧
    (∃ s n b, batonOf s n = some b ∧ b.stage = .release ∧ b.byFirmware = false ∧ serving s ∧ s.net = [] ∧ b.lost = false ∧ bCword b.bytes = 0 ∧ bSucc0 b.bytes = 0 ∧
      bSucc1 b.bytes = 0 ∧ bSealing b.bytes = false ∧ (contextOf s b.ctx).laps = true) ∧
    (∃ s q n b, (queueOf s q).current = some n ∧ batonOf s n = some b ∧ bTimed b.bytes = true ∧ bTtime b.bytes = s.trackTime.toNat ∧ b.ready = none ∧ b.stage = .head ∧ b.depMet = true) ∧
    (∃ s q n b since, (queueOf s q).current = some n ∧ batonOf s n = some b ∧ b.ready = some since ∧ since + 2000000 * (b.waited + 1) = s.trackTime.toNat) ∧
    (∃ s ctx, (contextOf s ctx).resident = true ∧ s.gangs = []) := by
  have hu : (unitRead sumRuns 5 0 { need := .r, scalar := false, memSide := true } (collSrc sumOne.desc) (collBytes sumOne.desc)).toOption = some (List.replicate 4 0#8) := by
    decide +kernel
  have hr : (collResult sumOne.desc [(sumRuns.ownPkg, List.replicate 4 0#8)] [sumRuns.ownPkg]).length = 4 := by decide +kernel
  refine ⟨⟨sealState, 5, rfl, rfl, rfl, rfl, fun e h _ => (by rcases List.mem_singleton.mp h with rfl; exact ⟨rfl, rfl⟩), fun e h => (by cases h), rfl, rfl, rfl, rfl⟩,
    ⟨idleState, 5, rfl, rfl, rfl, rfl, rfl, rfl, rfl⟩, ⟨reclaimState, 5, 7, .head _⟩, ⟨undoneState, 5, rfl, rfl, rfl, rfl, rfl, rfl, rfl, by unfold lostForGood; decide, by unfold nothingUnderway; decide⟩,
    ⟨sumRuns, sumOne, List.replicate 4 0#8, memLeaf, _, rfl, rfl, rfl, fun n h => (by cases h), by decide +kernel, by decide +kernel, plainMem, plainMem, ?_,
      translates (by decide +kernel) (by decide +kernel) (by decide +kernel) (by decide +kernel), by show _ + List.length _ ≤ _; rw [hr]; decide +kernel, by show 0 < List.length _; rw [hr]; decide⟩,
    ⟨quietState, 5, 23, rfl, by decide +kernel⟩, ⟨{}, 2047, by decide, rfl, rfl, rfl, fun e h => (by cases h)⟩,
    ⟨switchDue, 63, _, rfl, rfl, rfl, rfl, rfl, rfl, ⟨rfl, rfl⟩, rfl, rfl, rfl, by decide, rfl, rfl, rfl⟩,
    ⟨releaseState, 0, _, rfl, rfl, rfl, ⟨rfl, rfl⟩, rfl, rfl, by decide +kernel, by decide +kernel, by decide +kernel, by decide +kernel, rfl⟩,
    ⟨timedState, 255, 0, _, rfl, rfl, by decide +kernel, by decide +kernel, rfl, rfl, rfl⟩, ⟨oldState, 255, 0, _, 500, rfl, rfl, rfl, by decide +kernel⟩, ⟨idleState, 5, rfl, rfl⟩⟩
  revert hu
  show _ → unitRead sumRuns 5 0 { need := .r, scalar := false, memSide := true } (collSrc sumOne.desc) (collBytes sumOne.desc) = _
  cases unitRead sumRuns 5 0 { need := .r, scalar := false, memSide := true } (collSrc sumOne.desc) (collBytes sumOne.desc) with
  | error e => intro h; cases h
  | ok v => intro h; exact congrArg Except.ok (Option.some.inj h)

/-- A submitted entry for a queue of 63; a buffered push; no standby; a journal entry of kind 1, and one performed; a request that may be granted; a release; a wake; a deadline. -/
def passState : State := waitingState true (1#256 <<< 255) 63
def pushState : State := { queueState 63 runner with starter := { (queueState 63 runner).starter with pushBuf := [(255, { bytes := 0, source := .push })] } }
def aloneStarter : State := { laneJob laneGang runner with starter := { standbyOk := false } }
def entryState : State := journalled (1#256 <<< 32 ||| 200#256 <<< 48)
def doneState : State := { starter := { performed := [0], ja := [(0, 1#256 <<< 32)], jb := [(0, 1#256 <<< 32)] } }
def askState : State := { job false runner with gangs := [(1, { gangOne with state := .running })], acqQ := [⟨⟨1, 0⟩, 0x100000, 0, false, memLeaf⟩] }
def letGoState : State := { sent (fromOne (.release (holdZero false) memLeaf)) with mem := [(0x100002, 1), (0x10000D, 1)] }
def wakeState : State := { sent (fromOne (.wake 1 0)) with gangs := [(1, { gangOne with state := .running })] }
def deadlineState : State := heatJob gangOne (openMem 1) [(0x100000, heatOf 1)] (memCore [] 0)

theorem witness_starter_and_home_events :
    (∃ s q, onlyQueues s ∧ headsWait s ∧ q = 255 ∧ (queueOf s q).bound = true ∧ s.starter.pend.getLsbD q = true ∧ s.starter.app.getLsbD q = true ∧
      (queueOf s q).entries.length = 63) ∧
    (∃ s q e r, (State.starter s).pushBuf = (q, e) :: r ∧ (queueOf s q).entries.length = 63 ∧ starterRests s) ∧
    (∃ s : State, serving s ∧ s.starter.active < 2 ∧ s.starter.standbyOk = false) ∧
    (∃ s seq, seq < 2 ^ 32 ∧ s.starter.performed = [] ∧ jeDone (entryAt s seq) = false ∧ jeSeq (entryAt s seq) = seq ∧ belowTail s seq = true ∧ jeKind (entryAt s seq) = 1 ∧
      jeQ (entryAt s seq) < 256 ∧ s.starter.pend.getLsbD (jeQ (entryAt s seq)) = true ∧ s.starter.app.getLsbD (jeQ (entryAt s seq)) = false ∧
      (queueOf s (jeQ (entryAt s seq))).bound = true) ∧
    (∃ s seq, (State.starter s).performed = [seq] ∧ failedRelease s seq = none ∧ s.starter.delayed = [] ∧ acknowledged s seq = true ∧ jeSeq (entryAt s seq) = seq) ∧
    (∃ s r g, (State.acqQ s) = [r] ∧ s.pick = 0 ∧ tfind s.gangs r.who.serial = some g ∧ g.state = .running ∧ plainPage r.leaf ∧ r.shared = false ∧ memRead s r.obj 8 % 2 ^ 17 = 0) ∧
    (∃ s p h e, picked s = some p ∧ p.kind = .release h e ∧ plainPage e ∧ s.acqQ = [] ∧ h.shared = false) ∧
    (∃ s p serial m g, picked s = some p ∧ p.kind = .wake serial m ∧ tfind s.gangs serial = some g ∧ g.state = .running) ∧
    (∃ s rec h, tfind (State.heats s) rec = some h ∧ h.deadline ≠ 0 ∧ h.deadline = h.run ∧ plainPage h.leaf ∧ memRead s (rec + 2) 1 ≤ 64 ∧ s.heatWaiters = []) :=
  ⟨⟨passState, 255, onlyQueues_waiting _ _ _, waitingHeads _ _ _, rfl, rfl, (by show (1#256 <<< 255).getLsbD 255 = true; decide), (by show (1#256 <<< 255).getLsbD 255 = true; decide),
     List.length_replicate⟩,
   ⟨pushState, 255, _, [], rfl, by decide +kernel, ⟨rfl, rfl, rfl, fun e he h => (by rcases List.mem_singleton.mp he with rfl; cases h)⟩⟩,
   ⟨aloneStarter, ⟨rfl, rfl⟩, by decide, rfl⟩,
   ⟨entryState, 0, by decide, rfl, by decide +kernel, by decide +kernel, by decide +kernel, by decide +kernel, by decide +kernel, by decide +kernel, by decide +kernel, by decide +kernel⟩,
   ⟨doneState, 0, rfl, by decide +kernel, rfl, by decide +kernel, by decide +kernel⟩, ⟨askState, _, _, rfl, rfl, rfl, rfl, plainMem, rfl, by decide +kernel⟩,
   ⟨letGoState, _, _, _, rfl, rfl, plainMem, rfl, rfl⟩, ⟨wakeState, _, _, _, _, rfl, rfl, rfl, rfl⟩, ⟨deadlineState, 0x100000, _, rfl, by decide, rfl, plainMem, by decide +kernel, rfl⟩⟩
end Sys2Proof.Tests
end

section
/-! PROOFS. The counting members and CMOV (R345, R346): the model's recursive counts are the counts of the table, and each form
completes with its result. -/

namespace Sys2Proof.Machine

/-! ### The counts of R345 -/

theorem setBits_eq_length_filter (x : Word) (n : Nat) :
    setBits x n = ((List.range n).filter fun i => x.getLsbD i).length := by
  induction n with
  | zero => rfl
  | succ n ih =>
    rw [setBits, ih, List.range_succ, List.filter_append, List.length_append, Nat.add_comm]
    cases hx : x.getLsbD n <;> simp [hx]

/-- Bit i is what the low i + 1 bits of a word have beyond the low i. -/
theorem toNat_mod_two_pow_succ (x : Word) (i : Nat) :
    x.toNat % 2 ^ (i + 1) = x.toNat % 2 ^ i + if x.getLsbD i then 2 ^ i else 0 := by
  rw [Nat.mod_pow_succ, ← Nat.toNat_testBit, BitVec.testBit_toNat]
  cases x.getLsbD i <;> simp

/-- Looking at n bits of a word that has no others: a set bit n − 1 ends the count, a clear one adds 1 to it. -/
theorem leadingZeros_eq_length_filter (x : Word) (n : Nat) (h : x.toNat < 2 ^ n) :
    leadingZeros x n = ((List.range n).filter fun i => x.toNat < 2 ^ i).length := by
  induction n with
  | zero => rfl
  | succ n ih =>
    have hbit := toNat_mod_two_pow_succ x n
    rw [Nat.mod_eq_of_lt h] at hbit
    rw [leadingZeros]
    split
    · next hset =>
      have hge : 2 ^ n ≤ x.toNat := by rw [hbit, if_pos hset]; exact Nat.le_add_left ..
      rw [eq_comm, List.length_eq_zero_iff, List.filter_eq_nil_iff]
      intro i hi hlt
      have hpow : 2 ^ i ≤ 2 ^ n := Nat.pow_le_pow_right (by decide) (Nat.le_of_lt_succ (List.mem_range.mp hi))
      exact absurd (of_decide_eq_true hlt) (Nat.not_lt.mpr (hpow.trans hge))
    · next hclear =>
      have hlt : x.toNat < 2 ^ n := by rw [hbit, if_neg hclear]; exact Nat.mod_lt _ (Nat.two_pow_pos n)
      rw [ih hlt, List.range_succ, List.filter_append, List.length_append, Nat.add_comm]
      simp [hlt]

/-- From bit i on, with none set below it: a set bit i ends the count, a clear one adds 1 to it. -/
theorem trailingZeros_eq_length_filter (x : Word) (i n : Nat) (h : x.toNat % 2 ^ i = 0) :
    trailingZeros x i n = ((List.range' i n).filter fun j => x.toNat % 2 ^ (j + 1) = 0).length := by
  induction n generalizing i with
  | zero => rfl
  | succ n ih =>
    have hbit := toNat_mod_two_pow_succ x i
    rw [h, Nat.zero_add] at hbit
    rw [trailingZeros]
    split
    · next hset =>
      rw [if_pos hset] at hbit
      rw [eq_comm, List.length_eq_zero_iff, List.filter_eq_nil_iff]
      intro j hj hzero
      have hdvd : 2 ^ (i + 1) ∣ x.toNat :=
        (pow_dvd_pow 2 (Nat.succ_le_succ (List.mem_range'_1.mp hj).1)).trans (Nat.dvd_of_mod_eq_zero (of_decide_eq_true hzero))
      exact absurd (hbit.symm.trans (Nat.mod_eq_zero_of_dvd hdvd)) (Nat.two_pow_pos i).ne'
    · next hclear =>
      rw [if_neg hclear] at hbit
      rw [ih (i + 1) hbit, List.range'_succ, List.filter_cons_of_pos (by simpa using hbit), List.length_cons, Nat.add_comm]

theorem setBits_eq_ones (x : Word) : setBits x 64 = Says.ones x := setBits_eq_length_filter x 64

theorem leadingZeros_eq_zerosAbove (x : Word) : leadingZeros x 64 = Says.zerosAbove x :=
  leadingZeros_eq_length_filter x 64 x.isLt

theorem trailingZeros_eq_zerosBelow (x : Word) : trailingZeros x 0 64 = Says.zerosBelow x := by
  rw [trailingZeros_eq_length_filter x 0 64 (Nat.mod_one _), Says.zerosBelow, List.range_eq_range']

/-! ### Completing with a scalar result -/

variable {s : State} {d a b : Reg} {x y : Word} {c1 c2 c3 : Core}

/-- A form with one scalar source completes with its value once nothing it names is pending. -/
theorem runCore_alu1 {f : Word → Word} (hu : Says.Unlocked (Says.kind s) (Says.own s) [a] [d])
    (ha : readX (Says.kind s) (Says.own s) a = .ok (x, c1)) (hd : writeX (Says.kind s) c1 d (f x) = .ok c2) :
    runCore s (alu1 f d a) = .next (setCore s s.cur (retire c2)) := by
  apply runCore_done
  rw [alu1, interlock_unlocked (unlocked_iff.mpr hu), withX_ok ha, doneX_ok hd]

/-- CMOV completes once it has read both sources: as they left the core when xb is zero, with xa written otherwise. -/
theorem execCmov_completes (hu : Says.Unlocked (Says.kind s) (Says.own s) [a, b] [d])
    (ha : readX (Says.kind s) (Says.own s) a = .ok (x, c1)) (hb : readX (Says.kind s) c1 b = .ok (y, c2))
    (hd : (if y = 0#64 then .ok c2 else writeX (Says.kind s) c2 d x) = .ok c3) :
    execCmov d a b s = .next (setCore s s.cur (retire c3)) := by
  apply runCore_done
  rw [interlock_unlocked (unlocked_iff.mpr hu), withX_ok ha, withX_ok hb]
  split at hd
  · next hy =>
    cases hd
    rw [if_pos hy]
  · next hy => rw [if_neg hy, doneX_ok hd]

end Sys2Proof.Machine

namespace Sys2Proof

theorem toNat_append_eq_add {m n : Nat} (x : BitVec m) (y : BitVec n) : (x ++ y).toNat = x.toNat * 2 ^ n + y.toNat := by
  rw [BitVec.toNat_append, ← Nat.shiftLeft_add_eq_or_of_lt y.isLt, Nat.shiftLeft_eq]

/-- The word of an INT member (R345, R346: format R, major 0x01, pg 0) as its fixed part and its registers at their places. -/
theorem encode_int {i : Instr} {d a b : Reg} {fn : BitVec 8} {fixed : Nat} (h : encodeCore i = some (encR 0x01 d a b 0 fn))
    (hfixed : 1 + fn.toNat * 2 ^ 24 = fixed) :
    encode i = some (32, fixed + d.toNat * 2 ^ 6 + a.toNat * 2 ^ 11 + b.toNat * 2 ^ 16) := by
  have hword : (encR 0x01 d a b 0 fn).toNat = fixed + d.toNat * 2 ^ 6 + a.toNat * 2 ^ 11 + b.toNat * 2 ^ 16 := by
    simp only [encR, toNat_append_eq_add, ← hfixed, BitVec.ofNat_eq_ofNat, BitVec.toNat_ofNat]
    omega
  simp only [encode, h, hword]

/-- The word of an INT member with one source: its field b is 0 (R345). -/
theorem encode_int_oneSource {i : Instr} {d a : Reg} {fn : BitVec 8} {fixed : Nat}
    (h : encodeCore i = some (encR 0x01 d a 0 0 fn)) (hfixed : 1 + fn.toNat * 2 ^ 24 = fixed) :
    encode i = some (32, fixed + d.toNat * 2 ^ 6 + a.toNat * 2 ^ 11) := by
  simpa using encode_int h hfixed

namespace Says

open Machine

theorem counting_cases {i : Instr} {d a : Reg} {f : Word → Word} (h : counting i = some (d, a, f)) :
    (i = .clz d a ∧ f = fun x => BitVec.ofNat 64 (zerosAbove x)) ∨
    (i = .ctz d a ∧ f = fun x => BitVec.ofNat 64 (zerosBelow x)) ∨
    (i = .popc d a ∧ f = fun x => BitVec.ofNat 64 (ones x)) := by
  unfold counting at h
  split at h
  · cases h; exact .inl ⟨rfl, rfl⟩
  · cases h; exact .inr (.inl ⟨rfl, rfl⟩)
  · cases h; exact .inr (.inr ⟨rfl, rfl⟩)
  · cases h

/-- A counting form runs as a form with one source whose value is that of the table of R345. -/
theorem exec_of_counting {i : Instr} {d a : Reg} {f : Word → Word} (h : counting i = some (d, a, f)) (s : State) :
    exec i s = runCore s (alu1 f d a) := by
  obtain ⟨rfl, rfl⟩ | ⟨rfl, rfl⟩ | ⟨rfl, rfl⟩ := counting_cases h
  · simp only [← leadingZeros_eq_zerosAbove]; rfl
  · simp only [← trailingZeros_eq_zerosBelow]; rfl
  · simp only [← setBits_eq_ones]; rfl

end Says
end Sys2Proof

open Sys2Proof Sys2Proof.Machine Sys2Proof.Says

/-- Settles O2: each counting form has one source, and its recursive count is the count of the table of R345. -/
theorem countingResults : Obligations.CountingResults := by
  unfold Obligations.CountingResults
  refine ⟨fun i d a f hi s x c1 c2 hu ha hd => ?_, fun d a => ?_⟩
  · rw [Completes, exec_of_counting hi, runCore_alu1 hu ha hd]
  · exact ⟨encode_int_oneSource rfl rfl, encode_int_oneSource rfl rfl, encode_int_oneSource rfl rfl⟩

/-- Settles O4, by the two cases of xb. -/
theorem cmovResult : Obligations.CmovResult := by
  unfold Obligations.CmovResult
  exact ⟨fun _ _ _ _ _ _ _ _ _ hu ha hb hd => execCmov_completes hu ha hb hd, fun _ _ _ => encode_int rfl rfl⟩

end

section
/-! PROOFS. The shift-immediate members (R400): the model's shifts of a 64-bit word are the values of the table, and each form completes
with its value. -/

namespace Sys2Proof

/-! ### The values of R400 -/

theorem shiftLeft_eq_mul (x : Word) (n : Nat) : x <<< n = BitVec.ofNat 64 (x.toNat * 2 ^ n) := by
  rw [← Nat.shiftLeft_eq]
  exact BitVec.eq_of_toNat_eq BitVec.toNat_shiftLeft

theorem ushiftRight_eq_div (x : Word) (n : Nat) : x >>> n = BitVec.ofNat 64 (x.toNat / 2 ^ n) := by
  rw [← Nat.shiftRight_eq_div_pow, ← BitVec.toNat_ushiftRight, BitVec.ofNat_toNat, BitVec.setWidth_eq]

theorem sshiftRight_eq_div (x : Word) (n : Nat) : x.sshiftRight n = BitVec.ofInt 64 (x.toInt / 2 ^ n) := by
  rw [← BitVec.ofInt_toInt (x := x.sshiftRight n), BitVec.toInt_sshiftRight, Int.shiftRight_eq_div_pow, Nat.cast_pow, Nat.cast_ofNat]

/-- A rotation joins the bits that stay and the bits that come in from the top, which share no place; at amount 0 the second part
is a multiple of 2 ^ 64 and leaves x as it is. -/
theorem rotateRight_eq_add (x : Word) {n : Nat} (hn : n < 64) :
    x.rotateRight n = BitVec.ofNat 64 (x.toNat / 2 ^ n + x.toNat * 2 ^ (64 - n)) := by
  have hdisjoint : x >>> n &&& x <<< (64 - n) = 0#64 := by
    ext i hi
    by_cases hstays : i < 64 - n
    · simp [hstays]
    · simp [BitVec.getLsbD_of_ge x (n + i) (by omega)]
  rw [BitVec.rotateRight_def, Nat.mod_eq_of_lt hn, ← BitVec.add_eq_or_of_and_eq_zero _ _ hdisjoint, ushiftRight_eq_div,
    shiftLeft_eq_mul, BitVec.ofNat_add]

/-! ### The words of R400 -/

/-- The word of a shift-immediate member (format I, major 0x06) as its fixed part, its registers, its amount and its kind at their
places. -/
theorem encode_shiftImm {i : Instr} {d a : Reg} {sh : BitVec 6} {k : BitVec 2}
    (h : encodeCore i = some (encI 0x06 d a (immShi k sh))) :
    encode i = some (32, 6 + d.toNat * 2 ^ 6 + a.toNat * 2 ^ 11 + sh.toNat * 2 ^ 16 + k.toNat * 2 ^ 22) := by
  have hword : (encI 0x06 d a (immShi k sh)).toNat =
      6 + d.toNat * 2 ^ 6 + a.toNat * 2 ^ 11 + sh.toNat * 2 ^ 16 + k.toNat * 2 ^ 22 := by
    simp only [encI, immShi, toNat_append_eq_add, BitVec.ofNat_eq_ofNat, BitVec.toNat_ofNat]
    omega
  simp only [encode, h, hword]

namespace Says

open Machine

theorem shiftImm_cases {i : Instr} {d a : Reg} {f : Word → Word} (h : shiftImm i = some (d, a, f)) :
    ∃ sh : BitVec 6,
      (i = .slli d a sh ∧ f = fun x => BitVec.ofNat 64 (x.toNat * 2 ^ sh.toNat)) ∨
      (i = .srli d a sh ∧ f = fun x => BitVec.ofNat 64 (x.toNat / 2 ^ sh.toNat)) ∨
      (i = .srai d a sh ∧ f = fun x => BitVec.ofInt 64 (x.toInt / 2 ^ sh.toNat)) ∨
      (i = .rori d a sh ∧ f = fun x => BitVec.ofNat 64 (x.toNat / 2 ^ sh.toNat + x.toNat * 2 ^ (64 - sh.toNat))) := by
  unfold shiftImm at h
  split at h
  · cases h; exact ⟨_, .inl ⟨rfl, rfl⟩⟩
  · cases h; exact ⟨_, .inr (.inl ⟨rfl, rfl⟩)⟩
  · cases h; exact ⟨_, .inr (.inr (.inl ⟨rfl, rfl⟩))⟩
  · cases h; exact ⟨_, .inr (.inr (.inr ⟨rfl, rfl⟩))⟩
  · cases h

/-- A shift-immediate form runs as a form with one source whose value is that of the table of R400. -/
theorem exec_of_shiftImm {i : Instr} {d a : Reg} {f : Word → Word} (h : shiftImm i = some (d, a, f)) (s : State) :
    exec i s = runCore s (alu1 f d a) := by
  obtain ⟨sh, ⟨rfl, rfl⟩ | ⟨rfl, rfl⟩ | ⟨rfl, rfl⟩ | ⟨rfl, rfl⟩⟩ := shiftImm_cases h
  · simp only [← shiftLeft_eq_mul]; rfl
  · simp only [← ushiftRight_eq_div]; rfl
  · simp only [← sshiftRight_eq_div]; rfl
  · simp only [← rotateRight_eq_add _ sh.isLt]; rfl

end Says
end Sys2Proof

open Sys2Proof Sys2Proof.Machine Sys2Proof.Says

/-- Settles O3: each shift-immediate form has one source, and its shift or rotation of the word is the value of the table of R400. -/
theorem shiftImmediateResults : Obligations.ShiftImmediateResults := by
  unfold Obligations.ShiftImmediateResults
  refine ⟨fun i d a f hi s x c1 c2 hu ha hd => ?_, fun d a sh => ⟨?_, ?_, ?_, ?_⟩⟩
  · rw [Completes, exec_of_shiftImm hi, runCore_alu1 hu ha hd]
  · simpa using encode_shiftImm (k := 0) rfl
  · simpa using encode_shiftImm (k := 1) rfl
  · simpa using encode_shiftImm (k := 2) rfl
  · simpa using encode_shiftImm (k := 3) rfl

end
